-- ==== Sys2Proof/Word.lean ====
section
/-! DEFINITION. The words of the IX240: bytes, blocks, block masks of a grain, the ports and the names of commands. -/

namespace Sys2Proof

/-- A byte of a frame or a stored block. -/
abbrev Byte := BitVec 8

/-- The contents of one 512-byte block, byte 0 first (00 section 4.1). -/
abbrev Block := List Byte

/-- A set of blocks of one grain: bit i stands for block i of the grain (R20). -/
abbrev Mask := BitVec 8

/-- The two host ports. -/
inductive Port where
  | A
  | B
  deriving DecidableEq, Repr

/-- The other host port. -/
def Port.other : Port → Port
  | .A => .B
  | .B => .A

/-- A subset of the host ports (R1: read ports, write ports). -/
structure PortSet where
  a : Bool
  b : Bool
  deriving DecidableEq, Repr

/-- Whether the set names the port. -/
def PortSet.has (ps : PortSet) : Port → Bool
  | .A => ps.a
  | .B => ps.b

/-- The three links of the part. -/
inductive LinkId where
  | host (p : Port)
  | target
  deriving DecidableEq, Repr

/-- The name of a command record: its port and tag, as A4 or B9 (R38). -/
structure CmdId where
  port : Port
  tag  : Nat
  deriving DecidableEq, Repr

/-- The three owners of block buffers (R66). -/
inductive BufOwner where
  | host (p : Port)
  | internal
  deriving DecidableEq, Repr

end Sys2Proof
end

