-- ==== Sys2Proof/Machine/Bytes.lean ====
section
/-! DEFINITION. Byte order and checks (R183, R184): every number is stored least significant byte first; the header
check is a 16-bit cyclic check and the payload and block checks are 32-bit cyclic checks. -/

namespace Sys2Proof.Machine

/-- `n` bytes of a number, least significant byte first (R183). -/
def le (n v : Nat) : List Byte := (List.range n).map fun i => BitVec.ofNat 8 (v / 256 ^ i)

/-- The number that bytes spell, least significant byte first (R183). -/
def leVal : List Byte → Nat
  | [] => 0
  | b :: bs => b.toNat + 256 * leVal bs

/-- The number in the `n` bytes from byte `a` on. -/
def field (bytes : List Byte) (a n : Nat) : Nat := leVal ((bytes.drop a).take n)

/-- `n` zero bytes. -/
def zeros (n : Nat) : List Byte := List.replicate n 0

/-- A list of bytes filled with zeros up to length `n`. -/
def padTo (n : Nat) (bytes : List Byte) : List Byte := bytes ++ zeros (n - bytes.length)

/-- Whether the `n` bytes from byte `a` on are all zero. -/
def zeroAt (bytes : List Byte) (a n : Nat) : Bool := ((bytes.drop a).take n).all (· == 0)

/-- One bit of the 16-bit check, polynomial 0x1021, most significant bit first (R184). -/
def crc16Bit (c : BitVec 16) : BitVec 16 :=
  if c.msb then (c <<< 1) ^^^ 0x1021 else c <<< 1

/-- One byte of the 16-bit check. -/
def crc16Byte (c : BitVec 16) (b : Byte) : BitVec 16 :=
  Nat.repeat crc16Bit 8 (c ^^^ (b.zeroExtend 16 <<< 8))

/-- The header check (R184): initial value 0xFFFF, not complemented. -/
def headerCheck (bytes : List Byte) : BitVec 16 := bytes.foldl crc16Byte 0xFFFF

/-- One bit of the 32-bit check, polynomial 0x04C11DB7, least significant bit first (R184). -/
def crc32Bit (c : BitVec 32) : BitVec 32 :=
  if c.getLsbD 0 then (c >>> 1) ^^^ 0xEDB88320 else c >>> 1

/-- One byte of the 32-bit check. -/
def crc32Byte (c : BitVec 32) (b : Byte) : BitVec 32 :=
  Nat.repeat crc32Bit 8 (c ^^^ b.zeroExtend 32)

/-- The running 32-bit check over more bytes, before the final complement. -/
def crc32Run (c : BitVec 32) (bytes : List Byte) : BitVec 32 := bytes.foldl crc32Byte c

/-- The initial value of the 32-bit check. -/
def crc32Init : BitVec 32 := 0xFFFFFFFF

/-- The payload check and the block checks (R184). -/
def blockCheck (bytes : List Byte) : BitVec 32 := ~~~ crc32Run crc32Init bytes

/-- The 16-bit check as two stored bytes. -/
def headerCheckBytes (bytes : List Byte) : List Byte := le 2 (headerCheck bytes).toNat

/-- The 32-bit check as four stored bytes. -/
def blockCheckBytes (bytes : List Byte) : List Byte := le 4 (blockCheck bytes).toNat

end Sys2Proof.Machine
end

