-- ==== Sys2Proof/Config.lean ====
section
/-! DEFINITION. The fixed numbers of the part (00 section 5) and the free values, which the spec leaves open. -/

namespace Sys2Proof.Config

/-- The size of the logical and target address spaces: 40-bit block addresses. -/
def addressSpace : Nat := 2 ^ 40
/-- The first block of the management window (10.1). -/
def windowBase : Nat := 2 ^ 40 - 4
/-- The greatest exported capacity (R1). -/
def maxCapacity : Nat := 2 ^ 40 - 8
/-- Logical grains are 0 to 2^37 - 1 (R20). -/
def grainSpace : Nat := 2 ^ 37
/-- Region entries in a map (R1). -/
def regions : Nat := 32
/-- Tags of a host port (R152). -/
def hostTags : Nat := 16
/-- Target tags (R70). -/
def targetTags : Nat := 32
/-- The greatest block count of a READ or WRITE (R44). -/
def maxBlocks : Nat := 256
/-- Buffer quota of one host port (R66). -/
def hostQuota : Nat := 112
/-- Buffer quota of internal work (R66). -/
def internalQuota : Nat := 32
/-- All block buffers of the pool (R66). -/
def poolBlocks : Nat := 256
/-- The most blocks of one GRANT frame. -/
def grantMax : Nat := 16
/-- The most blocks granted and not yet sent for one command. -/
def grantWindow : Nat := 64
/-- A BASE run is cut at every 64th block (R62, R63). -/
def pieceMax : Nat := 64
/-- Capacity of the Overlay Table (R20). -/
def tableCapacity : Nat := 16384
/-- The relocation reserve (R34). -/
def relocReserve : Nat := 4
/-- Relocation claims that may stand at once (R52). -/
def relocClaims : Nat := 4
/-- Slots a relocation may try (R91). -/
def relocAttempts : Nat := 3
/-- Records of one journal block (R117). -/
def journalRecords : Nat := 30
/-- An automatic checkpoint starts at J minus this (R123). -/
def checkpointSlack : Nat := 16
/-- Target blocks of a checkpoint area (R124). -/
def checkpointArea : Nat := 560
/-- Bitmap blocks of an image (R124). -/
def bitmapBlocks : Nat := 4
/-- Entry blocks an image may hold (R124). -/
def maxEntryBlocks : Nat := 547
/-- Entries of one entry block (R124). -/
def entriesPerBlock : Nat := 30
/-- Body blocks formed and not yet reported written (R126). -/
def bodyWindow : Nat := 4
/-- Retries of NOT_READY (R83). -/
def notReadyRetries : Nat := 20
/-- Cap on tags of one host class (R71). -/
def hostCap : Nat := 14
/-- Cap on tags of the background class (R71). -/
def backgroundCap : Nat := 8
/-- The skip count at which background work is granted first (R72). -/
def skipLimit : Nat := 7
/-- Entries of a notice queue (R178). -/
def noticeMax : Nat := 30
/-- Items of a response (R171). -/
def itemsMax : Nat := 30
/-- The part code of IDENT (11.5). -/
def partCode : Nat := 0x0240
/-- The revision of IDENT (11.5). -/
def revision : Nat := 1

/-- A byte of a buffer block the target never filled; the spec states no value (log entry 8). -/
opaque freeByte : Nat → Byte
/-- A place within an operation, where the target names a failing block outside it; the spec
states none (log entry 8). -/
opaque freeIndex : Nat → Nat

/-- The n-th free block: 512 free bytes. -/
def freeBlock (n : Nat) : Block := (List.range 512).map fun i => freeByte (512 * n + i)

end Sys2Proof.Config
end

