-- ==== Sys2Proof/Syntax.lean ====
section
/-! DEFINITION. The commands of the IX240: one constructor for each row of spec/opcode_table.json. -/

namespace Sys2Proof

/-- The layout record (R136). -/
structure Layout where
  overlayBase : Nat
  slots       : Nat
  journalBase : Nat
  journalLen  : Nat
  ckA         : Nat
  ckB         : Nat
  lowWater    : Nat
  deriving DecidableEq, Repr

/-- The commands. `p` is a host port, `tag` the tag byte of a frame, `q` the 16-bit sequence of a
request block. Numbers of frames and requests are as carried; WellFormed gives their widths. -/
inductive Instr where
  /-- DEVICE_RESET (R134): power-on or RESET, with the last HOLD value sampled. -/
  | deviceReset (hold : Bool)
  /-- DISCARDED_FRAME (R151): a frame that fails its header check or that the port may not take. -/
  | discardedFrame (link : LinkId) (bytes : List Byte)
  /-- READ (R38, R153): a CMD frame with operation READ. -/
  | read (p : Port) (tag first count : Nat) (durable : Bool)
  /-- WRITE (R38, R153): a CMD frame with operation WRITE. -/
  | write (p : Port) (tag first count : Nat) (durable : Bool)
  /-- FLUSH (R80, R153): a CMD frame with operation FLUSH; its range fields are carried and not examined. -/
  | flush (p : Port) (tag first count : Nat) (durable : Bool)
  /-- SIZE (R81, R153): a CMD frame with operation SIZE; its range fields are carried and not examined. -/
  | size (p : Port) (tag first count : Nat) (durable : Bool)
  /-- UNKNOWN_OPERATION (R44, R153): a CMD frame with another operation code. -/
  | unknownOperation (p : Port) (tag code first count : Nat) (durable : Bool)
  /-- GRANT (R154): a GRANT frame from a host. -/
  | grant (p : Port) (tag count : Nat)
  /-- DATA (R154): a DATA frame from a host with its payload check. -/
  | data (p : Port) (tag index : Nat) (block : Block) (check : BitVec 32)
  /-- STOP (R158): a STOP frame from a host. -/
  | stop (p : Port) (tag : Nat)
  /-- LINKRESET (R162): a LINKRESET frame from a host. -/
  | linkreset (p : Port)
  /-- RESET_DONE (R163): a resetting port whose last record has left answers. -/
  | resetDone (p : Port)
  /-- DEFERRED_ARRIVAL_BECOMES_RECORD (R40). -/
  | deferredArrivalBecomesRecord (p : Port) (tag : Nat)
  /-- ORPHAN_LEAVES (R59). -/
  | orphanLeaves (p : Port) (tag : Nat)
  /-- ADMISSION (R42): the next admissible WAITING record is taken. -/
  | admission
  /-- HELD_CLAIM_START (R54): re-examination. -/
  | heldClaimStart
  /-- BUFFER_CLAIM_MET (R66): the head claim of an owner's queue is met. -/
  | bufferClaimMet (owner : BufOwner)
  /-- TARGET_TAG_GRANT (R72): the arbiter grants one tag. -/
  | targetTagGrant
  /-- TARGET_STATUS (R73): a STATUS frame from the target. -/
  | targetStatus (tag result blocksDone : Nat) (detail : Option Nat) (value : Nat)
  /-- RELOCATION_CLAIM_GRANT (R90): the relocation of a grain takes its granted claim. -/
  | relocationClaimGrant (grain : Nat)
  /-- RELOCATION_PLACEMENT (R52): the oldest queued relocation request is placed. -/
  | relocationPlacement
  /-- MERGE_GRAIN_CLAIM_GRANT (R105). -/
  | mergeGrainClaimGrant
  /-- DISCARD_CLAIM_GRANT (R114). -/
  | discardClaimGrant
  /-- JOURNAL_HANDOFF_TAKEN (R119): the first waiting hand-off is taken. -/
  | journalHandoffTaken
  /-- JOURNAL_BLOCK_CLOSE (R120). -/
  | journalBlockClose
  /-- DRAIN_END (R16). -/
  | drainEnd
  /-- TARGET_GRANT (R165): a GRANT frame from the target. -/
  | targetGrant (tag count : Nat)
  /-- TARGET_DATA (R165): a DATA frame from the target. -/
  | targetData (tag index : Nat) (block : Block) (check : BitVec 32)
  /-- TARGET_RESET_DONE (R98): a RESET_DONE frame from the target. -/
  | targetResetDone
  /-- LINK_SIZE_COMPLETE (R98): the STATUS of the link SIZE. -/
  | linkSizeComplete (result value : Nat)
  /-- DATA_WAIT_EXPIRY (R161). -/
  | dataWaitExpiry (p : Port) (tag : Nat)
  /-- TARGET_OPERATION_TIMEOUT (R96). -/
  | targetOperationTimeout (tag : Nat)
  /-- STOP_WAIT_EXPIRY (R97). -/
  | stopWaitExpiry (tag : Nat)
  /-- RESET_DONE_WAIT_EXPIRY (R98). -/
  | resetDoneWaitExpiry
  /-- SIZE_WAIT_EXPIRY (R98). -/
  | sizeWaitExpiry
  /-- NOT_READY_RETRY_INTERVAL (R84): the oldest not-ready interval ends. -/
  | notReadyRetryInterval
  /-- LINKRESET_REPEAT (R99). -/
  | linkresetRepeat
  /-- STAGE (R10). -/
  | stage (p : Port) (q : BitVec 16)
  /-- PUT_REGION (R11): `policy` is the code of the region entry image. -/
  | putRegion (p : Port) (q : BitVec 16) (index policy : Nat) (readPorts writePorts : PortSet) (first count target : Nat)
  /-- CLEAR_REGION (R12). -/
  | clearRegion (p : Port) (q : BitVec 16) (index : Nat)
  /-- SET_CAPACITY (R12). -/
  | setCapacity (p : Port) (q : BitVec 16) (capacity : Nat)
  /-- UNSTAGE (R13). -/
  | unstage (p : Port) (q : BitVec 16)
  /-- ACTIVATE (R14). -/
  | activate (p : Port) (q : BitVec 16)
  /-- SET_LAYOUT (R146). -/
  | setLayout (p : Port) (q : BitVec 16) (layout : Layout)
  /-- MERGE (R103): `index` 0xFF is ALL. -/
  | merge (p : Port) (q : BitVec 16) (index : Nat)
  /-- HALT_MERGE (R110). -/
  | haltMerge (p : Port) (q : BitVec 16)
  /-- DISCARD (R113). -/
  | discard (p : Port) (q : BitVec 16) (index : Nat)
  /-- CHECKPOINT (R129). -/
  | checkpoint (p : Port) (q : BitVec 16)
  /-- QUERY_REGION (R173): `map` 0 is ACTIVE, 1 is STAGED. -/
  | queryRegion (p : Port) (q : BitVec 16) (index map : Nat)
  /-- QUERY_OVERLAY (R174). -/
  | queryOverlay (p : Port) (q : BitVec 16) (grain : Nat)
  /-- QUERY_SLOTS (R175). -/
  | querySlots (p : Port) (q : BitVec 16)
  /-- QUERY_RETIRED (R175). -/
  | queryRetired (p : Port) (q : BitVec 16) (start : Nat)
  /-- QUERY_JOURNAL (R176). -/
  | queryJournal (p : Port) (q : BitVec 16)
  /-- ACK_NOTICES (R180). -/
  | ackNotices (p : Port) (q : BitVec 16) (n : BitVec 32)
  /-- UNKNOWN_REQUEST (R170): a request block with a code outside the catalogue. -/
  | unknownRequest (p : Port) (q : BitVec 16) (code : Nat)
  deriving DecidableEq, Repr

end Sys2Proof
end

