-- ==== Sys2Proof/WellFormed.lean ====
section
/-! DEFINITION. When a command is one that a frame, a request block or an event can carry: each operand fits the field
that carries it (11.1, 11.5). The meanings do not ask for it: they are total. -/

namespace Sys2Proof

/-- A byte-wide field. -/
def isByte (n : Nat) : Bool := decide (n < 256)
/-- A 16-bit field. -/
def isHalf (n : Nat) : Bool := decide (n < 65536)
/-- A 40-bit field. -/
def isAddress (n : Nat) : Bool := decide (n < 2 ^ 40)

/-- The request codes of the catalogue (11.5). -/
def requestCodes : List Nat :=
  [0x01, 0x02, 0x03, 0x04, 0x05, 0x06, 0x10, 0x20, 0x21, 0x22, 0x23, 0x30, 0x31, 0x32, 0x33, 0x34, 0x40]

/-- The layout record's fields fit their bytes (11.3). -/
def Layout.fits (l : Layout) : Bool :=
  isAddress l.overlayBase && isHalf l.slots && isAddress l.journalBase && isHalf l.journalLen &&
  isAddress l.ckA && isAddress l.ckB && isHalf l.lowWater

/-- A CMD frame's fields fit, and its tag is one the port takes (R151). -/
def cmdFits (tag first count : Nat) : Bool :=
  decide (tag < Config.hostTags) && isAddress first && isHalf count

/-- The host operation codes (11.1). -/
def knownOperation (code : Nat) : Bool := decide (1 ≤ code ∧ code ≤ 4)

/-- Well-formed commands. -/
def Instr.wellFormed : Instr → Bool
  | .deviceReset _ => true
  | .discardedFrame _ _ => true
  | .read _ tag first count _ => cmdFits tag first count
  | .write _ tag first count _ => cmdFits tag first count
  | .flush _ tag first count _ => cmdFits tag first count
  | .size _ tag first count _ => cmdFits tag first count
  | .unknownOperation _ tag code first count _ =>
      cmdFits tag first count && isByte code && !knownOperation code
  | .grant _ tag count => decide (tag < Config.hostTags) && isByte count
  | .data _ tag index block _ =>
      decide (tag < Config.hostTags) && isHalf index && decide (block.length = 512)
  | .stop _ tag => decide (tag < Config.hostTags)
  | .linkreset _ => true
  | .resetDone _ => true
  | .deferredArrivalBecomesRecord _ tag => decide (tag < Config.hostTags)
  | .orphanLeaves _ tag => decide (tag < Config.hostTags)
  | .admission => true
  | .heldClaimStart => true
  | .bufferClaimMet _ => true
  | .targetTagGrant => true
  | .targetStatus tag result done detail value =>
      isByte tag && isByte result && isHalf done && (detail.all isAddress) && isAddress value
  | .relocationClaimGrant grain => decide (grain < Config.grainSpace)
  | .relocationPlacement => true
  | .mergeGrainClaimGrant => true
  | .discardClaimGrant => true
  | .journalHandoffTaken => true
  | .journalBlockClose => true
  | .drainEnd => true
  | .targetGrant tag count => isByte tag && isByte count
  | .targetData tag index block _ => isByte tag && isHalf index && decide (block.length = 512)
  | .targetResetDone => true
  | .linkSizeComplete result value => isByte result && isAddress value
  | .dataWaitExpiry _ tag => decide (tag < Config.hostTags)
  | .targetOperationTimeout tag => decide (tag < Config.targetTags)
  | .stopWaitExpiry tag => decide (tag < Config.targetTags)
  | .resetDoneWaitExpiry => true
  | .sizeWaitExpiry => true
  | .notReadyRetryInterval => true
  | .linkresetRepeat => true
  | .stage _ _ => true
  | .putRegion _ _ index policy _ _ first count target =>
      isByte index && decide (policy < 8) && isAddress first && isAddress count && isAddress target
  | .clearRegion _ _ index => isByte index
  | .setCapacity _ _ capacity => isAddress capacity
  | .unstage _ _ => true
  | .activate _ _ => true
  | .setLayout _ _ layout => layout.fits
  | .merge _ _ index => isByte index
  | .haltMerge _ _ => true
  | .discard _ _ index => isByte index
  | .checkpoint _ _ => true
  | .queryRegion _ _ index map => isByte index && isByte map
  | .queryOverlay _ _ grain => isAddress grain
  | .querySlots _ _ => true
  | .queryRetired _ _ start => isHalf start
  | .queryJournal _ _ => true
  | .ackNotices _ _ _ => true
  | .unknownRequest _ _ code => isByte code && !requestCodes.contains code

end Sys2Proof
end

