-- ==== Sys2Proof/Decode.lean ====
section
/-! DEFINITION. From bytes to commands: the frames a host port and the target port take (R150, R151, R184, 11.1), and
back. No row of spec/opcode_table.json gives bits, so decodeTableWord spells no command. -/

namespace Sys2Proof

open Machine

/-- Frame kinds (11.1). -/
def kindCmd : Nat := 1
def kindGrant : Nat := 2
def kindData : Nat := 3
def kindStatus : Nat := 4
def kindStop : Nat := 5
def kindLinkreset : Nat := 6
def kindResetDone : Nat := 7

/-- The length of a frame of a kind, and where its header check stands; none for an unknown kind (11.1, R184). -/
def frameShape (kind : Nat) : Option (Nat × Nat) :=
  match kind with
  | 1 => some (16, 14)
  | 2 => some (8, 6)
  | 3 => some (524, 6)
  | 4 => some (20, 18)
  | 5 => some (4, 2)
  | 6 => some (4, 2)
  | 7 => some (4, 2)
  | _ => none

/-- The header check of a whole frame: a known kind, its kind's length, and the stored check equal to the check over
the bytes before it (R184). -/
def headerGood (bytes : List Byte) : Bool :=
  match frameShape (field bytes 0 1) with
  | none => false
  | some (len, at') =>
      decide (bytes.length = len) && decide (field bytes at' 2 = (headerCheck (bytes.take at')).toNat)

/-- The command of a CMD frame by its operation code (11.1). -/
def cmdOf (p : Port) (tag code first count : Nat) (durable : Bool) : Instr :=
  match code with
  | 1 => .read p tag first count durable
  | 2 => .write p tag first count durable
  | 3 => .flush p tag first count durable
  | 4 => .size p tag first count durable
  | c => .unknownOperation p tag c first count durable

/-- What a frame arriving at host port `p` is: the command it carries, or a discarded frame (R151, R154, R158, R162). -/
def decodeHostFrame (p : Port) (bytes : List Byte) : Instr :=
  if headerGood bytes then
    let tag := field bytes 1 1
    match field bytes 0 1 with
    | 1 => if tag < Config.hostTags then
             cmdOf p tag (field bytes 2 1) (field bytes 4 5) (field bytes 9 2) (decide (field bytes 3 1 % 2 = 1))
           else .discardedFrame (.host p) bytes
    | 2 => if tag < Config.hostTags then .grant p tag (field bytes 2 1) else .discardedFrame (.host p) bytes
    | 3 => if tag < Config.hostTags then
             .data p tag (field bytes 2 2) ((bytes.drop 8).take 512) (BitVec.ofNat 32 (field bytes 520 4))
           else .discardedFrame (.host p) bytes
    | 5 => if tag < Config.hostTags then .stop p tag else .discardedFrame (.host p) bytes
    | 6 => .linkreset p
    | _ => .discardedFrame (.host p) bytes
  else .discardedFrame (.host p) bytes

/-- What a frame arriving at the target port is (R165). A tag no operation has is judged by the command's meaning. -/
def decodeTargetFrame (bytes : List Byte) : Instr :=
  if headerGood bytes then
    let tag := field bytes 1 1
    match field bytes 0 1 with
    | 2 => .targetGrant tag (field bytes 2 1)
    | 3 => .targetData tag (field bytes 2 2) ((bytes.drop 8).take 512) (BitVec.ofNat 32 (field bytes 520 4))
    | 4 => .targetStatus tag (field bytes 2 1) (field bytes 4 2)
             (if field bytes 3 1 / 2 % 2 = 1 then some (field bytes 6 5) else none) (field bytes 11 5)
    | 7 => .targetResetDone
    | _ => .discardedFrame .target bytes
  else .discardedFrame .target bytes

/-- A frame from its bytes before the header check. -/
def closeFrame (body : List Byte) : List Byte := body ++ headerCheckBytes body

/-- A CMD frame (11.1). -/
def cmdFrame (tag code first count : Nat) (durable : Bool) : List Byte :=
  closeFrame (le 1 kindCmd ++ le 1 tag ++ le 1 code ++ le 1 (if durable then 1 else 0) ++ le 5 first ++ le 2 count ++ zeros 3)

/-- A GRANT frame (11.1). -/
def grantFrame (tag count : Nat) : List Byte :=
  closeFrame (le 1 kindGrant ++ le 1 tag ++ le 1 count ++ zeros 3)

/-- A DATA frame with the payload check it carries (11.1). -/
def dataFrame (tag index : Nat) (block : Block) (check : BitVec 32) : List Byte :=
  closeFrame (le 1 kindData ++ le 1 tag ++ le 2 index ++ zeros 2) ++ block ++ le 4 check.toNat

/-- A STATUS frame (11.1). An absent detail address is five zero bytes (log entry 42). -/
def statusFrame (tag result blocksDone : Nat) (detail : Option Nat) (value : Nat) (attention : Bool) : List Byte :=
  closeFrame (le 1 kindStatus ++ le 1 tag ++ le 1 result ++
    le 1 ((if attention then 1 else 0) + (if detail.isSome then 2 else 0)) ++ le 2 blocksDone ++
    le 5 (detail.getD 0) ++ le 5 value ++ zeros 2)

/-- A STOP, LINKRESET or RESET_DONE frame (11.1). -/
def shortFrame (kind tag : Nat) : List Byte := closeFrame (le 1 kind ++ le 1 tag)

/-- The bytes of a frame from a host, for the commands that are frames. -/
def encodeHostFrame : Instr → Option (List Byte)
  | .read _ tag first count durable => some (cmdFrame tag 1 first count durable)
  | .write _ tag first count durable => some (cmdFrame tag 2 first count durable)
  | .flush _ tag first count durable => some (cmdFrame tag 3 first count durable)
  | .size _ tag first count durable => some (cmdFrame tag 4 first count durable)
  | .unknownOperation _ tag code first count durable => some (cmdFrame tag code first count durable)
  | .grant _ tag count => some (grantFrame tag count)
  | .data _ tag index block check => some (dataFrame tag index block check)
  | .stop _ tag => some (shortFrame kindStop tag)
  | .linkreset _ => some (shortFrame kindLinkreset 0)
  | _ => none

/-- The bytes of a frame from the target, for the commands that are frames. -/
def encodeTargetFrame : Instr → Option (List Byte)
  | .targetStatus tag result done detail value => some (statusFrame tag result done detail value false)
  | .targetGrant tag count => some (grantFrame tag count)
  | .targetData tag index block check => some (dataFrame tag index block check)
  | .targetResetDone => some (shortFrame kindResetDone 0)
  | _ => none

/-- The command a word spells by the table's bits. No row of the table gives bits: none. -/
def decodeTableWord (_nbits _w : Nat) : Option Instr := none

end Sys2Proof
end

