-- ==== Sys2Proof/Machine/State.lean ====
section
/-! DEFINITION. The state of the part, unit by unit (00 section 2), as plain data, and its value after device reset. -/

namespace Sys2Proof.Machine

/-- No command of the part stops the machine: every failure the spec describes is a status, a response, a notice or a
state. The type has no constructor, so no meaning can answer with a fault. -/
inductive Fault where
  deriving DecidableEq, Repr

/-- Why a command is refused. -/
inductive Refusal where
  /-- Raised by exec alone, for a command whose meaning is not written yet. Safe: the machine stops. -/
  | notModelled (mnemonic : String)
  deriving DecidableEq, Repr

/-! ## Map Unit -/

/-- Policies (R5). -/
inductive Policy where
  | pass | readonly | overlay | keep | deny
  deriving DecidableEq, Repr

/-- The place a read goes to (R5). -/
inductive Source where
  | base | overlay
  deriving DecidableEq, Repr

/-- A region entry (R1). -/
structure Region where
  inUse      : Bool
  policy     : Policy
  readPorts  : PortSet
  writePorts : PortSet
  first      : Nat
  count      : Nat
  target     : Nat
  deriving DecidableEq, Repr

/-- The entry that is not in use; its other fields have no meaning and are held as zero (log entry 17). -/
def Region.unused : Region :=
  { inUse := false, policy := .pass, readPorts := ⟨false, false⟩, writePorts := ⟨false, false⟩,
    first := 0, count := 0, target := 0 }

/-- A Region Map: 32 entries and the exported capacity C (R1). -/
structure RegionMap where
  regions : List Region
  cap     : Nat
  deriving DecidableEq, Repr

/-- The empty map (R19). -/
def RegionMap.empty : RegionMap := { regions := List.replicate 32 Region.unused, cap := 0 }

/-- Why a map is not valid (R3). -/
inductive MapReason where
  | count | align | capacity | logicalOverlap | targetRange | targetOverlap | noLayout
  deriving DecidableEq, Repr

/-- An activation in progress (R16, R17). -/
structure Activation where
  map       : RegionMap
  port      : Port
  owed      : Option Port   -- the port whose response it owes; none when detached
  claimKept : Bool          -- the requesting port still holds the stage claim it held (R17)
  remaining : Nat           -- counted records the drain still waits for
  draining  : Bool          -- drain, or anchor write
  deriving DecidableEq, Repr

structure MapUnit where
  active      : RegionMap
  stage       : Option (Port × RegionMap)   -- the stage claim with its staging map (R10)
  hold        : Bool
  unavailable : List Bool
  layout      : Option Layout
  formatId    : Nat
  anchorGen   : Nat
  anchorCopy  : Option Nat
  activation  : Option Activation
  deriving DecidableEq, Repr

/-! ## Overlay Unit -/

/-- Entry states (R22). -/
inductive EntryState where
  | resident | moving | merging
  deriving DecidableEq, Repr

/-- An entry of the Overlay Table (R20). -/
structure Entry where
  grain   : Nat
  region  : Nat
  slot    : Option Nat
  present : Mask
  lost    : Mask
  state   : EntryState
  deriving DecidableEq, Repr

/-- A standing reservation (R27). -/
structure Reservation where
  grain   : Nat
  slot    : Nat
  holder  : CmdId
  sharers : List CmdId
  deriving DecidableEq, Repr

/-- A PENDING_FREE slot and the journal record its release waits for (R33). -/
structure PendingSlot where
  slot   : Nat
  record : Nat
  deriving DecidableEq, Repr

structure OverlayUnit where
  table        : List Entry
  slots        : Nat
  ring         : List Nat
  reservations : List Reservation
  pendingFree  : List PendingSlot
  retired      : List Nat
  condemned    : List Nat
  armed        : Bool
  deriving DecidableEq, Repr

/-! ## Admission and Ordering Unit -/

/-- The operation of a command record (R38). -/
inductive HostOp where
  | read | write | flush | size | unknown (code : Nat)
  deriving DecidableEq, Repr

/-- Record states (R39). -/
inductive RecState where
  | waiting | held | active | stopping | journalWait | orphaned
  deriving DecidableEq, Repr

/-- Path of an admitted record (R38). -/
inductive Path where
  | region | window | plain
  deriving DecidableEq, Repr

/-- The region a record was decided against (R46). -/
structure RegionView where
  index  : Nat
  policy : Policy     -- effective policy at admission
  source : Source
  deriving DecidableEq, Repr

/-- Piece kinds of a route plan (R61); a window command has no piece here (R64). -/
inductive PieceKind where
  | base | slot (n : Nat) | lost
  deriving DecidableEq, Repr

/-- Piece states (R65). -/
inductive PieceState where
  | planned | filling | ready | issued | handed | done | failed | withdrawn
  deriving DecidableEq, Repr

/-- A piece of a route plan, with its state, the buffers it holds and their contents (R61, R65, R67). -/
structure Piece where
  kind   : PieceKind
  first  : Nat          -- first logical block
  count  : Nat
  target : Nat          -- first target block
  state  : PieceState
  held   : Nat          -- buffers charged for it
  data   : List Block
  deriving DecidableEq, Repr

/-- The nineteen host results (R160). `writeProtected` is PROTECTED. -/
inductive Result where
  | ok | stopped | noCommand | protocol | invalid | notReady | address | denied | writeProtected | unavailable
  | overlayFull | lostData | mediaError | targetFault | dataCheck | dataTimeout | journalFault | windowMisuse | windowBusy
  deriving DecidableEq, Repr

/-- The pending result of a record, with the block that gave it (R77, R78). -/
structure PendingResult where
  result : Result
  block  : Option Nat
  deriving DecidableEq, Repr

/-- A command record (R38). -/
structure Record where
  id        : CmdId
  op        : HostOp
  first     : Nat
  count     : Nat
  durable   : Bool
  state     : RecState
  path      : Option Path
  region    : Option RegionView
  plan      : List Piece
  counted   : Bool
  stopNoted : Bool
  winding   : Bool                  -- being wound down (R78)
  result    : Option PendingResult
  cut       : Option Nat            -- cut point of a READ (R77)
  latest    : Option Nat            -- its latest journal record (R75)
  window    : List Block            -- blocks of a window READ (R64)
  deriving DecidableEq, Repr

/-- A deferred arrival (R40): a CMD kept while an orphan holds its tag's record. -/
structure Arrival where
  id      : CmdId
  op      : HostOp
  first   : Nat
  count   : Nat
  durable : Bool
  deriving DecidableEq, Repr

/-- A claim as the conflict rule sees it (R50): a block range, less the grains a relocation has borrowed (R52). -/
structure ClaimRange where
  first : Nat
  count : Nat
  write : Bool
  minus : List Nat
  deriving DecidableEq, Repr

/-- What stands at a place of the admitted order (R49). -/
inductive ClaimRef where
  | cmd (c : CmdId)
  | merge (grain : Nat)
  | discard (region first count : Nat)
  | reloc (grain : Nat)
  deriving DecidableEq, Repr

/-- A place of the admitted order; `granted` is meant for internal claims (R51). -/
structure Placed where
  ref     : ClaimRef
  granted : Bool
  deriving DecidableEq, Repr

structure AdmissionUnit where
  records  : List Record
  queueA   : List Nat          -- tags of WAITING records of port A, oldest first
  queueB   : List Nat
  order    : List Placed
  deferred : List Arrival
  pause    : Bool
  next     : Port
  deriving DecidableEq, Repr

/-! ## Host Port Units -/

/-- Link condition of a host port (R162). -/
inductive LinkCondition where
  | up | resetting
  deriving DecidableEq, Repr

/-- A tag of a host port (R152): FREE or OPEN, the blocks granted, the blocks moved (sent or received), and the next
DATA index. -/
structure Tag where
  isOpen  : Bool
  granted : Nat
  moved   : Nat
  next    : Nat
  deriving DecidableEq, Repr

/-- A FREE tag, its accounts voided (R152). -/
def Tag.free : Tag := { isOpen := false, granted := 0, moved := 0, next := 0 }

structure HostPortUnit where
  condition : LinkCondition
  tags      : List Tag
  deriving DecidableEq, Repr

/-! ## Transfer Engine -/

/-- Arbiter classes (R71). -/
inductive TClass where
  | journal | recovery | host (p : Port) | background
  deriving DecidableEq, Repr

/-- Who receives the outcome of a target operation (R70). `gone` is an owner that left before its operation ended
(log entry 21). -/
inductive Owner where
  | piece (c : CmdId) (index : Nat)
  | flush (c : CmdId)
  | relocRead (grain offset : Nat)
  | relocWrite (grain offset : Nat)
  | mergeRead (offset : Nat)
  | mergeWrite (offset : Nat)
  | journal
  | ckBody (run : Nat)
  | ckHeader (run : Nat)
  | anchor
  | format
  | mount
  | link
  | stray (slot : Option Nat) (first : Nat)   -- a READ piece whose record has left: the slot it reads, and its first block
  | gone
  deriving DecidableEq, Repr

/-- Target operation kinds (R70). -/
inductive TOp where
  | read | write | flush | size
  deriving DecidableEq, Repr

/-- A request at the arbiter (R71), with the retry counts its operation carries (R84) and, for a WRITE, the blocks of
its buffers. -/
structure Request where
  cls      : TClass
  owner    : Owner
  op       : TOp
  first    : Nat
  count    : Nat
  durable  : Bool
  data     : List Block
  checks   : Nat     -- data-check retries made
  notReady : Nat     -- not-ready retries made
  media    : Nat     -- media retries made
  deriving DecidableEq, Repr

/-- Why the part sent STOP for an operation (R84, R96, R165). -/
inductive StopCause where
  | timeout | payload | violation
  deriving DecidableEq, Repr

/-- A record of the target operation table (R70). -/
structure TargetOp where
  tag     : Nat
  req     : Request
  granted : Nat            -- READ: blocks granted to the target; WRITE: by the target
  moved   : Nat            -- READ: blocks received; WRITE: blocks sent
  got     : List Block     -- READ: the blocks received
  stop    : Option StopCause
  deriving DecidableEq, Repr

/-- Relocation causes (R88). -/
inductive RelocCause where
  | readFault | writeFault
  deriving DecidableEq, Repr

/-- How a relocation ended (R92, R93, R94). -/
inductive RelocEnd where
  | move | lost | cut
  deriving DecidableEq, Repr

/-- Relocation stages (R88). -/
inductive RelocStage where
  | queued | held | copying | writing | ending (how : RelocEnd)
  deriving DecidableEq, Repr

/-- A dependant of a relocation: a record and its handed piece (R88). -/
structure Dependant where
  cmd   : CmdId
  piece : Nat
  deriving DecidableEq, Repr

/-- A relocation request or relocation (R88). -/
structure Reloc where
  grain      : Nat
  region     : Nat
  cause      : RelocCause
  dependants : List Dependant
  stage      : RelocStage
  oldSlot    : Option Nat
  newSlot    : Option Nat
  attempts   : Nat
  copySet    : Mask
  copied     : Mask
  lost       : Mask
  retired    : List Nat
  data       : List (Nat × Block)   -- copied blocks by their offset in the grain
  held       : Nat                  -- internal buffers charged for it
  claiming   : Bool                 -- its buffer claim waits
  issued     : Bool                 -- a write of the attempt has been granted a target tag (R89)
  failed     : Bool                 -- a write of the attempt ended MEDIA_ERROR
  cut        : Bool                 -- a cut is to be taken
  deriving DecidableEq, Repr

/-- Target link states (R97). -/
inductive LinkState where
  | up | resetting | down
  deriving DecidableEq, Repr

structure TransferEngine where
  ops        : List TargetOp
  journalQ   : List Request
  recoveryQ  : List Request
  hostAQ     : List Request
  hostBQ     : List Request
  backQ      : List Request
  hostPtr    : Port
  skip       : Nat
  intervals  : List Request     -- retries waiting for their not-ready interval, oldest first (R84)
  relocs     : List Reloc       -- in the order of request
  link       : LinkState
  capacity   : Option Nat
  resetWait  : Bool             -- the wait for RESET_DONE runs (R97, R138)
  resetDue   : Bool             -- a LINKRESET is held until the SIZE ends (R99)
  deriving DecidableEq, Repr

/-- The final outcome of a target operation (R73, R83, R100). -/
inductive TOutcome where
  | ok
  | media (k : Nat)   -- MEDIA_ERROR, first failing block `k` places into the operation
  | fault
  | reset             -- TARGET_RESET (R97)
  | down              -- the immediate failure of a DOWN link (R99)
  deriving DecidableEq, Repr

/-! ## Buffer Pool -/

/-- Whom a buffer claim is for (R66, R67). -/
inductive ClaimFor where
  | piece (c : CmdId) (index : Nat)
  | reloc (grain : Nat)
  | merge
  | ckBody (run : Nat)
  | ckHeader (run : Nat)
  | anchor
  | format
  | mount
  deriving DecidableEq, Repr

structure BufClaim where
  who   : ClaimFor
  count : Nat
  deriving DecidableEq, Repr

structure BufferPool where
  chargeA : Nat
  chargeB : Nat
  chargeI : Nat
  claimsA : List BufClaim
  claimsB : List BufClaim
  claimsI : List BufClaim
  deriving DecidableEq, Repr

/-! ## Merge Unit -/

/-- Merge run states (R102). -/
inductive MergeState where
  | none | running | halting
  deriving DecidableEq, Repr

/-- Stop causes of a merge run (R102). -/
inductive MergeCause where
  | baseFault | targetFault | journalFault | halted
  deriving DecidableEq, Repr

/-- Stages of the grain claim (R104 to R108). -/
inductive GrainStage where
  | waiting | reading | writing | ending
  deriving DecidableEq, Repr

/-- The grain a merge run works on (R104, R105). -/
structure MergeGrain where
  stage     : GrainStage
  region    : Nat
  slot      : Nat
  copySet   : Mask
  readSet   : Mask
  data      : List (Nat × Block)
  mediaMet  : Bool        -- met a media failure on its copy slot
  lostTold  : Bool        -- BLOCKS_LOST raised for this grain
  held      : Nat
  claiming  : Bool
  deriving DecidableEq, Repr

/-- A discard in progress (R113). -/
structure Discard where
  region  : Nat
  placed  : Bool          -- its claim has been placed (R51)
  owed    : Option Port
  record  : Option Nat    -- its DISCARD record
  removed : Nat
  deriving DecidableEq, Repr

structure MergeUnit where
  state     : MergeState
  selection : List Nat
  all       : Bool
  cursor    : Nat
  grain     : Option MergeGrain
  cause     : Option MergeCause
  merged    : Nat
  left      : Nat
  haltOwed  : List Port
  discard   : Option Discard
  deriving DecidableEq, Repr

/-! ## Journal Unit -/

/-- What a journal record states (R118). -/
inductive RecordBody where
  | entry (grain region : Nat) (slot : Option Nat) (present lost : Mask)
  | remove (grain : Nat)
  | retire (slot : Nat)
  | discard (region : Nat)
  deriving DecidableEq, Repr

/-- A journal record with its name in the part, the model's own serial (log entry 8). -/
structure JRecord where
  id   : Nat
  body : RecordBody
  deriving DecidableEq, Repr

/-- Record fates (R119). -/
inductive Fate where
  | inBuffer | inFlight | durable | dropped
  deriving DecidableEq, Repr

/-- Who handed records on (R119). -/
inductive Producer where
  | piece (c : CmdId)
  | reloc (grain : Nat)
  | merge
  | discard
  | none
  deriving DecidableEq, Repr

/-- A waiting hand-off (R119). -/
structure HandOff where
  by'  : Producer
  recs : List JRecord
  deriving DecidableEq, Repr

/-- The in-flight journal block (R117). -/
structure FlightBlock where
  seq  : Nat
  recs : List JRecord
  deriving DecidableEq, Repr

/-- Journal condition (R117). -/
inductive JCondition where
  | normal | fault
  deriving DecidableEq, Repr

/-- Checkpoint areas (R124). -/
inductive Area where
  | A | B
  deriving DecidableEq, Repr

/-- Origin of a checkpoint run (R125). -/
inductive CkOrigin where
  | automatic | request (p : Port)
  deriving DecidableEq, Repr

/-- Phases of a checkpoint run (R125). -/
inductive CkPhase where
  | bitmap | entries | header
  deriving DecidableEq, Repr

/-- A checkpoint run (R125, R126). -/
structure CkRun where
  serial      : Nat
  origin      : CkOrigin
  owed        : Option Port
  area        : Area
  gen         : Nat
  start       : Nat
  phase       : CkPhase
  formedMaps  : Nat           -- bitmap blocks formed
  cursor      : Option Nat    -- last grain placed
  entryBlocks : Nat
  entries     : Nat
  missed      : Bool
  walkEnded   : Bool
  unwritten   : Nat           -- body blocks formed and not yet reported written
  claiming    : Bool          -- a buffer claim of the run waits
  image       : BitVec 32     -- running check over the image blocks formed
  deriving DecidableEq, Repr

structure JournalUnit where
  openBuf   : List JRecord
  inFlight  : Option FlightBlock
  qNext     : Nat
  sCk       : Nat
  waiting   : List HandOff
  cond      : JCondition
  newest    : Option Area
  newestGen : Nat
  run       : Option CkRun
  fates     : List (Nat × Fate)
  waiters   : List CmdId        -- records in JOURNAL_WAIT, in the order they entered it (R76)
  nextId    : Nat
  nextRun   : Nat
  deriving DecidableEq, Repr

/-! ## Mount Unit -/

/-- Device states (R135). -/
inductive DevState where
  | mounting | offline | blank | ready
  deriving DecidableEq, Repr

/-- What an anchor copy holds (11.4). -/
structure AnchorImage where
  gen      : Nat
  formatId : Nat
  layout   : Option Layout
  map      : RegionMap
  deriving DecidableEq, Repr

/-- What a checkpoint header holds (11.4). -/
structure CkHeader where
  formatId    : Nat
  start       : Nat
  gen         : Nat
  bitmaps     : Nat
  entryBlocks : Nat
  entries     : Nat
  image       : BitVec 32
  deriving DecidableEq, Repr

/-- Where the mount stands (section 8.3). -/
inductive MountStage where
  /-- no mount in progress -/
  | idle
  /-- the link stage (R138) -/
  | link
  /-- an abandoned mount waits on the link (R137) -/
  | waitLink
  /-- reading anchor copy 0 or 1 (R139) -/
  | anchor (copy : Nat)
  /-- reading the header of an area (R140) -/
  | header (area : Area)
  /-- reading image block `k` of the candidate being tried -/
  | image (k : Nat)
  /-- reading the next journal block of the replay (R141) -/
  | replay
  /-- reading the `k`-th position of the scan (R142) -/
  | scan (k : Nat)
  /-- clearing the blocks found ahead (R142) -/
  | clearing
  deriving DecidableEq, Repr

/-- A rebuilt entry and the order number of the record that set it (R141). -/
structure Rebuilt where
  entry : Entry
  order : Nat
  deriving DecidableEq, Repr

/-- A candidate checkpoint area (R140). -/
structure Candidate where
  area   : Area
  header : CkHeader
  deriving DecidableEq, Repr

/-- What the mount has loaded so far (section 8.3). -/
structure Holding where
  copy0      : Option AnchorImage
  copy1      : Option AnchorImage
  topFormat  : Nat                 -- highest format identity of a copy whose check was good
  chosen     : Option (Nat × AnchorImage)
  candidates : List Candidate
  imageRun   : BitVec 32           -- running check over the candidate's image
  bitmap     : List Byte
  imageGood  : Bool                -- no image block read so far failed a test
  image      : List Entry          -- entries of the candidate's image so far
  loaded     : Option Candidate
  table      : List Rebuilt
  retired    : List Nat
  expected   : Nat                 -- next expected sequence
  replayed   : Bool
  order      : Nat                 -- next order number
  scanTop    : Option Nat          -- highest sequence found by a scan without replay
  ahead      : List (Nat × Nat)    -- blocks found ahead, still to clear: ring position and sequence
  aheadCount : Nat
  badClears  : List Nat            -- sequences whose clearing failed
  lostOnly   : Nat
  dropped    : Nat
  deriving DecidableEq, Repr

/-- An empty holding. -/
def Holding.empty : Holding :=
  { copy0 := none, copy1 := none, topFormat := 0, chosen := none, candidates := [], imageRun := 0xFFFFFFFF,
    bitmap := [], imageGood := true, image := [], loaded := none, table := [], retired := [], expected := 0,
    replayed := false, order := 0, scanTop := none, ahead := [], aheadCount := 0, badClears := [], lostOnly := 0,
    dropped := 0 }

/-- A SET_LAYOUT in progress (R146, R147). `step` 0 to 3 are the bitmap blocks, 4 the header of A, 5 the invalid header
of B, 6 the anchor. -/
structure Formatting where
  layout   : Layout
  formatId : Nat
  owed     : Option Port
  step     : Nat
  deriving DecidableEq, Repr

structure MountUnit where
  dev     : DevState
  stage   : MountStage
  holding : Holding
  format  : Option Formatting
  deriving DecidableEq, Repr

/-! ## Management Unit -/

/-- Response results (R171). -/
inductive Reply where
  | doneOk | sequenceError | unknownRequest | badParameter | notReady | stageHeld | noStage | mapInvalid
  | regionHasOverlay | busy | held | noLayout | layoutInUse | anchorFault | journalFault | targetFault
  deriving DecidableEq, Repr

/-- Response states (R171). -/
inductive RespState where
  | none | inProgress | done
  deriving DecidableEq, Repr

/-- A response record (R171). Items are of 16 bytes each. -/
structure Response where
  state  : RespState
  seq    : Option (BitVec 16)
  code   : Option Nat
  result : Option Reply
  n1     : Nat
  n2     : Nat
  n3     : Nat
  n4     : Nat
  items  : List (List Byte)
  deriving DecidableEq, Repr

/-- The response NONE. -/
def Response.empty : Response :=
  { state := .none, seq := none, code := none, result := none, n1 := 0, n2 := 0, n3 := 0, n4 := 0, items := [] }

/-- Causes of TARGET_DOWN (R98). -/
inductive DownCause where
  | capacityChanged | sizeFailed | noResetDone
  deriving DecidableEq, Repr

/-- Mount outcomes (R145). -/
inductive MountOutcome where
  | clean | journalCut | keepUnavailable | slotConflict
  deriving DecidableEq, Repr

/-- Notices with their details (R179). -/
inductive NoticeBody where
  | slotsLow (slot : Nat)
  | slotRetired (slot : Nat)
  | blocksLost (grain : Nat)
  | mergeDone (merged left : Nat)
  | mergeStopped (cause : MergeCause) (grain : Nat)
  | journalFaultBlock (seq : Nat)
  | journalFaultCheckpoint (area : Area)
  | journalCleared (start : Nat)
  | mapActivated (gen : Nat)
  | mountResult (outcome : MountOutcome) (qNext : Option Nat) (lostOnly dropped ahead : Nat)
  | targetDown (cause : DownCause)
  | targetUp
  | portReset (p : Port)
  deriving DecidableEq, Repr

/-- A notice entry (R177). -/
structure Notice where
  number : BitVec 32
  body   : NoticeBody
  region : Option Nat
  count  : Nat
  deriving DecidableEq, Repr

/-- The Management Unit's state for one port (R167). -/
structure PortMgmt where
  lastSeq    : Option (BitVec 16)
  inProgress : Option (BitVec 16)
  response   : Response
  notices    : List Notice
  incomplete : Bool
  nextNumber : BitVec 32
  deriving DecidableEq, Repr

/-! ## Frames the part sends -/

/-- Frames sent on a host port (R150, R164). -/
inductive HostFrame where
  | grant (tag count : Nat)
  | data (tag index : Nat) (block : Block)
  | status (tag : Nat) (result : Result) (blocksDone : Nat) (detail : Option Nat) (value : Nat) (attention : Bool)
  | resetDone
  deriving DecidableEq, Repr

/-- Frames sent on the target port (R164). -/
inductive TargetFrame where
  | cmd (tag : Nat) (op : TOp) (first count : Nat) (durable : Bool)
  | grant (tag count : Nat)
  | data (tag index : Nat) (block : Block)
  | stop (tag : Nat)
  | linkreset
  deriving DecidableEq, Repr

/-! ## The whole part -/

structure State where
  map     : MapUnit
  ov      : OverlayUnit
  adm     : AdmissionUnit
  hpA     : HostPortUnit
  hpB     : HostPortUnit
  te      : TransferEngine
  pool    : BufferPool
  mrg     : MergeUnit
  jrn     : JournalUnit
  mnt     : MountUnit
  mgA     : PortMgmt
  mgB     : PortMgmt
  outA    : List HostFrame     -- frames sent on port A, oldest first (log entry 5)
  outB    : List HostFrame
  outT    : List TargetFrame
  free    : Nat                -- names the next free value (log entry 8)
  pending : List Instr         -- the commands waiting
  deriving DecidableEq, Repr

def MapUnit.reset : MapUnit :=
  { active := RegionMap.empty, stage := none, hold := false, unavailable := List.replicate 32 false,
    layout := none, formatId := 0, anchorGen := 0, anchorCopy := none, activation := none }

def OverlayUnit.reset : OverlayUnit :=
  { table := [], slots := 0, ring := [], reservations := [], pendingFree := [], retired := [], condemned := [],
    armed := false }

def AdmissionUnit.reset : AdmissionUnit :=
  { records := [], queueA := [], queueB := [], order := [], deferred := [], pause := false, next := .A }

def HostPortUnit.reset : HostPortUnit := { condition := .up, tags := List.replicate 16 Tag.free }

def TransferEngine.reset : TransferEngine :=
  { ops := [], journalQ := [], recoveryQ := [], hostAQ := [], hostBQ := [], backQ := [], hostPtr := .A, skip := 0,
    intervals := [], relocs := [], link := .down, capacity := none, resetWait := true, resetDue := false }

def BufferPool.reset : BufferPool :=
  { chargeA := 0, chargeB := 0, chargeI := 0, claimsA := [], claimsB := [], claimsI := [] }

def MergeUnit.reset : MergeUnit :=
  { state := .none, selection := [], all := false, cursor := 0, grain := none, cause := none, merged := 0, left := 0,
    haltOwed := [], discard := none }

/-- The Journal Unit after device reset (R117). It holds no sequences until a layout is in force; qNext and sCk are held as 0
in that time (log entry 34). -/
def JournalUnit.reset : JournalUnit :=
  { openBuf := [], inFlight := none, qNext := 0, sCk := 0, waiting := [], cond := .normal, newest := none,
    newestGen := 0, run := none, fates := [], waiters := [], nextId := 0, nextRun := 0 }

def MountUnit.reset : MountUnit :=
  { dev := .mounting, stage := .link, holding := Holding.empty, format := none }

def PortMgmt.reset : PortMgmt :=
  { lastSeq := none, inProgress := none, response := Response.empty, notices := [], incomplete := false, nextNumber := 1 }

/-- The part right after device reset (R134, R19, R37, R60, R82, R101, R116, R133, R149, R166, R182): MOUNTING, with the
mount at its link stage, so one LINKRESET has been sent on the target port. The hold state is off here (log entry 6). -/
def State.reset : State :=
  { map := MapUnit.reset, ov := OverlayUnit.reset, adm := AdmissionUnit.reset, hpA := HostPortUnit.reset,
    hpB := HostPortUnit.reset, te := TransferEngine.reset, pool := BufferPool.reset, mrg := MergeUnit.reset,
    jrn := JournalUnit.reset, mnt := MountUnit.reset, mgA := PortMgmt.reset, mgB := PortMgmt.reset,
    outA := [], outB := [], outT := [.linkreset], free := 0, pending := [] }

end Sys2Proof.Machine
end

