-- ==== Sys2Proof/Machine/Operands.lean ====
section
/-! DEFINITION. The operands of commands and how they name things: block ranges, grains, block sets of a grain, the
window, and the management requests with their parameters. -/

namespace Sys2Proof.Machine

/-! ## Grains and block sets -/

/-- The grain of a logical block (00 section 4.1). -/
def grainOf (b : Nat) : Nat := b / 8

/-- The grains a range of blocks touches, ascending. -/
def grainsOf (first count : Nat) : List Nat :=
  if count = 0 then [] else (List.range (grainOf (first + count - 1) + 1 - grainOf first)).map (grainOf first + ·)

/-- The set with block `i` alone. -/
def maskBit (i : Nat) : Mask := (1 : Mask) <<< i

/-- Whether a set holds block `i`. -/
def inMask (m : Mask) (i : Nat) : Bool := m.getLsbD i

/-- The blocks `off` to `off + n - 1` of a grain. -/
def maskRun (off n : Nat) : Mask := (List.range n).foldl (fun m i => m ||| maskBit (off + i)) 0

/-- The blocks of `m` that are not in `k`. -/
def maskLess (m k : Mask) : Mask := m &&& ~~~ k

/-- The blocks of a set, ascending. -/
def maskList (m : Mask) : List Nat := (List.range 8).filter (inMask m)

/-- The maximal runs of consecutive blocks of a set, ascending: first block and length (R90, R91, R105, R106). -/
def maskRuns (m : Mask) : List (Nat × Nat) :=
  (maskList m).foldr
    (fun i runs => match runs with
      | (o, n) :: rest => if o = i + 1 then (i, n + 1) :: rest else (i, 1) :: runs
      | [] => [(i, 1)]) []

/-- The blocks of grain `g` inside a range of logical blocks. -/
def grainPart (g first count : Nat) : Mask :=
  (List.range 8).foldl (fun m i => if first ≤ 8 * g + i ∧ 8 * g + i < first + count then m ||| maskBit i else m) 0

/-! ## Ranges -/

/-- Whether two block ranges share a block. -/
def rangesMeet (a n b m : Nat) : Bool := decide (Nat.max a b < Nat.min (a + n) (b + m))

/-- Whether a block lies in the window or past the address space (R45). -/
def touchesWindow (b : Nat) : Bool := decide (Config.windowBase ≤ b)

/-- Whether a range has a block that touches the window (R45); `count` is at least 1. -/
def rangeTouchesWindow (first count : Nat) : Bool := decide (0 < count) && touchesWindow (first + count - 1)

/-- Whether every block of a range lies in the window (R41, R45); a block at or beyond 2^40 touches the window and lies
outside it. -/
def rangeInWindow (first count : Nat) : Bool :=
  decide (Config.windowBase ≤ first ∧ first + count ≤ Config.addressSpace)

/-- The shapes the window takes (R45): a WRITE of the request block, or a READ inside offsets 1 to 3. -/
def windowShape (op : HostOp) (first count : Nat) : Bool :=
  match op with
  | .write => decide (first = Config.windowBase ∧ count = 1)
  | .read => decide (Config.windowBase + 1 ≤ first ∧ 1 ≤ count ∧ first + count ≤ Config.addressSpace)
  | _ => false

/-- Whether an operation reads or writes blocks. -/
def HostOp.isTransfer : HostOp → Bool
  | .read => true
  | .write => true
  | _ => false

/-! ## Management requests -/

/-- A management request with its parameters as the request block carries them (11.5). -/
inductive MReq where
  | stage
  | putRegion (index policy : Nat) (readPorts writePorts : PortSet) (first count target : Nat)
  | clearRegion (index : Nat)
  | setCapacity (capacity : Nat)
  | unstage
  | activate
  | setLayout (layout : Layout)
  | merge (index : Nat)
  | haltMerge
  | discard (index : Nat)
  | checkpoint
  | queryRegion (index map : Nat)
  | queryOverlay (grain : Nat)
  | querySlots
  | queryRetired (start : Nat)
  | queryJournal
  | ackNotices (n : BitVec 32)
  | unknown (code : Nat)
  deriving DecidableEq, Repr

/-- The request code (11.5). -/
def MReq.code : MReq → Nat
  | .stage => 0x01
  | .putRegion .. => 0x02
  | .clearRegion _ => 0x03
  | .setCapacity _ => 0x04
  | .unstage => 0x05
  | .activate => 0x06
  | .setLayout _ => 0x10
  | .merge _ => 0x20
  | .haltMerge => 0x21
  | .discard _ => 0x22
  | .checkpoint => 0x23
  | .queryRegion .. => 0x30
  | .queryOverlay _ => 0x31
  | .querySlots => 0x32
  | .queryRetired _ => 0x33
  | .queryJournal => 0x34
  | .ackNotices _ => 0x40
  | .unknown c => c

/-- MERGE's index that names all regions (11.5). -/
def mergeAll : Nat := 0xFF

end Sys2Proof.Machine
end

