-- ==== Sys2Proof/Machine/Formats.lean ====
section
/-! DEFINITION. Byte layouts of the window blocks and of the blocks on the target, and the numeric codes (R183 to R185,
11.1 to 11.5). -/

namespace Sys2Proof.Machine

/-! ## Codes -/

/-- Host results (11.1). -/
def Result.code : Result → Nat
  | .ok => 0x00 | .stopped => 0x01 | .noCommand => 0x02 | .protocol => 0x03 | .invalid => 0x04 | .notReady => 0x05
  | .address => 0x06 | .denied => 0x07 | .writeProtected => 0x08 | .unavailable => 0x09 | .overlayFull => 0x0A
  | .lostData => 0x0B | .mediaError => 0x0C | .targetFault => 0x0D | .dataCheck => 0x0E | .dataTimeout => 0x0F
  | .journalFault => 0x10 | .windowMisuse => 0x11 | .windowBusy => 0x12

/-- Response results (11.5). -/
def Reply.code : Reply → Nat
  | .doneOk => 0x00 | .sequenceError => 0x01 | .unknownRequest => 0x02 | .badParameter => 0x03 | .notReady => 0x04
  | .stageHeld => 0x05 | .noStage => 0x06 | .mapInvalid => 0x07 | .regionHasOverlay => 0x08 | .busy => 0x09
  | .held => 0x0A | .noLayout => 0x0B | .layoutInUse => 0x0C | .anchorFault => 0x0D | .journalFault => 0x0E
  | .targetFault => 0x0F

/-- Policy codes (11.3). -/
def Policy.code : Policy → Nat
  | .pass => 0 | .readonly => 1 | .overlay => 2 | .keep => 3 | .deny => 4

/-- The policy of a code; 5 to 7 name none (R185). -/
def Policy.ofCode : Nat → Option Policy
  | 0 => some .pass | 1 => some .readonly | 2 => some .overlay | 3 => some .keep | 4 => some .deny
  | _ => none

/-- Target operation codes (11.1). -/
def TOp.code : TOp → Nat
  | .read => 1 | .write => 2 | .flush => 3 | .size => 4

def Port.code : Port → Nat
  | .A => 1 | .B => 2

def Area.code : Area → Nat
  | .A => 1 | .B => 2

def MergeState.code : MergeState → Nat
  | .none => 0 | .running => 1 | .halting => 2

def MergeCause.code : MergeCause → Nat
  | .baseFault => 1 | .targetFault => 2 | .journalFault => 3 | .halted => 4

def DevState.code : DevState → Nat
  | .mounting => 0 | .offline => 1 | .blank => 2 | .ready => 3

def EntryState.code : EntryState → Nat
  | .resident => 0 | .moving => 1 | .merging => 2

def Source.code : Source → Nat
  | .base => 0 | .overlay => 1

/-- Reasons of a MAP_INVALID item (11.5). -/
def MapReason.code : MapReason → Nat
  | .count => 1 | .align => 2 | .capacity => 3 | .logicalOverlap => 4 | .targetRange => 5 | .targetOverlap => 6
  | .noLayout => 7

def DownCause.code : DownCause → Nat
  | .capacityChanged => 1 | .sizeFailed => 2 | .noResetDone => 3

def MountOutcome.code : MountOutcome → Nat
  | .clean => 0 | .journalCut => 1 | .keepUnavailable => 2 | .slotConflict => 3

def RespState.code : RespState → Nat
  | .none => 0 | .inProgress => 1 | .done => 2

def boolCode (b : Bool) : Nat := if b then 1 else 0

/-- All ones across `n` bytes: the mark of an absent field (R183). -/
def ones (n : Nat) : Nat := 256 ^ n - 1

/-! ## Frames the part sends -/

/-- The bytes of a frame sent on a host port (11.1). -/
def HostFrame.bytes : HostFrame → List Byte
  | .grant tag count => grantFrame tag count
  | .data tag index block => dataFrame tag index block (blockCheck block)
  | .status tag result done detail value attention => statusFrame tag result.code done detail value attention
  | .resetDone => shortFrame kindResetDone 0

/-- The bytes of a frame sent on the target port (11.1). -/
def TargetFrame.bytes : TargetFrame → List Byte
  | .cmd tag op first count durable => cmdFrame tag op.code first count durable
  | .grant tag count => grantFrame tag count
  | .data tag index block => dataFrame tag index block (blockCheck block)
  | .stop tag => shortFrame kindStop tag
  | .linkreset => shortFrame kindLinkreset 0

/-! ## Shared images (11.3) -/

/-- The region entry image. -/
def regionImage (r : Region) : List Byte :=
  le 1 (r.policy.code + 8 * boolCode r.inUse + 16 * boolCode r.readPorts.a + 32 * boolCode r.readPorts.b +
    64 * boolCode r.writePorts.a + 128 * boolCode r.writePorts.b) ++ le 5 r.first ++ le 5 r.count ++ le 5 r.target

/-- Bit `i` of a number. -/
def bitOf (n i : Nat) : Bool := decide (n / 2 ^ i % 2 = 1)

/-- The fields of a region entry image: policy code, in use, read ports, write ports, first, count, target. -/
def imagePorts (b : Nat) : PortSet × PortSet := (⟨bitOf b 4, bitOf b 5⟩, ⟨bitOf b 6, bitOf b 7⟩)

/-- A region entry read from the target: none when a field of an in-use entry is outside its range (R185). An entry not in
use is ignored but for that. -/
def parseRegion (bytes : List Byte) : Option Region :=
  let b := field bytes 0 1
  if bitOf b 3 then
    (Policy.ofCode (b % 8)).map fun pol =>
      { inUse := true, policy := pol, readPorts := (imagePorts b).1, writePorts := (imagePorts b).2,
        first := field bytes 1 5, count := field bytes 6 5, target := field bytes 11 5 }
  else some Region.unused

/-- The layout record. -/
def layoutRecord (l : Layout) : List Byte :=
  le 5 l.overlayBase ++ le 2 l.slots ++ le 5 l.journalBase ++ le 2 l.journalLen ++ le 5 l.ckA ++ le 5 l.ckB ++
    le 2 l.lowWater ++ zeros 6

/-- The fields of a layout record. -/
def parseLayout (bytes : List Byte) : Layout :=
  { overlayBase := field bytes 0 5, slots := field bytes 5 2, journalBase := field bytes 7 5,
    journalLen := field bytes 12 2, ckA := field bytes 14 5, ckB := field bytes 19 5, lowWater := field bytes 24 2 }

/-- An entry image with byte 0 given: 16 bytes. A slot that is not named is written with flag 0 and field 0. -/
def entryImage (kind region grain : Nat) (present lost : Mask) (slot : Option Nat) : List Byte :=
  le 1 kind ++ le 1 region ++ le 5 grain ++ [present, lost] ++ le 1 (boolCode slot.isSome) ++ le 2 (slot.getD 0) ++ zeros 4

/-- A journal record's image (11.3). The fields its kind does not use are written as zero (log entry 28). -/
def RecordBody.image : RecordBody → List Byte
  | .entry g r s p l => entryImage 1 r g p l s
  | .remove g => entryImage 2 0 g 0 0 none
  | .retire s => entryImage 3 0 0 0 0 (some s)
  | .discard r => entryImage 4 r 0 0 0 none

/-- A record read from the target: none when a field it uses is outside its range (R185). -/
def parseRecord (bytes : List Byte) : Option RecordBody :=
  let kind := field bytes 0 1
  let region := field bytes 1 1
  let grain := field bytes 2 5
  let flag := field bytes 9 1
  let slot := field bytes 10 2
  if !zeroAt bytes 12 4 then none else
  match kind with
  | 1 => if region < Config.regions ∧ grain < Config.grainSpace ∧ (flag = 1 ∨ (flag = 0 ∧ slot = 0)) then
           some (.entry grain region (if flag = 1 then some slot else none) (bytes.getD 7 0) (bytes.getD 8 0))
         else none
  | 2 => if grain < Config.grainSpace then some (.remove grain) else none
  | 3 => some (.retire slot)
  | 4 => if region < Config.regions then some (.discard region) else none
  | _ => none

/-! ## Blocks on the target (11.4) -/

/-- The `i`-th 512-byte block of some bytes. -/
def blockAt (bytes : List Byte) (i : Nat) : Block := (bytes.drop (512 * i)).take 512

/-- Bytes cut into `n` blocks. -/
def blocksOf (n : Nat) (bytes : List Byte) : List Block := (List.range n).map (blockAt bytes)

def anchorMarker : Nat := 0x4C52414E43484F52
def journalMarker : Nat := 0x4C524A524E4C424B
def headerMarker : Nat := 0x4C52434B50484452

/-- Bytes 0 to 1,531 of an anchor copy. -/
def anchorBody (a : AnchorImage) : List Byte :=
  le 8 anchorMarker ++ le 8 a.gen ++ le 4 a.formatId ++ le 1 (boolCode a.layout.isSome) ++ zeros 3 ++ le 5 a.map.cap ++
    zeros 3 ++ (match a.layout with | some l => layoutRecord l | none => zeros 32) ++
    a.map.regions.flatMap regionImage ++ zeros 956

/-- An anchor copy: 3 blocks. -/
def anchorBlocks (a : AnchorImage) : List Block :=
  blocksOf 3 (anchorBody a ++ blockCheckBytes (anchorBody a))

/-- Whether an anchor copy's check is good (R184). -/
def anchorCheckGood (bytes : List Byte) : Bool :=
  decide (bytes.length = 1536) && decide (field bytes 1532 4 = (blockCheck (bytes.take 1532)).toNat)

/-- The format identity field of an anchor copy. -/
def anchorFormat (bytes : List Byte) : Nat := field bytes 16 4

/-- The regions of an anchor copy. -/
def parseRegions (bytes : List Byte) : Option (List Region) :=
  (List.range 32).mapM fun i => parseRegion ((bytes.drop (64 + 16 * i)).take 16)

/-- An anchor copy read from the target: none when its check or a field is bad (R139, R185). -/
def parseAnchor (bytes : List Byte) : Option AnchorImage :=
  let lp := field bytes 20 1
  let cap := field bytes 24 5
  if anchorCheckGood bytes && decide (field bytes 0 8 = anchorMarker) && decide (lp ≤ 1) && zeroAt bytes 21 3 &&
      zeroAt bytes 29 3 && zeroAt bytes 576 956 && decide (cap % 8 = 0) && decide (cap ≤ Config.maxCapacity) &&
      zeroAt bytes 58 6 && (decide (lp = 1) || zeroAt bytes 32 32) then
    (parseRegions bytes).map fun rs =>
      { gen := field bytes 8 8, formatId := field bytes 16 4,
        layout := if lp = 1 then some (parseLayout ((bytes.drop 32).take 32)) else none,
        map := { regions := rs, cap := cap } }
  else none

/-- Bytes 0 to 27 of a journal block. -/
def journalHead (formatId seq count : Nat) : List Byte :=
  le 8 journalMarker ++ le 4 formatId ++ le 1 count ++ zeros 3 ++ le 8 seq ++ zeros 4

/-- A journal block (R120). -/
def journalBlock (formatId seq : Nat) (recs : List RecordBody) : Block :=
  let head := journalHead formatId seq recs.length
  let body := padTo 480 (recs.flatMap RecordBody.image)
  head ++ blockCheckBytes (head ++ zeros 4 ++ body) ++ body

/-- What a valid journal block holds. -/
structure JBlock where
  formatId : Nat
  seq      : Nat
  recs     : List RecordBody
  deriving DecidableEq, Repr

/-- A journal block read from the target: none when its check or a field is bad (R141, R185). -/
def parseJournal (bytes : Block) : Option JBlock :=
  let count := field bytes 12 1
  if decide (bytes.length = 512) && decide (field bytes 0 8 = journalMarker) &&
      decide (field bytes 28 4 = (blockCheck (bytes.take 28 ++ zeros 4 ++ bytes.drop 32)).toNat) &&
      zeroAt bytes 13 3 && zeroAt bytes 24 4 && decide (1 ≤ count ∧ count ≤ 30) &&
      zeroAt bytes (32 + 16 * count) (480 - 16 * count) then
    ((List.range count).mapM fun i => parseRecord ((bytes.drop (32 + 16 * i)).take 16)).map fun rs =>
      { formatId := field bytes 8 4, seq := field bytes 16 8, recs := rs }
  else none

/-- Bytes 0 to 507 of a checkpoint header. -/
def headerBody (h : CkHeader) : List Byte :=
  le 8 headerMarker ++ le 4 h.formatId ++ zeros 4 ++ le 8 h.start ++ le 8 h.gen ++ le 1 h.bitmaps ++ zeros 1 ++
    le 2 h.entryBlocks ++ le 2 h.entries ++ zeros 2 ++ le 4 h.image.toNat ++ zeros 464

/-- A checkpoint header (R127). -/
def headerBlock (h : CkHeader) : Block := headerBody h ++ blockCheckBytes (headerBody h)

/-- A checkpoint header read from the target: none when its own check or a field is bad (R140, R185); a generation is 1 or
more (R117). -/
def parseHeader (bytes : Block) : Option CkHeader :=
  if decide (bytes.length = 512) && decide (field bytes 0 8 = headerMarker) &&
      decide (field bytes 508 4 = (blockCheck (bytes.take 508)).toNat) && zeroAt bytes 12 4 &&
      decide (1 ≤ field bytes 24 8) && zeroAt bytes 33 1 && zeroAt bytes 38 2 && zeroAt bytes 44 464 then
    some { formatId := field bytes 8 4, start := field bytes 16 8, gen := field bytes 24 8, bitmaps := field bytes 32 1,
           entryBlocks := field bytes 34 2, entries := field bytes 36 2, image := BitVec.ofNat 32 (field bytes 40 4) }
  else none

/-- The invalid journal block and the invalid checkpoint header: 512 zero bytes (R185). -/
def invalidBlock : Block := zeros 512

/-- Byte `j` of a bitmap: slots 8j to 8j + 7. -/
def bitmapByte (retired : List Nat) (j : Nat) : Byte :=
  (List.range 8).foldl (fun m i => if retired.contains (8 * j + i) then m ||| maskBit i else m) 0

/-- Bitmap block `k`, 0 to 3 (R124). -/
def bitmapBlock (retired : List Nat) (k : Nat) : Block := (List.range 512).map fun j => bitmapByte retired (512 * k + j)

/-- The slots a bitmap marks, ascending. -/
def bitmapSlots (bytes : List Byte) : List Nat :=
  (List.range (8 * bytes.length)).filter fun n => inMask (bytes.getD (n / 8) 0) (n % 8)

/-- An entry block (R124). -/
def entryBlock (es : List Entry) : Block :=
  le 2 es.length ++ zeros 30 ++
    padTo 480 (es.flatMap fun e => entryImage 1 e.region e.grain e.present e.lost e.slot)

/-- The entries of an entry block read from the target, each RESIDENT: none when a field is bad (R140, R185). -/
def parseEntries (bytes : Block) : Option (List Entry) :=
  let count := field bytes 0 2
  if decide (bytes.length = 512) && decide (1 ≤ count ∧ count ≤ 30) && zeroAt bytes 2 30 &&
      zeroAt bytes (32 + 16 * count) (480 - 16 * count) then
    (List.range count).mapM fun i =>
      match parseRecord ((bytes.drop (32 + 16 * i)).take 16) with
      | some (.entry g r s p l) => some { grain := g, region := r, slot := s, present := p, lost := l, state := .resident }
      | _ => none
  else none

/-! ## Window blocks (11.5) -/

/-- The request block of a request (11.5). -/
def requestBlock (q : BitVec 16) (r : MReq) : Block :=
  let par : List Byte := match r with
    | .putRegion index policy rp wp first count target =>
        le 1 index ++ zeros 3 ++ le 1 (policy + 16 * boolCode rp.a + 32 * boolCode rp.b + 64 * boolCode wp.a +
          128 * boolCode wp.b) ++ le 5 first ++ le 5 count ++ le 5 target
    | .clearRegion index => le 1 index
    | .setCapacity c => zeros 4 ++ le 5 c
    | .setLayout l => zeros 4 ++ layoutRecord l
    | .merge index => le 1 index
    | .discard index => le 1 index
    | .queryRegion index map => le 1 index ++ le 1 map
    | .queryOverlay g => zeros 4 ++ le 5 g
    | .queryRetired n => zeros 4 ++ le 2 n
    | .ackNotices n => zeros 4 ++ le 4 n.toNat
    | _ => []
  padTo 512 (le 2 q.toNat ++ le 1 r.code ++ zeros 1 ++ par)

/-- The sequence and request of a request block; bytes a request does not use are ignored (R169, R185). -/
def parseRequest (b : Block) : BitVec 16 × MReq :=
  let par := b.drop 4
  let index := field par 0 1
  let r : MReq := match field b 2 1 with
    | 0x01 => .stage
    | 0x02 =>
        let k := field par 4 1
        .putRegion index (k % 8) (imagePorts k).1 (imagePorts k).2 (field par 5 5) (field par 10 5) (field par 15 5)
    | 0x03 => .clearRegion index
    | 0x04 => .setCapacity (field par 4 5)
    | 0x05 => .unstage
    | 0x06 => .activate
    | 0x10 => .setLayout (parseLayout ((par.drop 4).take 32))
    | 0x20 => .merge index
    | 0x21 => .haltMerge
    | 0x22 => .discard index
    | 0x23 => .checkpoint
    | 0x30 => .queryRegion index (field par 1 1)
    | 0x31 => .queryOverlay (field par 4 5)
    | 0x32 => .querySlots
    | 0x33 => .queryRetired (field par 4 2)
    | 0x34 => .queryJournal
    | 0x40 => .ackNotices (BitVec.ofNat 32 (field par 4 4))
    | c => .unknown c
  (BitVec.ofNat 16 (field b 0 2), r)

/-- The response block of a response record (11.5). The absent sequence of NONE is all ones (R183); its absent request
code, and the result absent in NONE and IN_PROGRESS, are written as 0 (DESIGN CHOICE, log entry 19). -/
def responseBlock (r : Response) : Block :=
  padTo 512 (le 2 (match r.seq with | some q => q.toNat | none => ones 2) ++ le 1 (r.code.getD 0) ++ le 1 r.state.code ++
    le 1 (match r.result with | some x => x.code | none => 0) ++ le 1 r.items.length ++ zeros 2 ++ le 8 r.n1 ++ le 8 r.n2 ++
    le 4 r.n3 ++ le 4 r.n4 ++ r.items.flatten)

/-- Notice kind codes (11.5). -/
def NoticeBody.kind : NoticeBody → Nat
  | .slotsLow _ => 0x01
  | .slotRetired _ => 0x02
  | .blocksLost _ => 0x03
  | .mergeDone _ _ => 0x04
  | .mergeStopped _ _ => 0x05
  | .journalFaultBlock _ => 0x06
  | .journalFaultCheckpoint _ => 0x06
  | .journalCleared _ => 0x07
  | .mapActivated _ => 0x08
  | .mountResult .. => 0x09
  | .targetDown _ => 0x0A
  | .targetUp => 0x0B
  | .portReset _ => 0x0C

/-- Notice details: 8 bytes (11.5). The absent sequence of a mount without a layout is all ones across its field (R183); bytes
that the kind does not lay out are zero (log entry 52). Grains merged beyond 16,384 are written modulo 2^16 (DESIGN CHOICE, log
entry 55). -/
def NoticeBody.detail : NoticeBody → List Byte
  | .slotsLow s => padTo 8 (le 2 s)
  | .slotRetired s => padTo 8 (le 2 s)
  | .blocksLost g => padTo 8 (le 5 g)
  | .mergeDone m l => padTo 8 (le 2 m ++ le 2 l)
  | .mergeStopped c g => padTo 8 (le 1 c.code ++ le 5 g)
  | .journalFaultBlock q => le 8 (q % 2 ^ 63)
  | .journalFaultCheckpoint a => le 8 (2 ^ 63 + a.code)
  | .journalCleared s => le 8 s
  | .mapActivated g => le 8 g
  | .mountResult o q lo dr ah =>
      le 8 (o.code + 2 ^ 2 * ah + 2 ^ 15 * lo + 2 ^ 30 * dr + 2 ^ 45 * (q.getD (2 ^ 19 - 1) % 2 ^ 19))
  | .targetDown c => padTo 8 (le 1 c.code)
  | .targetUp => zeros 8
  | .portReset p => padTo 8 (le 1 (Port.code p))

/-- A notice entry: 16 bytes (11.5). -/
def Notice.image (n : Notice) : List Byte :=
  le 4 n.number.toNat ++ le 1 n.body.kind ++ le 1 (n.region.getD (ones 1)) ++ le 2 n.count ++ n.body.detail

/-- The notice block of a port (R180); the places after the last entry are zero (log entry 52). -/
def noticeBlock (m : PortMgmt) : Block :=
  padTo 512 (le 1 m.notices.length ++ le 1 (boolCode m.incomplete) ++ zeros 30 ++ m.notices.flatMap Notice.image)

/-- The IDENT block read at a port (R181). -/
def identBlock (p : Port) (s : State) : Block :=
  padTo 512 (le 2 Config.partCode ++ le 2 Config.revision ++ le 1 (Port.code p) ++ le 1 s.mnt.dev.code ++
    le 1 (boolCode s.map.hold) ++ le 1 (boolCode s.map.layout.isSome) ++
    le 2 (match s.map.layout with | some l => l.slots | none => 0) ++
    le 2 (match s.map.layout with | some l => l.journalLen | none => 0) ++ le 5 s.map.active.cap ++ zeros 3 ++
    le 4 s.map.formatId ++ le 8 s.map.anchorGen)

end Sys2Proof.Machine
end

