-- ==== Sys2Proof/Machine/Flags.lean ====
section
/-! DEFINITION. What the part computes from its state without changing it: policies and the access decision, map and
layout checks, entry counts and slot states, the journal's live count, the attention flag and the timers' views. -/

namespace Sys2Proof.Machine

/-! ## Policies (R5, R6, R7) -/

/-- The effective policy of a region (R6). -/
def effPolicy (hold layoutSet : Bool) : Policy → Policy
  | .pass => if hold then (if layoutSet then .overlay else .readonly) else .pass
  | .readonly => .readonly
  | .overlay => .overlay
  | .keep => if hold then .readonly else .keep
  | .deny => .deny

/-- The read source of a region (R5, R6); BASE for DENY under hold too (log entry 47). -/
def readSource (hold layoutSet : Bool) : Policy → Source
  | .pass => if hold && layoutSet then .overlay else .base
  | .readonly => .base
  | .overlay => .overlay
  | .keep => .overlay
  | .deny => .base

/-- Whether a policy keeps its data in the overlay store. -/
def Policy.isOverlay : Policy → Bool
  | .overlay => true
  | .keep => true
  | _ => false

/-- The access decision: none allows (R7). -/
def accessDecision (eff : Policy) (write : Bool) (p : Port) (r : Region) (unavailable : Bool) (cond : JCondition) :
    Option Result :=
  if eff = .deny then some .denied
  else if !write && !r.readPorts.has p then some .denied
  else if write && !r.writePorts.has p then some .writeProtected
  else if write && decide (eff = .readonly) then some .writeProtected
  else if unavailable then some .unavailable
  else if write && decide (eff = .keep) && decide (cond = .fault) then some .journalFault
  else none

/-! ## The Region Map (R1 to R4, R15) -/

/-- The region entry at an index. -/
def RegionMap.region (m : RegionMap) (i : Nat) : Region := m.regions.getD i Region.unused

/-- Whether a region contains a block. -/
def Region.holds (r : Region) (b : Nat) : Bool := r.inUse && decide (r.first ≤ b ∧ b < r.first + r.count)

/-- Region lookup (R2). -/
def RegionMap.lookup (m : RegionMap) (b : Nat) : Option Nat := (List.range 32).find? fun i => (m.region i).holds b

/-- The base location of a block (R1). -/
def Region.base (r : Region) (b : Nat) : Nat := r.target + (b - r.first)

/-- The four areas of a layout: first target block and length (R3, R136). -/
def layoutAreas (l : Layout) : List (Nat × Nat) :=
  [(l.overlayBase, 8 * l.slots), (l.journalBase, l.journalLen), (l.ckA, Config.checkpointArea),
   (l.ckB, Config.checkpointArea)]

/-- The target range test of one region (R3). -/
def targetRangeOk (r : Region) (layout : Option Layout) (capacity : Nat) : Bool :=
  decide (r.target + r.count ≤ capacity) && !rangesMeet r.target r.count 0 8 &&
    (match layout with
     | some l => (layoutAreas l).all fun a => !rangesMeet r.target r.count a.1 a.2
     | none => true)

/-- The first check a region fails against the regions of lower index (R3). -/
def regionFault (m : RegionMap) (layout : Option Layout) (capacity i : Nat) : Option MapReason :=
  let r := m.region i
  let lower := ((List.range i).map m.region).filter (·.inUse)
  if r.count < 8 then some .count
  else if !(r.first % 8 == 0 && r.count % 8 == 0 && r.target % 8 == 0) then some .align
  else if m.cap < r.first + r.count then some .capacity
  else if lower.any fun o => rangesMeet r.first r.count o.first o.count then some .logicalOverlap
  else if !targetRangeOk r layout capacity then some .targetRange
  else if lower.any fun o => rangesMeet r.target r.count o.target o.count then some .targetOverlap
  else if r.policy.isOverlay && layout.isNone then some .noLayout
  else none

/-- Map validation: the first region that fails and its reason (R3). -/
def mapFault (m : RegionMap) (layout : Option Layout) (capacity : Nat) : Option (Nat × MapReason) :=
  (List.range 32).findSome? fun i =>
    if (m.region i).inUse then (regionFault m layout capacity i).map fun why => (i, why) else none

/-- Whether an index changes otherwise than in its port masks (R15). -/
def changesBeyondPorts (old new : Region) : Bool :=
  !new.inUse || decide (new.policy ≠ old.policy) || decide (new.first ≠ old.first) || decide (new.count ≠ old.count) ||
    decide (new.target ≠ old.target)

/-- Whether an activation changes the entry of an index in any field, its port masks included (R9, R15, R17). -/
def indexChanged (old new : Region) : Bool := (old.inUse || new.inUse) && decide (old ≠ new)

/-- Layout validity against a capacity (R136). -/
def layoutValid (l : Layout) (capacity : Nat) : Bool :=
  decide (l.overlayBase % 8 = 0) && decide (64 ≤ l.slots ∧ l.slots ≤ Config.tableCapacity ∧ l.slots % 64 = 0) &&
    decide (64 ≤ l.journalLen ∧ l.journalLen ≤ 4096) && decide (l.lowWater ≤ l.slots) &&
    ((layoutAreas l).all fun a => decide (8 ≤ a.1 ∧ a.1 + a.2 ≤ capacity)) &&
    (List.range 4).all fun i => (List.range i).all fun j =>
      let a := (layoutAreas l).getD i (0, 0)
      let b := (layoutAreas l).getD j (0, 0)
      !rangesMeet a.1 a.2 b.1 b.2

/-! ## The Overlay Table and the slot pool (R8, R21, R25, R36) -/

/-- The entry of a grain (R20). -/
def State.entry? (s : State) (g : Nat) : Option Entry := s.ov.table.find? fun e => e.grain == g

/-- The slot of a grain's entry. -/
def State.slotOf (s : State) (g : Nat) : Option Nat := (s.entry? g).bind (·.slot)

/-- The standing reservation of a grain (R27). -/
def State.reservation? (s : State) (g : Nat) : Option Reservation := s.ov.reservations.find? fun r => r.grain == g

/-- Entry count of an index (R8; a view, log entry 7). -/
def State.entryCount (s : State) (i : Nat) : Nat := (s.ov.table.filter fun e => e.region == i).length

/-- The mask conditions of R21. -/
def maskConditions (slot : Option Nat) (present lost : Mask) : Bool :=
  decide (present &&& lost = 0) &&
    (match slot with
     | some _ => decide (present ≠ 0)
     | none => decide (present = 0) && decide (lost ≠ 0))

/-- The relocation request or relocation of a grain (R88). -/
def State.reloc? (s : State) (g : Nat) : Option Reloc := s.te.relocs.find? fun r => r.grain == g

/-- BOUND slots (R25). -/
def State.boundSlots (s : State) : List Nat := s.ov.table.filterMap (·.slot)

/-- RESERVED slots (R25): those of the reservations and those relocations hold. -/
def State.reservedSlots (s : State) : List Nat :=
  s.ov.reservations.map (·.slot) ++ s.te.relocs.filterMap (·.newSlot)

/-- The low-water mark in force (R36). -/
def State.lowWater (s : State) : Nat := match s.map.layout with | some l => l.lowWater | none => 0

/-- A slot no host write may be issued to: condemned or retired (R87). -/
def State.outOfService (s : State) (slot : Nat) : Bool := s.ov.condemned.contains slot || s.ov.retired.contains slot

/-- The first target block of a slot (R25). -/
def State.slotBase (s : State) (slot : Nat) : Nat :=
  match s.map.layout with | some l => l.overlayBase + 8 * slot | none => 0

/-- The stored policy of an active region. -/
def State.policyOf (s : State) (i : Nat) : Policy := (s.map.active.region i).policy

/-- Whether the changes of a region's entries are journaled: its stored policy is KEEP (R23, R118). -/
def State.journaled (s : State) (i : Nat) : Bool := decide (s.policyOf i = .keep)

/-- Whether a layout is set. -/
def State.layoutSet (s : State) : Bool := s.map.layout.isSome

/-- Whether admission and the requests find no mount (R13, R43). -/
def State.unmounted (s : State) : Bool := decide (s.mnt.dev = .mounting) || decide (s.mnt.dev = .offline)

/-! ## The journal (R117, R122) -/

/-- The journal length J; 0 with no layout. -/
def State.journalLen (s : State) : Nat := match s.map.layout with | some l => l.journalLen | none => 0

/-- The live count (R122). -/
def JournalUnit.live (j : JournalUnit) : Nat := j.qNext - j.sCk

/-- The fate of a journal record (R119); none while its hand-off waits. -/
def JournalUnit.fate? (j : JournalUnit) (id : Nat) : Option Fate := (j.fates.find? fun f => f.1 == id).map (·.2)

/-- The area a checkpoint run writes: the one that is not the newest; A when none is (R124, R140). -/
def JournalUnit.olderArea (j : JournalUnit) : Area :=
  match j.newest with
  | some .A => .B
  | _ => .A

/-- The first target block of a checkpoint area. -/
def areaBase (l : Layout) : Area → Nat
  | .A => l.ckA
  | .B => l.ckB

/-! ## Attention flag (R159) -/

/-- The attention flag of a STATUS sent on a port. -/
def PortMgmt.attention (m : PortMgmt) : Bool := !m.notices.isEmpty

/-! ## Records and the data wait (R68, R69, R77, R161) -/

/-- A piece whose outcome is still to come. -/
def Piece.isPending (p : Piece) : Bool := decide (p.state = .issued) || decide (p.state = .handed)

/-- Leading blocks of the range whose pieces are DONE (R77). -/
def leadingDone : List Piece → Nat
  | [] => 0
  | p :: ps => if p.state = .done then p.count + leadingDone ps else 0

/-- Blocks of a WRITE for which buffers have been claimed (R68). -/
def claimedBlocks (plan : List Piece) : Nat :=
  (plan.map fun p => match p.state with
    | .planned => 0
    | .withdrawn => 0
    | _ => p.count).sum

/-- The end of delivery of a READ, counted in blocks from its first (R69, R77). -/
def Record.deliveryEnd (r : Record) : Nat := match r.cut with | some b => b - r.first | none => r.count

/-- The piece of a plan that covers a logical block. -/
def pieceAt? (plan : List Piece) (b : Nat) : Option Piece :=
  plan.find? fun p => decide (p.first ≤ b ∧ b < p.first + p.count)

/-- The contents of the `i`-th block of a READ when it may be delivered (R64, R69, R77). -/
def Record.readyBlock (r : Record) (i : Nat) : Option Block :=
  if r.deliveryEnd ≤ i then none else
  match r.path with
  | some .window => r.window[i]?
  | _ =>
    match pieceAt? r.plan (r.first + i) with
    | some p => if p.state = .done ∨ p.state = .failed then p.data[r.first + i - p.first]? else none
    | none => none

/-- Whether the data-wait timer of a record runs (R161). -/
def dataWaitRuns (r : Record) (t : Tag) : Bool :=
  decide (r.state = .active) && !r.winding &&
    (match r.op with
     | .write => decide (t.moved < t.granted)
     | .read => (r.readyBlock t.moved).isSome && decide (t.granted ≤ t.moved)
     | _ => false)

end Sys2Proof.Machine
end

