-- ==== Sys2Proof/Machine/Ops.lean ====
section
/-! DEFINITION. The operations shared by the meanings: ports and tags, frames sent, notices, buffers, requests at the
arbiter, command records, the Overlay Table and the free ring. -/

namespace Sys2Proof.Machine

/-! ## Ports, tags and frames sent -/

/-- The Host Port Unit of a port. -/
def State.hp (s : State) : Port → HostPortUnit
  | .A => s.hpA
  | .B => s.hpB

/-- The state with one Host Port Unit replaced. -/
def State.setHp (s : State) (p : Port) (u : HostPortUnit) : State :=
  match p with
  | .A => { s with hpA := u }
  | .B => { s with hpB := u }

/-- The Management Unit's state for a port. -/
def State.mg (s : State) : Port → PortMgmt
  | .A => s.mgA
  | .B => s.mgB

/-- The state with the Management Unit's state for one port replaced. -/
def State.setMg (s : State) (p : Port) (m : PortMgmt) : State :=
  match p with
  | .A => { s with mgA := m }
  | .B => { s with mgB := m }

/-- The frames sent on a port. -/
def State.out (s : State) : Port → List HostFrame
  | .A => s.outA
  | .B => s.outB

/-- A frame is sent on a host port (log entry 5). -/
def State.send (s : State) (p : Port) (f : HostFrame) : State :=
  match p with
  | .A => { s with outA := s.outA ++ [f] }
  | .B => { s with outB := s.outB ++ [f] }

/-- A frame is sent on the target port. -/
def State.sendT (s : State) (f : TargetFrame) : State := { s with outT := s.outT ++ [f] }

/-- A tag of a host port (R152). -/
def State.tag (s : State) (c : CmdId) : Tag := (s.hp c.port).tags.getD c.tag Tag.free

/-- The state with a tag replaced. -/
def State.setTag (s : State) (c : CmdId) (t : Tag) : State :=
  s.setHp c.port { s.hp c.port with tags := (s.hp c.port).tags.set c.tag t }

/-- STATUS for a tag, and the tag becomes FREE in the same act (R152, R159). -/
def sendStatus (c : CmdId) (res : Result) (done : Nat) (detail : Option Nat) (value : Nat) (s : State) : State :=
  (s.send c.port (.status c.tag res done detail value (s.mg c.port).attention)).setTag c Tag.free

/-! ## Notices (R177, R178) -/

/-- Whether an entry has the kind and region of a notice. -/
def sameNotice (b : NoticeBody) (region : Option Nat) (n : Notice) : Bool :=
  decide (n.body.kind = b.kind) && decide (n.region = region)

/-- An entry that one more notice of its kind and region coalesces into. -/
def coalesce (b : NoticeBody) (region : Option Nat) (n : Notice) : Notice :=
  if sameNotice b region n then { n with body := b, count := Nat.min 65535 (n.count + 1) } else n

/-- A notice is offered to one queue (R178). -/
def offer (b : NoticeBody) (region : Option Nat) (m : PortMgmt) : PortMgmt :=
  if m.notices.any (sameNotice b region) then { m with notices := m.notices.map (coalesce b region) }
  else if m.notices.length < Config.noticeMax then
    { m with
      notices := m.notices ++ [{ number := m.nextNumber, body := b, region := region, count := 1 }],
      nextNumber := m.nextNumber + 1 }
  else { m with incomplete := true }

/-- A notice is raised: offered to both queues in one act (R178). -/
def raise (b : NoticeBody) (region : Option Nat) (s : State) : State :=
  { s with mgA := offer b region s.mgA, mgB := offer b region s.mgB }

/-! ## Responses (R170, R171) -/

/-- The request in progress of a port is answered: its response becomes DONE with its result, summary and items. A
response that is owed to no port, because the port was reset, is discarded (R182). -/
def answer (owed : Option Port) (res : Reply) (n1 n2 n3 n4 : Nat) (items : List (List Byte)) (s : State) : State :=
  match owed with
  | none => s
  | some p =>
      let m := s.mg p
      s.setMg p { m with
        inProgress := none,
        response := { m.response with state := .done, result := some res, n1 := n1, n2 := n2, n3 := n3, n4 := n4, items := items } }

/-- A refusal, or a DONE_OK without payload. -/
def answerPlain (owed : Option Port) (res : Reply) (s : State) : State := answer owed res 0 0 0 0 [] s

/-! ## The Buffer Pool (R66) -/

/-- The quota of an owner. -/
def quotaOf : BufOwner → Nat
  | .host _ => Config.hostQuota
  | .internal => Config.internalQuota

/-- Buffers charged to an owner. -/
def BufferPool.charge (b : BufferPool) : BufOwner → Nat
  | .host .A => b.chargeA
  | .host .B => b.chargeB
  | .internal => b.chargeI

def BufferPool.setCharge (b : BufferPool) (o : BufOwner) (n : Nat) : BufferPool :=
  match o with
  | .host .A => { b with chargeA := n }
  | .host .B => { b with chargeB := n }
  | .internal => { b with chargeI := n }

/-- The claim queue of an owner. -/
def BufferPool.claims (b : BufferPool) : BufOwner → List BufClaim
  | .host .A => b.claimsA
  | .host .B => b.claimsB
  | .internal => b.claimsI

def BufferPool.setClaims (b : BufferPool) (o : BufOwner) (l : List BufClaim) : BufferPool :=
  match o with
  | .host .A => { b with claimsA := l }
  | .host .B => { b with claimsB := l }
  | .internal => { b with claimsI := l }

/-- A claim is placed at the end of its owner's queue. -/
def placeClaim (o : BufOwner) (who : ClaimFor) (n : Nat) (s : State) : State :=
  { s with pool := s.pool.setClaims o (s.pool.claims o ++ [{ who := who, count := n }]) }

/-- Claims still waiting are taken out of a queue. -/
def dropClaims (o : BufOwner) (gone : ClaimFor → Bool) (s : State) : State :=
  { s with pool := s.pool.setClaims o ((s.pool.claims o).filter fun c => !gone c.who) }

/-- Buffers are released: the owner's charge falls in the same act. -/
def release (o : BufOwner) (n : Nat) (s : State) : State :=
  { s with pool := s.pool.setCharge o (s.pool.charge o - n) }

/-! ## Requests at the arbiter (R71) -/

/-- The queue of a class. -/
def TransferEngine.queue (te : TransferEngine) : TClass → List Request
  | .journal => te.journalQ
  | .recovery => te.recoveryQ
  | .host .A => te.hostAQ
  | .host .B => te.hostBQ
  | .background => te.backQ

def TransferEngine.setQueue (te : TransferEngine) (c : TClass) (l : List Request) : TransferEngine :=
  match c with
  | .journal => { te with journalQ := l }
  | .recovery => { te with recoveryQ := l }
  | .host .A => { te with hostAQ := l }
  | .host .B => { te with hostBQ := l }
  | .background => { te with backQ := l }

/-- A request enters the queue of its class. -/
def enqueue (r : Request) (s : State) : State :=
  { s with te := s.te.setQueue r.cls (s.te.queue r.cls ++ [r]) }

/-- A fresh request, with no retry made. -/
def newRequest (cls : TClass) (owner : Owner) (op : TOp) (first count : Nat) (durable : Bool) (data : List Block) : Request :=
  { cls := cls, owner := owner, op := op, first := first, count := count, durable := durable, data := data,
    checks := 0, notReady := 0, media := 0 }

/-- Requests still waiting, and retries waiting for their interval, are withdrawn. -/
def withdrawRequests (gone : Owner → Bool) (s : State) : State :=
  let keep : List Request → List Request := List.filter fun r => !gone r.owner
  { s with te := { s.te with
      journalQ := keep s.te.journalQ, recoveryQ := keep s.te.recoveryQ, hostAQ := keep s.te.hostAQ,
      hostBQ := keep s.te.hostBQ, backQ := keep s.te.backQ, intervals := keep s.te.intervals } }

/-- Whether an operation of an owner is in flight, or a retry of it waits, or a request of it is queued. -/
def State.hasWork (s : State) (mine : Owner → Bool) : Bool :=
  s.te.ops.any (fun o => mine o.req.owner) || s.te.intervals.any (fun r => mine r.owner) ||
    s.te.journalQ.any (fun r => mine r.owner) || s.te.recoveryQ.any (fun r => mine r.owner) ||
    s.te.hostAQ.any (fun r => mine r.owner) || s.te.hostBQ.any (fun r => mine r.owner) ||
    s.te.backQ.any (fun r => mine r.owner)

/-- Whether an operation of an owner is in flight. -/
def State.inFlight (s : State) (mine : Owner → Bool) : Bool := s.te.ops.any fun o => mine o.req.owner

/-- A request with another owner. -/
def Request.rename (f : Owner → Owner) (r : Request) : Request := { r with owner := f r.owner }

/-- Operations in flight, and the retries that wait, get other owners (log entry 21). -/
def disown (f : Owner → Owner) (s : State) : State :=
  { s with te := { s.te with
      ops := s.te.ops.map fun o => { o with req := o.req.rename f },
      recoveryQ := s.te.recoveryQ.map (Request.rename f),
      intervals := s.te.intervals.map (Request.rename f) } }

/-- A free place below `n` (log entry 8), and the state after it is drawn. -/
def drawIndex (n : Nat) (s : State) : Nat × State := (Config.freeIndex s.free % n, { s with free := s.free + 1 })

/-! ## Command records (R38) -/

/-- The record of a tag. -/
def State.rec? (s : State) (c : CmdId) : Option Record := s.adm.records.find? fun r => decide (r.id = c)

/-- The record of a tag is changed. -/
def mapRec (c : CmdId) (f : Record → Record) (s : State) : State :=
  { s with adm := { s.adm with records := s.adm.records.map fun r => if r.id = c then f r else r } }

/-- The deferred arrival of a tag (R40). -/
def State.deferred? (s : State) (c : CmdId) : Option Arrival := s.adm.deferred.find? fun a => decide (a.id = c)

/-- The arrival queue of a port (R38). -/
def AdmissionUnit.queue (a : AdmissionUnit) : Port → List Nat
  | .A => a.queueA
  | .B => a.queueB

def AdmissionUnit.setQueue (a : AdmissionUnit) (p : Port) (l : List Nat) : AdmissionUnit :=
  match p with
  | .A => { a with queueA := l }
  | .B => { a with queueB := l }

/-- A record taken out of its port's arrival queue. -/
def unqueue (c : CmdId) (s : State) : State :=
  { s with adm := s.adm.setQueue c.port ((s.adm.queue c.port).filter fun t => decide (t ≠ c.tag)) }

/-- The record created for an arrival: WAITING, at the end of its port's arrival queue (R38). -/
def arrive (a : Arrival) (s : State) : State :=
  let r : Record := { id := a.id, op := a.op, first := a.first, count := a.count, durable := a.durable, state := .waiting,
                      path := none, region := none, plan := [], counted := false, stopNoted := false, winding := false,
                      result := none, cut := none, latest := none, window := [] }
  let adm : AdmissionUnit := { s.adm with records := s.adm.records ++ [r] }
  { s with adm := adm.setQueue a.id.port (adm.queue a.id.port ++ [a.id.tag]) }

/-- A piece of a record's plan is changed. -/
def mapPiece (c : CmdId) (i : Nat) (f : Piece → Piece) (s : State) : State :=
  mapRec c (fun r => { r with plan := r.plan.modify i f }) s

/-- A piece with its buffers given back and its contents dropped. -/
def Piece.drop (p : Piece) (st : PieceState) : Piece := { p with state := st, held := 0, data := [] }

/-! ## The Overlay Table (R20, R21) -/

/-- An entry put in its place, in ascending grain order, replacing the grain's own. -/
def insertEntry (e : Entry) : List Entry → List Entry
  | [] => [e]
  | x :: xs => if x.grain < e.grain then x :: insertEntry e xs
               else if x.grain = e.grain then e :: xs else e :: x :: xs

/-- An entry is created or replaced. -/
def putEntry (e : Entry) (s : State) : State := { s with ov := { s.ov with table := insertEntry e s.ov.table } }

/-- The entry of a grain is removed. -/
def removeEntry (g : Nat) (s : State) : State :=
  { s with ov := { s.ov with table := s.ov.table.filter fun e => decide (e.grain ≠ g) } }

/-- The entry of a grain, if any, gets a state (R22). -/
def setEntryState (g : Nat) (st : EntryState) (s : State) : State :=
  { s with ov := { s.ov with table := s.ov.table.map fun e => if e.grain = g then { e with state := st } else e } }

/-! ## The free ring and the retired set (R26, R35, R36) -/

/-- A slot joins the ring tail; the low-water flag is set again when the count is at L or above (R36). -/
def joinRing (slot : Nat) (s : State) : State :=
  { s with ov := { s.ov with
      ring := s.ov.ring ++ [slot],
      armed := s.ov.armed || decide (s.lowWater ≤ s.ov.ring.length + 1) } }

/-- Slots join the ring tail in order. -/
def joinAll (slots : List Nat) (s : State) : State := slots.foldl (fun t n => joinRing n t) s

/-- `n` slots leave the ring at the head, in one taking (R27, R34, R36). The caller has seen that the ring holds them. -/
def takeRing (n : Nat) (s : State) : State :=
  let left := s.ov.ring.drop n
  let low := decide (0 < n) && s.ov.armed && decide (left.length < s.lowWater)
  let t : State := { s with ov := { s.ov with ring := left, armed := s.ov.armed && !low } }
  if low then raise (.slotsLow (s.ov.ring.getD (n - 1) 0)) none t else t

/-- A slot is retired: it joins the end of the retired set, and a condemned mark on it ends (R35, R87). -/
def retire (slot : Nat) (s : State) : State :=
  { s with ov := { s.ov with
      retired := if s.ov.retired.contains slot then s.ov.retired else s.ov.retired ++ [slot],
      condemned := s.ov.condemned.filter fun n => decide (n ≠ slot) } }

/-! ## The admitted order (R49 to R52) -/

/-- The admitted order is changed. -/
def setOrder (f : List Placed → List Placed) (s : State) : State := { s with adm := { s.adm with order := f s.adm.order } }

/-- A record or claim leaves the admitted order. -/
def unplace (ref : ClaimRef) (s : State) : State := setOrder (List.filter fun x => decide (x.ref ≠ ref)) s

/-- The relocations of the part are changed. -/
def setRelocs (f : List Reloc → List Reloc) (s : State) : State := { s with te := { s.te with relocs := f s.te.relocs } }

/-- The relocation of a grain is changed. -/
def mapReloc (g : Nat) (f : Reloc → Reloc) (s : State) : State :=
  setRelocs (List.map fun r => if r.grain = g then f r else r) s

/-- Grains of a record's claim that relocations have borrowed (R52). -/
def State.borrowed (s : State) (c : CmdId) : List Nat :=
  (s.te.relocs.filter fun r => decide (r.stage ≠ .queued) && r.dependants.any fun d => decide (d.cmd = c)).map (·.grain)

/-- The claim at a place of the admitted order; none for a record with no claim (R49). -/
def State.claimAt (s : State) : ClaimRef → Option ClaimRange
  | .cmd c =>
      match s.rec? c with
      | some r => if r.path = some .region then
            some { first := r.first, count := r.count, write := decide (r.op = .write), minus := s.borrowed c }
          else none
      | none => none
  | .merge g => some { first := 8 * g, count := 8, write := true, minus := [] }
  | .discard _ first count => some { first := first, count := count, write := true, minus := [] }
  | .reloc g => some { first := 8 * g, count := 8, write := true, minus := [] }

/-- The conflict rule (R50). -/
def claimsConflict (a b : ClaimRange) : Bool :=
  (a.write || b.write) && rangesMeet a.first a.count b.first b.count &&
    (grainsOf (Nat.max a.first b.first)
        (Nat.min (a.first + a.count) (b.first + b.count) - Nat.max a.first b.first)).any
      fun g => !a.minus.contains g && !b.minus.contains g

/-- Whether a claim conflicts with one of the places before it. -/
def State.conflictsWith (s : State) (earlier : List Placed) (ref : ClaimRef) : Bool :=
  match s.claimAt ref with
  | some c => earlier.any fun x => match s.claimAt x.ref with
      | some e => claimsConflict e c
      | none => false
  | none => false

/-- Queued relocation requests that a merge or discard claim counts as earlier claims (R104, R113). -/
def State.queuedBefore (s : State) : ClaimRef → Bool
  | .merge g => s.te.relocs.any fun r => decide (r.stage = .queued) && decide (r.grain = g)
  | .discard _ first count => s.te.relocs.any fun r => decide (r.stage = .queued) && rangesMeet (8 * r.grain) 8 first count
  | _ => false

/-- Whether a claim at a place is held by what stands before it (R50, R51). -/
def State.heldBy (s : State) (earlier : List Placed) (ref : ClaimRef) : Bool :=
  s.conflictsWith earlier ref || s.queuedBefore ref

/-- A claim is placed at the end of the admitted order; an internal claim is granted when nothing holds it (R51). -/
def placeAtEnd (ref : ClaimRef) (s : State) : State :=
  setOrder (· ++ [{ ref := ref, granted := !s.heldBy s.adm.order ref }]) s

/-- Whether an internal claim stands granted. -/
def State.claimGranted (s : State) (ref : ClaimRef) : Bool := s.adm.order.any fun x => decide (x.ref = ref) && x.granted

end Sys2Proof.Machine
end

