-- ==== Sys2Proof/Machine/Overlay.lean ====
section
/-! DEFINITION. The requests the Overlay Unit applies whole: reservation and settlement, grain lookup, binding, lost
marking and release (R24, R27 to R33). -/

namespace Sys2Proof.Machine

/-! ## Reservation (R27, R28, R29) -/

/-- A reservation put in its place, in ascending grain order. -/
def insertReservation (r : Reservation) : List Reservation → List Reservation
  | [] => [r]
  | x :: xs => if x.grain < r.grain then x :: insertReservation r xs else r :: x :: xs

/-- The standing reservations are changed. -/
def setReservations (f : List Reservation → List Reservation) (s : State) : State :=
  { s with ov := { s.ov with reservations := f s.ov.reservations } }

/-- Whether a grain is counted as needed (R27). -/
def State.needsSlot (s : State) (g : Nat) : Bool :=
  (s.slotOf g).isNone && (s.reservation? g).isNone &&
    !s.te.relocs.any fun r => decide (r.grain = g) && r.newSlot.isSome

/-- Entry places in use (R27). -/
def State.entryPlaces (s : State) : Nat :=
  s.ov.table.length + (s.ov.reservations.filter fun r => (s.entry? r.grain).isNone).length +
    (s.te.relocs.filter fun r => (s.entry? r.grain).isNone && (s.reservation? r.grain).isNone).length

/-- Whether the needed grains can be given slots: none is needed, or 4 slots stay in the ring and the entry places suffice
(R27). -/
def State.canReserve (s : State) (needed : List Nat) : Bool :=
  needed.isEmpty ||
    (decide (needed.length + Config.relocReserve ≤ s.ov.ring.length) &&
      decide (s.entryPlaces + (needed.filter fun g => (s.entry? g).isNone).length ≤ Config.tableCapacity))

/-- A record joins the sharers of a reservation it neither holds nor shares. -/
def Reservation.join (c : CmdId) (r : Reservation) : Reservation :=
  if r.holder = c ∨ r.sharers.contains c then r else { r with sharers := r.sharers ++ [c] }

/-- The slots at the ring head are reserved, the first to the lowest needed grain, in one taking; the record joins the
sharers of the reservations that stood on grains it touches (R27). -/
def takeReservations (c : CmdId) (grains needed : List Nat) (s : State) : State :=
  let fresh := (needed.zip (s.ov.ring.take needed.length)).map fun x =>
    ({ grain := x.1, slot := x.2, holder := c, sharers := [] } : Reservation)
  let joined := fun l : List Reservation => l.map fun r => if grains.contains r.grain then r.join c else r
  setReservations (fun l => fresh.foldl (fun acc r => insertReservation r acc) (joined l)) (takeRing needed.length s)

/-- The reservation of R27, all or nothing: none when it fails. -/
def reserve (c : CmdId) (grains : List Nat) (s : State) : Option State :=
  let needed := grains.filter s.needsSlot
  if s.canReserve needed then some (takeReservations c grains needed s) else none

/-- The reservation of a grain ends: its slot is handed back, bound or retired (R28, R87). There is at most one (R27). -/
def endReservation (g : Nat) (s : State) : State := setReservations (List.eraseP fun r => r.grain == g) s

/-- A record gives up the reservation of a grain: a holder passes it to the oldest sharer, or its slot joins the ring
tail; a sharer is taken out (R28). -/
def giveUp (c : CmdId) (g : Nat) (s : State) : State :=
  match s.reservation? g with
  | none => s
  | some r =>
      if r.holder = c then
        match r.sharers with
        | x :: xs =>
            setReservations (List.map fun y => if y.grain = g then { y with holder := x, sharers := xs } else y) s
        | [] => joinRing r.slot (endReservation g s)
      else
        setReservations (List.map fun y =>
          if y.grain = g then { y with sharers := y.sharers.filter fun d => decide (d ≠ c) } else y) s

/-- A record gives up all its reservations, in ascending grain order (R28). -/
def giveUpAll (c : CmdId) (s : State) : State :=
  (s.ov.reservations.map (·.grain)).foldl (fun t g => giveUp c g t) s

/-- The first case of settlement (R29): a reservation of a grain that got a slot is given up, and a share of it too (log
entry 31). -/
def settleBound (c : CmdId) (grains : List Nat) (s : State) : State :=
  (grains.filter fun g => (s.slotOf g).isSome).foldl (fun t g => giveUp c g t) s

/-- Settlement (R29): what grains that got a slot had reserved is given up and not joined again; of the other grains the needed
ones are reserved, and the record shares the reservations that stand (log entry 31). Whether the needed ones could be
reserved, and the state after it. -/
def settle (c : CmdId) (grains : List Nat) (s : State) : Bool × State :=
  let t := settleBound c grains s
  match reserve c (grains.filter fun g => (s.slotOf g).isNone) t with
  | some u => (true, u)
  | none => (false, t)

/-- The slot a WRITE uses for a grain after settlement (R24, R29). -/
def State.writeSlot (s : State) (g : Nat) : Nat :=
  match s.slotOf g with
  | some n => n
  | none => match s.reservation? g with
    | some r => r.slot
    | none => 0

/-- Grain lookup of one block for a READ under read source OVERLAY (R24). -/
def State.classOf (s : State) (b : Nat) : PieceKind :=
  match s.entry? (grainOf b) with
  | some e =>
      if inMask e.present (b % 8) then
        match e.slot with
        | some n => .slot n
        | none => .base
      else if inMask e.lost (b % 8) then .lost else .base
  | none => .base

/-! ## Updates of the table (R30, R31, R33) -/

/-- The ENTRY record that states an entry. -/
def Entry.record (e : Entry) : RecordBody := .entry e.grain e.region e.slot e.present e.lost

/-- Whether a slot is one a report for a grain may name: the slot of its entry, or, when it has none, the slot its reservation
holds (R30). -/
def State.servesGrain (s : State) (g slot : Nat) : Bool :=
  match s.slotOf g with
  | some n => n == slot
  | none => (s.reservation? g).any fun r => r.slot == slot

/-- A successful write of `m` into a slot (R30): the entry as updated, and the state with it. -/
def bindBlocks (g region slot : Nat) (m : Mask) (s : State) : Entry × State :=
  let e : Entry := match s.entry? g with
    | none => { grain := g, region := region, slot := some slot, present := m, lost := 0, state := .resident }
    | some e =>
        { e with slot := (match e.slot with | some n => some n | none => some slot),
                 present := e.present ||| m, lost := maskLess e.lost m }
  (e, putEntry e (if (s.slotOf g).isNone then endReservation g s else s))

/-- What a lost marking did (R31): the blocks it marked and the slot it retired. -/
abbrev LostMarking := Mask × Option Nat

/-- Marking blocks lost (R31): blocks that are present become lost, and a slot that holds none is unbound and retired. -/
def markLost (g : Nat) (m : Mask) (s : State) : LostMarking × State :=
  match s.entry? g with
  | none => ((0, none), s)
  | some e =>
      let marked := e.present &&& m
      if marked = 0 then ((0, none), s) else
      let left := maskLess e.present marked
      let e' : Entry := { e with present := left, lost := e.lost ||| marked }
      if left = 0 then
        match e.slot with
        | some n => ((marked, some n), retire n (putEntry { e' with slot := none } s))
        | none => ((marked, none), putEntry { e' with slot := none } s)
      else ((marked, none), putEntry e' s)

/-- The records a lost marking hands on (R31, R118): for a KEEP entry its ENTRY record, then a RETIRE record for a slot
retired, whichever region it served. -/
def lostRecords (g : Nat) (mark : LostMarking) (s : State) : List RecordBody :=
  if mark.1 = 0 then [] else
  (match s.entry? g with
   | some e => if s.journaled e.region then [e.record] else []
   | none => []) ++
  (match mark.2 with
   | some n => [.retire n]
   | none => [])

/-- A slot leaves BOUND by a release: a volatile one joins the ring, a KEEP one becomes PENDING_FREE, tied to the journal
record that makes the release durable (R33). -/
def releaseSlot (slot : Nat) (record : Option Nat) (s : State) : State :=
  match record with
  | none => joinRing slot s
  | some id => { s with ov := { s.ov with pendingFree := s.ov.pendingFree ++ [{ slot := slot, record := id }] } }

/-- The releases of the given records have become durable: their slots join the ring in list order (R33). -/
def freePending (durable : Nat → Bool) (s : State) : State :=
  let done := s.ov.pendingFree.filter fun x => durable x.record
  joinAll (done.map (·.slot))
    { s with ov := { s.ov with pendingFree := s.ov.pendingFree.filter fun x => !durable x.record } }

end Sys2Proof.Machine
end

