-- ==== Sys2Proof/Machine/Journal.lean ====
section
/-! DEFINITION. The journal's buffers: naming records, taking hand-offs, closing blocks and starting checkpoint runs
(R117 to R126). -/

namespace Sys2Proof.Machine

/-- The Journal Unit is changed. -/
def setJrn (f : JournalUnit → JournalUnit) (s : State) : State := { s with jrn := f s.jrn }

/-- Records with the next names of the part (log entry 8). -/
def namesFrom : Nat → List RecordBody → List JRecord
  | _, [] => []
  | n, b :: bs => { id := n, body := b } :: namesFrom (n + 1) bs

/-- Records to hand on get their names. -/
def nameRecords (bodies : List RecordBody) (s : State) : List JRecord × State :=
  (namesFrom s.jrn.nextId bodies, setJrn (fun j => { j with nextId := j.nextId + bodies.length }) s)

/-- Fates of the records in `ids` become `f` (R119). -/
def setFates (ids : List Nat) (f : Fate) (j : JournalUnit) : JournalUnit :=
  { j with fates := j.fates.map fun x => if ids.contains x.1 then (x.1, f) else x }

/-! ## Checkpoint runs (R123, R125, R126) -/

/-- The run claims one internal buffer for its next body block, unless one is claimed, 4 are unwritten or the walk has
ended (R126). -/
def claimBody (s : State) : State :=
  match s.jrn.run with
  | some r =>
      if r.claiming || r.walkEnded || decide (Config.bodyWindow ≤ r.unwritten) then s
      else placeClaim .internal (.ckBody r.serial) 1 (setJrn (fun j => { j with run := some { r with claiming := true } }) s)
  | none => s

/-- A checkpoint run starts (R125). -/
def startRun (origin : CkOrigin) (owed : Option Port) (s : State) : State :=
  let run : CkRun :=
    { serial := s.jrn.nextRun, origin := origin, owed := owed, area := s.jrn.olderArea, gen := s.jrn.newestGen + 1,
      start := s.jrn.qNext, phase := .bitmap, formedMaps := 0, cursor := none, entryBlocks := 0, entries := 0,
      missed := false, walkEnded := false, unwritten := 0, claiming := false, image := crc32Init }
  claimBody (setJrn (fun j => { j with run := some run, nextRun := j.nextRun + 1 }) s)

/-- The automatic checkpoint test (R123). -/
def autoCheckpoint (s : State) : State :=
  if s.jrn.run.isNone && decide (s.journalLen ≤ s.jrn.live + Config.checkpointSlack) then startRun .automatic none s else s

/-! ## Blocks (R120) -/

/-- Whether something waits on a record (R120). -/
def State.waitedOn (s : State) (id : Nat) : Bool :=
  (s.jrn.waiters.any fun c => match s.rec? c with
    | some r => decide (r.latest = some id)
    | none => false) ||
  (s.ov.pendingFree.any fun x => decide (x.record = id)) ||
  (match s.mrg.discard with
   | some d => decide (d.record = some id)
   | none => false)

/-- Whether the open buffer is to be closed (R120). -/
def State.canClose (s : State) : Bool :=
  decide (s.jrn.cond = .normal) && s.jrn.inFlight.isNone && decide (s.jrn.live < s.journalLen) &&
    !s.jrn.openBuf.isEmpty &&
    (decide (s.jrn.openBuf.length = Config.journalRecords) || s.jrn.openBuf.any fun r => s.waitedOn r.id)

/-- The target block of a sequence's journal block (section 7.2). -/
def State.journalTarget (s : State) (q : Nat) : Nat :=
  match s.map.layout with | some l => l.journalBase + q % l.journalLen | none => 0

/-- The open buffer is closed into the in-flight block, and its write is requested (R120, steps 1 to 3, 5 and 6). Step 4, the
taking of waiting hand-offs, follows in the same act (closeAndTake, takeWaiting). -/
def closeBlock (s : State) : State :=
  let q := s.jrn.qNext
  let recs := s.jrn.openBuf
  let s1 := setJrn (fun j => setFates (recs.map (·.id)) .inFlight
    { j with openBuf := [], inFlight := some { seq := q, recs := recs }, qNext := q + 1 }) s
  autoCheckpoint (enqueue (newRequest .journal .journal .write (s.journalTarget q) 1 true
    [journalBlock s.map.formatId q (recs.map (·.body))]) s1)

/-! ## Hand-offs (R119) -/

/-- Records join the open buffer. -/
def takeRecords (recs : List JRecord) (s : State) : State :=
  setJrn (fun j => { j with openBuf := j.openBuf ++ recs, fates := j.fates ++ recs.map fun r => (r.id, Fate.inBuffer) }) s

/-- The missed mark of a run that exists is set (R130, R131). -/
def markMissed (s : State) : State :=
  setJrn (fun j => { j with run := j.run.map fun r => { r with missed := true } }) s

/-- Records are taken under FAULT and dropped (R119, R131). -/
def dropRecords (recs : List JRecord) (s : State) : State :=
  markMissed (setJrn (fun j => { j with fates := j.fates ++ recs.map fun r => (r.id, Fate.dropped) }) s)

/-- The part of a hand-off that is taken next: at most 30 records. -/
def takePart (recs : List JRecord) (s : State) : List JRecord × State :=
  let part := recs.take Config.journalRecords
  let s1 := if decide (s.jrn.openBuf.length = Config.journalRecords) && s.canClose then closeBlock s else s
  if s1.jrn.live < s1.journalLen ∧ s1.jrn.openBuf.length + part.length ≤ Config.journalRecords then
    (recs.drop Config.journalRecords, takeRecords part s1)
  else (recs, s1)

/-- Parts are taken in order until one must wait; what is left. -/
def takeParts : Nat → List JRecord → State → List JRecord × State
  | 0, recs, s => (recs, s)
  | n + 1, recs, s =>
      if recs.isEmpty then (recs, s)
      else
        let r := takePart recs s
        if r.1.length < recs.length then takeParts n r.1 r.2 else r

/-- A hand-off: whether it was taken, and the state after it is taken, dropped or made to wait (R119). -/
def handOff (by' : Producer) (recs : List JRecord) (s : State) : Bool × State :=
  if recs.isEmpty then (true, s)
  else if s.jrn.cond = .fault then (true, dropRecords recs s)
  else if !s.jrn.waiting.isEmpty then
    (false, setJrn (fun j => { j with waiting := j.waiting ++ [{ by' := by', recs := recs }] }) s)
  else
    let r := takeParts recs.length recs s
    if r.1.isEmpty then (true, r.2)
    else (false, setJrn (fun j => { j with waiting := j.waiting ++ [{ by' := by', recs := r.1 }] }) r.2)

/-- Waiting hand-offs are taken from the head of the list while the conditions allow, one perhaps in part (R119); with them
the producers of those taken to their last part, which go on. -/
def takeWaiting : Nat → State → List Producer × State
  | 0, s => ([], s)
  | n + 1, s =>
      match s.jrn.waiting with
      | [] => ([], s)
      | h :: rest =>
          let r := takeParts h.recs.length h.recs s
          if r.1.isEmpty then
            let more := takeWaiting n (setJrn (fun j => { j with waiting := rest }) r.2)
            (h.by' :: more.1, more.2)
          else ([], setJrn (fun j => { j with waiting := { h with recs := r.1 } :: rest }) r.2)

/-- Whether a hand-off of a producer waits. -/
def State.handOffWaits (s : State) (by' : Producer) : Bool := s.jrn.waiting.any fun h => decide (h.by' = by')

/-- Hand-offs of a producer that has left stay in the list without one (log entry 22). -/
def orphanHandOffs (by' : Producer) (s : State) : State :=
  setJrn (fun j => { j with waiting := j.waiting.map fun h => if h.by' = by' then { h with by' := Producer.none } else h }) s

end Sys2Proof.Machine
end

