-- ==== Sys2Proof/Machine/Records.lean ====
section
/-! DEFINITION. The life of a command record once it is admitted: its buffers, grants and deliveries, its cut, its
wind-down, its end and its leaving (R53, R57 to R59, R67 to R69, R76 to R79, R155). -/

namespace Sys2Proof.Machine

/-! ## Owners -/

/-- Whether an operation or request is a record's. -/
def Owner.ofCmd (c : CmdId) : Owner → Bool
  | .piece d _ => decide (d = c)
  | .flush d => decide (d = c)
  | _ => false

/-- Whether an operation or request is a record's FLUSH. -/
def Owner.ofFlush (c : CmdId) : Owner → Bool
  | .flush d => decide (d = c)
  | _ => false

/-- Whether a buffer claim is a record's. -/
def ClaimFor.ofCmd (c : CmdId) : ClaimFor → Bool
  | .piece d _ => decide (d = c)
  | _ => false

/-- Requests of host work that were never granted are withdrawn; retries stay (R65, R80). -/
def withdrawHost (gone : Owner → Bool) (s : State) : State :=
  { s with te := { s.te with
      hostAQ := s.te.hostAQ.filter fun r => !gone r.owner, hostBQ := s.te.hostBQ.filter fun r => !gone r.owner } }

/-! ## Leaving the Claim List (R53) -/

/-- Buffers a plan still holds. -/
def heldBuffers (plan : List Piece) : Nat := (plan.map (·.held)).sum

/-- The Map Unit is told that one counted record has gone (R53). -/
def countDown (s : State) : State :=
  { s with map := { s.map with activation := s.map.activation.map fun a => { a with remaining := a.remaining - 1 } } }

/-- A record is taken out of the lists that name it. -/
def removeRecord (c : CmdId) (s : State) : State :=
  { unplace (.cmd c) (unqueue c s) with
    adm := { (unplace (.cmd c) (unqueue c s)).adm with records := s.adm.records.filter fun r => decide (r.id ≠ c) },
    jrn := { s.jrn with waiters := s.jrn.waiters.filter fun d => decide (d ≠ c) } }

/-- A record is taken out of every list of dependants (R89). -/
def undepend (c : CmdId) : State → State :=
  setRelocs (List.map fun r => { r with dependants := r.dependants.filter fun d => decide (d.cmd ≠ c) })

/-- A deferred arrival is discarded (R40). -/
def dropDeferred (c : CmdId) (s : State) : State :=
  { s with adm := { s.adm with deferred := s.adm.deferred.filter fun a => decide (a.id ≠ c) } }

/-- A deferred arrival whose tag has no record any more becomes the tag's record (R40). -/
def lateCreation (c : CmdId) (s : State) : State :=
  match s.deferred? c with
  | some a => if (s.rec? c).isNone then arrive a (dropDeferred c s) else s
  | none => s

/-- Records of a port (R163). -/
def State.portRecords (s : State) (p : Port) : List CmdId :=
  (s.adm.records.filter fun r => decide (r.id.port = p)).map (·.id)

/-- RESET_DONE is sent: every tag of the port is FREE and the port is UP (R163). -/
def sendResetDone (p : Port) (s : State) : State :=
  (s.send p .resetDone).setHp p HostPortUnit.reset

/-- A port that is RESETTING sends RESET_DONE when no record of it remains (R163). -/
def resetDoneCheck (p : Port) (s : State) : State :=
  if (s.hp p).condition = .resetting ∧ (s.portRecords p).isEmpty = true then sendResetDone p s else s

/-- The slot of a SLOT piece. -/
def Piece.slot? (p : Piece) : Option Nat :=
  match p.kind with
  | .slot n => some n
  | _ => none

/-- The owner of a record's work once the record has left: a READ piece that was issued is a stray one, which runs to its end
and is not delivered (R77; log entry 21). -/
def Record.leftOwner (r : Record) (o : Owner) : Owner :=
  match o with
  | .piece c i =>
      if c = r.id then
        match r.plan[i]? with
        | some p => if r.op = .read then .stray p.slot? p.first else .gone
        | none => .gone
      else o
  | .flush c => if c = r.id then .gone else o
  | _ => o

/-- What a record holds or waits for goes when it leaves: its buffers, its claims, its requests that were never granted, its
place among dependants and the producer of its hand-offs; its issued operations and their retries run on without it (R53,
R67, R77). -/
def letGo (r : Record) (s : State) : State :=
  let t := release (.host r.id.port) (heldBuffers r.plan) (dropClaims (.host r.id.port) (ClaimFor.ofCmd r.id) s)
  orphanHandOffs (.piece r.id) (undepend r.id (disown r.leftOwner (withdrawHost (Owner.ofCmd r.id) t)))

/-- A record leaves the Claim List: its reservations are given up, a drain is told, whatever it still holds or waits for
goes, and its tag's record is freed for a deferred arrival, or its port answers RESET_DONE (R53, steps 1, 3 and 4; R67).
Queued relocations and held claims are taken by commands of their own (log entry 1). -/
def leave (c : CmdId) (s : State) : State :=
  match s.rec? c with
  | none => s
  | some r =>
      let s1 := giveUpAll c s
      let s2 := if r.counted then countDown s1 else s1
      resetDoneCheck c.port (lateCreation c (removeRecord c (letGo r s2)))

/-- A record ends: its STATUS is sent and it leaves in the same act (R53, R159). -/
def endRecord (c : CmdId) (res : Result) (done : Nat) (detail : Option Nat) (value : Nat) (s : State) : State :=
  leave c (sendStatus c res done detail value s)

/-! ## Buffers and grants (R67, R68) -/

/-- The first piece of a plan that still needs its buffers. -/
def nextPlanned (plan : List Piece) : Option Nat :=
  plan.findIdx? fun p => decide (p.state = .planned) && decide (p.kind ≠ .lost)

/-- The claim of the next piece is placed (R67). -/
def claimNext (c : CmdId) (s : State) : State :=
  match s.rec? c with
  | none => s
  | some r =>
      match nextPlanned r.plan with
      | none => s
      | some i => placeClaim (.host c.port) (.piece c i) ((r.plan[i]?.map (·.count)).getD 0) s

/-- The blocks the next GRANT carries; none when no GRANT is to be sent (R68). -/
def nextGrant (r : Record) (t : Tag) : Option Nat :=
  let more := claimedBlocks r.plan - t.granted
  if r.state = .active ∧ r.winding = false ∧ 0 < more ∧ t.granted - t.moved ≤ Config.grantWindow - Config.grantMax then
    some (Nat.min Config.grantMax more)
  else none

/-- GRANT frames are sent while R68 asks for them. -/
def sendGrants : Nat → CmdId → State → State
  | 0, _, s => s
  | n + 1, c, s =>
      match s.rec? c with
      | none => s
      | some r =>
          let t := s.tag c
          match nextGrant r t with
          | none => s
          | some k =>
              sendGrants n c ((s.send c.port (.grant c.tag k)).setTag c { t with granted := t.granted + k })

/-- At most 4 GRANT frames bring the blocks granted but not received to 64. -/
def grantRounds : Nat := Config.grantWindow / Config.grantMax

/-! ## Ends of a record (R74, R76, R77) -/

/-- Blocks done of a record that ends (R74, R77). -/
def Record.blocksDone (r : Record) (t : Tag) : Nat :=
  match r.op with
  | .read => t.moved
  | .write => leadingDone r.plan
  | _ => 0

/-- Whether a relocation names a record as a dependant (R59). -/
def State.isDependant (s : State) (c : CmdId) : Bool :=
  s.te.relocs.any fun r => r.dependants.any fun d => decide (d.cmd = c)

/-- Whether a piece is still to reach its outcome: ISSUED or HANDED, or READY, as an orphan's write is, or one issued anew to the
slot of a move (R78, R79, R89). A wind-down has withdrawn every other READY piece when this is asked. -/
def Piece.isUnended (p : Piece) : Bool := p.isPending || (decide (p.kind ≠ .lost) && decide (p.state = .ready))

/-- Whether target work or a hand-off of a record is still to end (R76, R78). -/
def State.workPending (s : State) (r : Record) : Bool :=
  r.plan.any Piece.isUnended || s.hasWork (Owner.ofFlush r.id) || s.handOffWaits (.piece r.id) || s.isDependant r.id

/-- The end of a WRITE whose target work has ended (R76). -/
def finishWrite (r : Record) (s : State) : State :=
  match r.latest with
  | none => endRecord r.id .ok r.count none 0 s
  | some id =>
      match s.jrn.fate? id with
      | some .durable => endRecord r.id .ok r.count none 0 s
      | some .dropped => endRecord r.id .journalFault r.count none 0 s
      | _ =>
          setJrn (fun j => { j with waiters := j.waiters ++ [r.id] })
            (mapRec r.id (fun x => { x with state := .journalWait }) s)

/-- A record ends when its work has ended: stopped, wound down, or a WRITE whose pieces are all DONE (R57, R76, R78). -/
def endCheck (c : CmdId) (s : State) : State :=
  match s.rec? c with
  | none => s
  | some r =>
      if s.workPending r then s
      else match r.state with
        | .stopping => endRecord c .stopped (r.blocksDone (s.tag c)) none 0 s
        | .active =>
            if r.winding then
              match r.result with
              | some x => endRecord c x.result (r.blocksDone (s.tag c)) x.block 0 s
              | none => s
            else if decide (r.op = .write) && !r.plan.isEmpty && r.plan.all fun p => decide (p.state = .done) then
              finishWrite r s
            else s
        | _ => s

/-- One buffer of the piece that covers a block is given back once the block has been sent (R67). -/
def releaseBlock (c : CmdId) (b : Nat) (s : State) : State :=
  match s.rec? c with
  | none => s
  | some r =>
      match r.plan.findIdx? fun p => decide (p.first ≤ b ∧ b < p.first + p.count) with
      | none => s
      | some i =>
          if ((r.plan[i]?).map (·.held)).getD 0 = 0 then s
          else release (.host c.port) 1 (mapPiece c i (fun p => { p with held := p.held - 1 }) s)

/-- Blocks that are ready are sent while an unused grant exists (R69). -/
def deliverBlocks : Nat → CmdId → State → State
  | 0, _, s => s
  | n + 1, c, s =>
      match s.rec? c with
      | none => s
      | some r =>
          let t := s.tag c
          if r.op = .read ∧ r.state = .active ∧ r.winding = false ∧ t.moved < t.granted then
            match r.readyBlock t.moved with
            | none => s
            | some blk =>
                deliverBlocks n c (releaseBlock c (r.first + t.moved)
                  ((s.send c.port (.data c.tag t.moved blk)).setTag c { t with moved := t.moved + 1, next := t.next + 1 }))
          else s

/-- A READ whose last block before the delivery end has been sent gets its STATUS in the same act (R69, R74, R77). -/
def deliveryCheck (c : CmdId) (s : State) : State :=
  match s.rec? c with
  | none => s
  | some r =>
      if r.op = .read ∧ r.state = .active ∧ r.winding = false ∧ (s.tag c).moved = r.deliveryEnd then
        match r.result with
        | some x => endRecord c x.result (s.tag c).moved x.block 0 s
        | none => endRecord c .ok (s.tag c).moved none 0 s
      else s

/-- Delivery of a READ (R69). -/
def deliver (c : CmdId) (s : State) : State := deliveryCheck c (deliverBlocks (s.tag c).granted c s)

/-! ## Withdrawal, cut, wind-down and orphaning (R77, R78, R79) -/

/-- Pieces of a record are withdrawn: their claims and requests are removed, and their buffers released. -/
def withdrawPieces (c : CmdId) (which : Piece → Bool) (s : State) : State :=
  match s.rec? c with
  | none => s
  | some r =>
      let hit : Nat → Bool := fun i => (r.plan[i]?).any which
      let claim : ClaimFor → Bool := fun x => match x with
        | .piece d i => decide (d = c) && hit i
        | _ => false
      let owner : Owner → Bool := fun x => match x with
        | .piece d i => decide (d = c) && hit i
        | _ => false
      release (.host c.port) (heldBuffers (r.plan.filter which)) (dropClaims (.host c.port) claim (withdrawHost owner
        (mapRec c (fun x => { x with plan := x.plan.map fun p => if which p then p.drop .withdrawn else p }) s)))

/-- The pending result after a failure at block `f`: the first cause, or a failure at a lower block (R77, R78). -/
def failResult (old : Option PendingResult) (res : Result) (f : Nat) : Option PendingResult :=
  match old with
  | none => some { result := res, block := some f }
  | some o =>
      match o.block with
      | some b => if f < b then some { result := res, block := some f } else some o
      | none => some o

/-- Some pieces of a record give back the buffers they hold and keep their state (R67). -/
def freePieces (c : CmdId) (which : Piece → Bool) (s : State) : State :=
  match s.rec? c with
  | none => s
  | some r =>
      release (.host c.port) (heldBuffers (r.plan.filter which))
        (mapRec c (fun x => { x with plan := x.plan.map fun p => if which p then p.drop p.state else p }) s)

/-- Pieces at or above a cut that are withdrawn (R77). -/
def Piece.cutDrops (f : Nat) (p : Piece) : Bool :=
  decide (p.kind ≠ .lost) && decide (f ≤ p.first) && (decide (p.state = .planned) || decide (p.state = .ready))

/-- Whether a piece's operation has ended. -/
def Piece.isOver (p : Piece) : Bool := decide (p.state = .done) || decide (p.state = .failed)

/-- Pieces beyond the end of delivery whose operation has ended (R67). -/
def Piece.beyondCut (f : Nat) (p : Piece) : Bool := decide (f ≤ p.first) && p.isOver

/-- A READ that is wound down or orphaned sends no further DATA: its pieces whose operation has ended lie beyond the end of
delivery, and give back what they hold (R67, R78, R79; log entry 48). -/
def freeEnded (c : CmdId) (s : State) : State :=
  if (s.rec? c).any fun r => decide (r.op = .read) then freePieces c Piece.isOver s else s

/-- A READ is cut at a block (R77): the pieces at or above it are withdrawn, or give back what they hold (R67). -/
def cutRead (c : CmdId) (res : Result) (f : Nat) (s : State) : State :=
  match s.rec? c with
  | none => s
  | some r =>
      if r.state = .orphaned ∨ (r.cut.any fun b => decide (b ≤ f)) then s
      else
        freePieces c (Piece.beyondCut f) (withdrawPieces c (Piece.cutDrops f)
          (mapRec c (fun x => { x with cut := some f, result := failResult x.result res f }) s))

/-- Pieces a wind-down withdraws (R78). -/
def Piece.unissued (p : Piece) : Bool :=
  decide (p.kind ≠ .lost) &&
    (decide (p.state = .planned) || decide (p.state = .filling) || decide (p.state = .ready))

/-- A wind-down starts (R78), by STOP or with its cause as pending result. The end check follows. -/
def windDown (c : CmdId) (stopped : Bool) (cause : Option PendingResult) (s : State) : State :=
  endCheck c (freeEnded c (withdrawPieces c Piece.unissued (withdrawHost (Owner.ofFlush c)
    (mapRec c (fun x => { x with
      winding := true,
      state := if stopped then .stopping else x.state,
      result := match x.result with | some o => some o | none => cause }) s))))

/-- A final failure of a WRITE piece at block `f` (R77). -/
def failWrite (c : CmdId) (res : Result) (f : Nat) (s : State) : State :=
  match s.rec? c with
  | none => s
  | some r =>
      if r.state = .orphaned then s
      else
        let t := mapRec c (fun x => { x with result := failResult x.result res f }) s
        if r.winding then endCheck c t else windDown c false none t

/-- Pieces an orphaning withdraws (R79). -/
def Piece.orphanDrops (op : HostOp) (p : Piece) : Bool :=
  decide (p.kind ≠ .lost) &&
    (decide (p.state = .planned) || decide (p.state = .filling) || (decide (op = .read) && decide (p.state = .ready)))

/-- A record becomes ORPHANED and stops all host traffic (R79). -/
def orphan (c : CmdId) (s : State) : State :=
  match s.rec? c with
  | none => s
  | some r =>
      freeEnded c (withdrawPieces c (Piece.orphanDrops r.op) (withdrawHost (Owner.ofFlush c)
        (mapRec c (fun x => { x with state := .orphaned, winding := false }) s)))

/-- Whether an ORPHANED record may leave (R59). -/
def State.orphanMayLeave (s : State) (r : Record) : Bool :=
  decide (r.state = .orphaned) && !r.plan.any Piece.isUnended && !s.hasWork (Owner.ofFlush r.id) && !s.isDependant r.id

/-- A record becomes ORPHANED, and leaves at once when nothing of it is left to end (R58, R59). -/
def orphanOrLeave (c : CmdId) (s : State) : State :=
  let t := orphan c s
  match t.rec? c with
  | none => t
  | some r => if t.orphanMayLeave r then leave c t else t

/-- What a port reset or a protocol error does to a record by its state (R58, R155). -/
def cutOff (c : CmdId) (s : State) : State :=
  match s.rec? c with
  | none => s
  | some r =>
      match r.state with
      | .active => orphanOrLeave c s
      | .stopping => orphanOrLeave c s
      | .orphaned => s
      | _ => leave c s

/-- A protocol error on an OPEN tag (R155). -/
def protocolError (c : CmdId) (s : State) : State :=
  let t := sendStatus c .protocol 0 none 0 s
  if (s.deferred? c).isSome then dropDeferred c t else cutOff c t

end Sys2Proof.Machine
end

