-- ==== Sys2Proof/Machine/Relocation.lean ====
section
/-! DEFINITION. Relocation (section 5.3, R52): requests, placement, joining, the copy, the writes and the three ends. -/

namespace Sys2Proof.Machine

/-! ## Requests, placement and joining (R52, R87, R88, R89) -/

/-- Relocation claims that stand (R52). -/
def State.relocClaims (s : State) : Nat := (s.te.relocs.filter fun r => decide (r.stage ≠ .queued)).length

/-- Whether a place of the admitted order is HELD (R49, R52). -/
def State.placeHeld (s : State) (x : Placed) : Bool :=
  match x.ref with
  | .cmd c => match s.rec? c with
    | some r => decide (r.state = .held)
    | none => false
  | _ => !x.granted

/-- Where a relocation claim is inserted: directly before the earliest HELD claim that overlaps its grain, or at the end
(R52). -/
def State.relocPosition (s : State) (g : Nat) : Nat :=
  match s.adm.order.findIdx? (fun x => s.placeHeld x && (match s.claimAt x.ref with
    | some c => rangesMeet c.first c.count (8 * g) 8
    | none => false)) with
  | some i => i
  | none => s.adm.order.length

/-- A relocation claim is placed: its dependants' blocks are borrowed, and the conflict rule decides whether it is granted
(R52). -/
def placeReloc (g : Nat) (s : State) : State :=
  let t := mapReloc g (fun r => { r with stage := .held }) s
  let i := t.relocPosition g
  let earlier := t.adm.order.take i
  setOrder (fun l => l.take i ++ { ref := .reloc g, granted := !t.conflictsWith earlier (.reloc g) } :: l.drop i) t

/-- With fewer than four relocation claims, the oldest queued request is placed (R52). -/
def placeQueued (s : State) : State :=
  if s.relocClaims < Config.relocClaims then
    match s.te.relocs.find? fun r => decide (r.stage = .queued) with
    | some r => placeReloc r.grain s
    | none => s
  else s

/-- A relocation request is made (R88): its claim is placed at once when fewer than four stand and none waits. -/
def requestReloc (g region : Nat) (cause : RelocCause) (deps : List Dependant) (lost : Mask) (retired : List Nat)
    (s : State) : State :=
  let r : Reloc :=
    { grain := g, region := region, cause := cause, dependants := deps, stage := .queued, oldSlot := none, newSlot := none,
      attempts := 0, copySet := 0, copied := 0, lost := lost, retired := retired, data := [], held := 0, claiming := false,
      issued := false, failed := false, cut := false }
  let room := decide (s.relocClaims < Config.relocClaims) && !(s.te.relocs.any fun x => decide (x.stage = .queued))
  let t := setRelocs (· ++ [r]) s
  if room then placeReloc g t else t

/-- The piece a dependant has handed. -/
def State.handedPiece (s : State) (d : Dependant) : Option Piece := (s.rec? d.cmd).bind fun r => r.plan[d.piece]?

/-- The blocks of a relocation's grain that a piece covers. -/
def pieceMask (g : Nat) (p : Piece) : Mask := grainPart g p.first p.count

/-- The blocks of the dependants' pieces. -/
def State.dependantMask (s : State) (r : Reloc) : Mask :=
  r.dependants.foldl (fun m d => match s.handedPiece d with
    | some p => m ||| pieceMask r.grain p
    | none => m) 0

/-- The source of block `i` of the grain: a dependant's buffer, else a copied block (R91). -/
def State.relocBlock (s : State) (r : Reloc) (i : Nat) : Option Block :=
  match r.dependants.findSome? fun d => (s.handedPiece d).bind fun p =>
      if inMask (pieceMask r.grain p) i then p.data[8 * r.grain + i - p.first]? else none with
  | some b => some b
  | none => if inMask r.copied i then (r.data.find? fun x => x.1 == i).map (·.2) else none

/-- Recovery-class WRITEs to the new slot, one for each maximal run of `m` (R91). -/
def relocWrites (g : Nat) (m : Mask) (s : State) : State :=
  match s.reloc? g with
  | none => s
  | some r =>
      match r.newSlot with
      | none => s
      | some n =>
          (maskRuns m).foldl (fun t run =>
            enqueue (newRequest .recovery (.relocWrite g run.1) .write (t.slotBase n + run.1) run.2 true
              ((List.range run.2).map fun k => (s.relocBlock r (run.1 + k)).getD [])) t) s

/-- Whether an owner is the relocation of a grain. -/
def Owner.ofReloc (g : Nat) : Owner → Bool
  | .relocRead h _ => decide (h = g)
  | .relocWrite h _ => decide (h = g)
  | _ => false

/-- A write piece joins an existing relocation (R89). In WRITING, one that joins before a write of the attempt has been issued
is carried into the attempt, whose writes that wait are requested anew (log entry 43); one that joins later is carried into a
further write of the same attempt, also while a cut waits for the operations in flight. Once a write of the attempt has ended
MEDIA_ERROR its slot is retired (R91) and takes no further write; R89 leaves this case open, and the model carries the joiner
into the next attempt, or into the relocation's end (DESIGN CHOICE, log entry 43). -/
def joinReloc (g : Nat) (d : Dependant) (s : State) : State :=
  let t := mapReloc g (fun r => { r with dependants := r.dependants ++ [d] }) s
  match t.reloc? g, t.handedPiece d with
  | some r, some p =>
      if r.stage = .writing ∧ r.failed = false then
        if r.issued then relocWrites g (pieceMask g p) t
        else relocWrites g (r.copied ||| t.dependantMask r) (withdrawRequests (Owner.ofReloc g) t)
      else t
  | _, _ => t

/-- A piece is put in the host class of its port, READY (R65, R71). -/
def issuePiece (c : CmdId) (i : Nat) (s : State) : State :=
  match (s.rec? c).bind fun r => r.plan[i]? with
  | none => s
  | some p =>
      match s.rec? c with
      | none => s
      | some r =>
          let write := decide (r.op = .write)
          let durable := match p.kind with
            | .slot _ => true
            | _ => r.durable
          enqueue (newRequest (.host c.port) (.piece c i) (if write then .write else .read) p.target p.count
              (write && durable) (if write then p.data else []))
            (mapPiece c i (fun p => { p with state := .ready }) s)

/-- Slots retired beside a relocation that is ending are told and recorded by themselves (R35, R118). -/
def retireAlone (region : Nat) (slots : List Nat) (s : State) : State :=
  match slots.getLast? with
  | none => s
  | some n =>
      let named := nameRecords (slots.map .retire) s
      (handOff .none named.1 (raise (.slotRetired n) (some region) named.2)).2

/-- A write piece is handed to its grain's relocation (R87, R89). After the move of a relocation that is ending it is issued
to the new slot, unless that slot is out of service too; after the other ends it stays HANDED until the relocation has left
(R89). `retired` are slots retired with it. -/
def handPiece (c : CmdId) (i : Nat) (retired : List Nat) (s : State) : State :=
  match s.rec? c with
  | none => s
  | some rec' =>
      match rec'.plan[i]? with
      | none => s
      | some p =>
          let g := grainOf p.first
          let region := match s.entry? g with
            | some e => e.region
            | none => (rec'.region.map (·.index)).getD 0
          let handed := mapPiece c i (fun p => { p with state := .handed }) s
          let redirect (n : Nat) : State :=
            issuePiece c i (mapPiece c i (fun p => { p with kind := .slot n, target := s.slotBase n + p.first % 8 }) s)
          match s.reloc? g with
          | some r =>
              match r.stage with
              | .ending .move =>
                  retireAlone region retired (match s.slotOf g with
                    | some n => if s.outOfService n then handed else redirect n
                    | none => handed)
              | .ending _ => retireAlone region retired handed
              | _ => mapReloc g (fun x => { x with retired := x.retired ++ retired }) (joinReloc g ⟨c, i⟩ handed)
          | none =>
              match s.slotOf g with
              | some n => if s.outOfService n then requestReloc g region .writeFault [⟨c, i⟩] 0 retired handed else redirect n
              | none => requestReloc g region .writeFault [⟨c, i⟩] 0 retired handed

/-- Whether a piece waits to be issued: it is READY, or ISSUED with a retry that waits (R65, R84). -/
def State.waitsToIssue (s : State) (c : CmdId) (i : Nat) (p : Piece) : Bool :=
  decide (p.state = .ready) || (decide (p.state = .issued) && !s.inFlight fun o => decide (o = .piece c i))

/-- The write pieces that wait to be issued to a slot, by the age of their records and in the order of each plan (log entry
49). -/
def State.readyOn (s : State) (slot : Nat) : List (CmdId × Nat) :=
  s.adm.records.flatMap fun r =>
    if r.op = .write then
      (List.range r.plan.length).filterMap fun i => match r.plan[i]? with
        | some p => if decide (p.kind = .slot slot) && s.waitsToIssue r.id i p then some (r.id, i) else none
        | none => none
    else []

/-- Write pieces that wait to be issued to a slot taken out of service are handed, and their requests and retries withdrawn
(R32, R87; log entry 11). -/
def handReady (slot : Nat) (s : State) : State :=
  (s.readyOn slot).foldl (fun t x =>
    handPiece x.1 x.2 [] (withdrawRequests (fun o => decide (o = .piece x.1 x.2)) t)) s

/-- The same for each of some slots. -/
def handReadyAll (slots : List Nat) (s : State) : State := slots.foldl (fun t n => handReady n t) s

/-- A host write met a media failure: its slot is condemned when BOUND to the grain, and retired at once when RESERVED for it
(R87). The retired slot goes on the relocation's retired list (log entry 12). -/
def takeOutOfService (g slot : Nat) (s : State) : List Nat × State :=
  if s.slotOf g = some slot then
    ([], { s with ov := { s.ov with condemned := if s.ov.condemned.contains slot then s.ov.condemned else s.ov.condemned ++ [slot] } })
  else if s.servesGrain g slot then ([slot], retire slot (endReservation g s))
  else ([], s)

/-! ## The copy (R90) -/

/-- Recovery-class READs from the old slot, one for each maximal run of `m` (R90). -/
def relocReads (g : Nat) (m : Mask) (s : State) : State :=
  match s.reloc? g with
  | none => s
  | some r =>
      match r.oldSlot with
      | none => s
      | some n =>
          (maskRuns m).foldl (fun t run =>
            enqueue (newRequest .recovery (.relocRead g run.1) .read (t.slotBase n + run.1) run.2 false []) t) s

/-! ## The ends (R92, R93, R94, R95) -/

/-- Every dependant's piece gets its end; its buffers are released (R92, R93, R94). -/
def endPieces (deps : List Dependant) (st : PieceState) (latest : Option Nat) (s : State) : State :=
  deps.foldl (fun t d =>
    match t.handedPiece d with
    | none => t
    | some p =>
        let t1 := release (.host d.cmd.port) p.held (mapPiece d.cmd d.piece (fun q => q.drop st) t)
        match latest with
        | some id => mapRec d.cmd (fun x => { x with latest := some id }) t1
        | none => t1) s

/-- Dependants' records are wound down with the failure, at the first block of their piece (R93, R94, R77). -/
def failDependants (deps : List Dependant) (res : Result) (s : State) : State :=
  deps.foldl (fun t d =>
    match t.handedPiece d with
    | none => t
    | some p => failWrite d.cmd res p.first t) s

/-- The notices of a relocation's end, in the order R95 lists them (log entry 53), raised before the journal records are taken
and a STATUS is sent. -/
def relocNotices (region grain : Nat) (retired : List Nat) (anyLost : Bool) (s : State) : State :=
  let t := match retired.getLast? with
    | some n => raise (.slotRetired n) (some region) s
    | none => s
  if anyLost then raise (.blocksLost grain) (some region) t else t

/-- Buffers and the buffer claim of a relocation go, and its requests (R92, R93; log entry 10). -/
def clearReloc (r : Reloc) (s : State) : State :=
  mapReloc r.grain (fun x => { x with held := 0, claiming := false, data := [] })
    (release .internal r.held (dropClaims .internal (fun w => decide (w = .reloc r.grain))
      (withdrawRequests (Owner.ofReloc r.grain) s)))

/-- The write pieces on a grain that are HANDED to no relocation, by the age of their records and in the order of each plan (log
entry 49). -/
def State.strandedOn (s : State) (g : Nat) : List (CmdId × Nat) :=
  s.adm.records.flatMap fun r =>
    (List.range r.plan.length).filterMap fun i => match r.plan[i]? with
      | some p => if p.state = .handed ∧ grainOf p.first = g then some (r.id, i) else none
      | none => none

/-- The claim of a relocation in ENDING leaves: the borrowed blocks return and the oldest queued request is placed, before any
re-examination; dependants whose work has ended end, and pieces that waited HANDED for the end make a new request (R52, R53,
R88, R89, R95). Their orders are log entry 49. -/
def relocLeave (g : Nat) (s : State) : State :=
  match s.reloc? g with
  | none => s
  | some r =>
      match r.stage with
      | .ending _ =>
          let t := placeQueued (unplace (.reloc g) (setRelocs (List.filter fun x => decide (x.grain ≠ g)) s))
          let u := r.dependants.foldl (fun v d => endCheck d.cmd v) t
          (u.strandedOn g).foldl (fun v x => handPiece x.1 x.2 [] v) u
      | _ => s

/-- The journal records of an end are handed on, and the claim leaves when they are taken (R95). -/
def relocHand (g : Nat) (recs : List JRecord) (s : State) : State :=
  let h := handOff (.reloc g) recs s
  if h.1 then relocLeave g h.2 else h.2

/-- The records of an end: an ENTRY record for a KEEP entry, then the RETIRE records in order. -/
def State.endRecords (s : State) (g : Nat) (withEntry : Bool) (retired : List Nat) : List RecordBody :=
  (match s.entry? g with
   | some e => if withEntry && s.journaled e.region then [e.record] else []
   | none => []) ++ retired.map .retire

/-- The move (R92). A block that was copied is present and not lost, also when the relocation's lost set holds it (log entry
39). -/
def relocMove (r : Reloc) (n : Nat) (s : State) : State :=
  let written := s.dependantMask r
  let present := r.copied ||| written
  let old := s.entry? r.grain
  let region := (old.map (·.region)).getD r.region
  let oldSlot := old.bind (·.slot)
  let retired := r.retired ++ oldSlot.toList
  let e : Entry := { grain := r.grain, region := region, slot := some n, present := present,
                     lost := maskLess (((old.map (·.lost)).getD 0) ||| r.lost) present, state := .resident }
  let s1 := (oldSlot.toList).foldl (fun t m => retire m t) (putEntry e s)
  let s2 := mapReloc r.grain (fun x => { x with stage := .ending .move, newSlot := none, retired := retired }) (clearReloc r s1)
  let named := nameRecords (s2.endRecords r.grain true retired) s2
  let latest := if s2.journaled region then named.1.head?.map (·.id) else none
  relocHand r.grain named.1 (handReadyAll oldSlot.toList (relocNotices region r.grain retired (decide (r.lost ≠ 0))
    (endPieces r.dependants .done latest named.2)))

/-- The lost end (R93). -/
def relocLost (r : Reloc) (s : State) : State :=
  let old := s.entry? r.grain
  let region := (old.map (·.region)).getD r.region
  let oldSlot := old.bind (·.slot)
  let lost := ((old.map fun e => e.present ||| e.lost).getD 0) ||| s.dependantMask r ||| r.lost
  let retired := r.retired ++ oldSlot.toList
  let e : Entry := { grain := r.grain, region := region, slot := none, present := 0, lost := lost, state := .resident }
  let s0 := if lost = 0 then s else putEntry e s
  let s1 := joinAll r.newSlot.toList ((oldSlot.toList).foldl (fun t m => retire m t) s0)
  let s2 := mapReloc r.grain (fun x => { x with stage := .ending .lost, newSlot := none, retired := retired }) (clearReloc r s1)
  let named := nameRecords (s2.endRecords r.grain true retired) s2
  relocHand r.grain named.1 (handReadyAll oldSlot.toList (failDependants r.dependants .lostData
    (endPieces r.dependants .failed none (relocNotices region r.grain retired (decide (lost ≠ 0)) named.2))))

/-- The cut (R94). -/
def relocCut (r : Reloc) (s : State) : State :=
  let m := markLost r.grain (maskLess r.copySet r.copied) s
  let retired := r.retired ++ m.1.2.toList
  let region := ((s.entry? r.grain).map (·.region)).getD r.region
  let s1 := joinAll r.newSlot.toList (setEntryState r.grain .resident m.2)
  let s2 := mapReloc r.grain (fun x => { x with stage := .ending .cut, newSlot := none, retired := retired }) (clearReloc r s1)
  let named := nameRecords (s2.endRecords r.grain (decide (m.1.1 ≠ 0)) retired) s2
  relocHand r.grain named.1 (handReadyAll m.1.2.toList (failDependants r.dependants .targetFault
    (endPieces r.dependants .failed none
      (relocNotices region r.grain retired (decide (r.lost ||| m.1.1 ≠ 0)) named.2))))

/-! ## Stages (R90, R91) -/

/-- WRITING starts an attempt: every block with a source is written (R91); with none, which only a relocation of cause
READ_FAULT without dependants meets, the relocation ends in the lost way (R93). -/
def startAttempt (g : Nat) (s : State) : State :=
  match s.reloc? g with
  | none => s
  | some r =>
      let m := r.copied ||| s.dependantMask r
      let t := mapReloc g (fun x => { x with stage := .writing }) s
      if m = 0 then relocLost r t else relocWrites g m t

/-- A slot is allocated for an attempt: the head of the ring; none when the ring is empty (R34, R90, R91). -/
def allocate (g : Nat) (s : State) : Option State :=
  match s.ov.ring.head? with
  | none => none
  | some n =>
      some (takeRing 1 (mapReloc g (fun x =>
        { x with newSlot := some n, attempts := x.attempts + 1, issued := false, failed := false }) s))

/-- The end of an attempt whose operations have all ended (R91). A slot is bound only to present blocks (R21). -/
def endAttempt (r : Reloc) (s : State) : State :=
  if r.failed then
    if r.attempts < Config.relocAttempts then
      match allocate r.grain s with
      | some t => startAttempt r.grain t
      | none => relocLost r s
    else relocLost r s
  else match r.newSlot with
    | some n => if r.copied ||| s.dependantMask r = 0 then relocLost r s else relocMove r n s
    | none => s

/-- A relocation goes on when its operations allow: a cut is taken, the copy ends, or an attempt ends (R90, R91, R94). -/
def relocAdvance (g : Nat) (s : State) : State :=
  match s.reloc? g with
  | none => s
  | some r =>
      if r.stage ≠ .copying ∧ r.stage ≠ .writing then s
      else if r.cut then
        if s.inFlight (Owner.ofReloc g) then s else relocCut r s
      else if s.hasWork (Owner.ofReloc g) || r.claiming then s
      else if r.stage = .copying then startAttempt g s
      else endAttempt r s

/-- The claim is granted (R90). The grain's entry, if it has one, becomes MOVING, a lost-only entry too (R22, R88; log
entry 35). -/
def relocBegin (g : Nat) (s : State) : State :=
  match s.reloc? g with
  | none => s
  | some r =>
      let old := s.slotOf g
      let present := match s.entry? g with
        | some e => if e.slot.isSome then e.present else 0
        | none => 0
      let copy := maskLess present (s.dependantMask r)
      let n := (maskList copy).length
      let s1 := mapReloc g (fun x => { x with stage := .copying, oldSlot := old, copySet := copy, claiming := decide (0 < n) })
        (setEntryState g .moving s)
      match allocate g s1 with
      | none => match s1.reloc? g with
        | some r1 => relocLost r1 s1
        | none => s1
      | some t => relocAdvance g (if 0 < n then placeClaim .internal (.reloc g) n t else t)

/-- The blocks of an operation's run, from `off` on, with their places in the grain. -/
def placedBlocks (off : Nat) (blocks : List Block) : List (Nat × Block) := blocks.zipIdx.map fun x => (off + x.2, x.1)

/-- A copy read ends (R90). -/
def relocReadEnd (g off count : Nat) (got : List Block) (out : TOutcome) (s : State) : State :=
  let addCopied (m : Mask) (bs : List Block) (r : Reloc) : Reloc :=
    { r with copied := r.copied ||| m, data := r.data ++ placedBlocks off bs }
  relocAdvance g (match out with
    | .ok => mapReloc g (addCopied (maskRun off count) got) s
    | .media k =>
        let n := Nat.min k got.length
        let t := mapReloc g (fun r =>
          let r1 := addCopied (maskRun off n) (got.take n) r
          { r1 with lost := r1.lost ||| maskRun (off + n) (k + 1 - n) }) s
        if k + 1 < count then relocReads g (maskRun (off + k + 1) (count - (k + 1))) t else t
    | .fault => mapReloc g (fun r => { r with lost := r.lost ||| maskLess (maskRun off count) r.copied }) s
    | _ => mapReloc g (fun r => { r with cut := true }) s)

/-- A write of the attempt ends (R91). -/
def relocWriteEnd (g : Nat) (out : TOutcome) (s : State) : State :=
  relocAdvance g (match out with
    | .ok => s
    | .media _ =>
        match (s.reloc? g).bind (·.newSlot) with
        | some n => retire n (mapReloc g (fun r => { r with newSlot := none, failed := true, retired := r.retired ++ [n] }) s)
        | none => mapReloc g (fun r => { r with failed := true }) s
    | _ => mapReloc g (fun r => { r with cut := true }) s)

/-- The relocation of a grain whose slot read failed at the block of `m` (R86, R89): the block joins the lost set of the one
that exists, whether or not the marking has emptied the present mask; with none, a request of cause READ_FAULT is made while
the entry has a slot. -/
def readFaultReloc (g region : Nat) (m : Mask) (s : State) : State :=
  match s.reloc? g with
  | some _ => mapReloc g (fun r => { r with lost := r.lost ||| m }) s
  | none => if (s.slotOf g).isSome then requestReloc g region .readFault [] m [] s else s

end Sys2Proof.Machine
end

