-- ==== Sys2Proof/Machine/MergeDiscard.lean ====
section
/-! DEFINITION. Merge and discard (chapter 6): the walk, the grain, its end, the run's end, and the discard's removal. -/

namespace Sys2Proof.Machine

/-- The Merge Unit is changed. -/
def setMrg (f : MergeUnit → MergeUnit) (s : State) : State := { s with mrg := f s.mrg }

/-- The merge grain, if any, is changed. -/
def mapGrain (f : MergeGrain → MergeGrain) (s : State) : State :=
  setMrg (fun m => { m with grain := m.grain.map f }) s

/-- Whether an owner is the merge run. -/
def Owner.ofMerge : Owner → Bool
  | .mergeRead _ => true
  | .mergeWrite _ => true
  | _ => false

/-! ## The run's end (R111) -/

/-- Entries left: those whose region is selected, lost-only entries included (R111). -/
def State.entriesLeft (s : State) : Nat := (s.ov.table.filter fun e => s.mrg.selection.contains e.region).length

/-- The region of a run's notices: the selected index, or absent for ALL. -/
def MergeUnit.noticeRegion (m : MergeUnit) : Option Nat := if m.all then none else m.selection.head?

/-- A run ends, normally or with a cause; its notice is raised, and HALT_MERGE requests that wait are answered (R110,
R111). -/
def mergeEnd (cause : Option MergeCause) (s : State) : State :=
  let left := s.entriesLeft
  let halts := s.mrg.haltOwed
  let body := match cause with
    | none => NoticeBody.mergeDone s.mrg.merged left
    | some c => NoticeBody.mergeStopped c s.mrg.cursor
  let t := setMrg (fun m => { m with state := .none, grain := none, cause := cause, left := left, haltOwed := [] }) s
  halts.foldl (fun u p => answerPlain (some p) .doneOk u) (raise body s.mrg.noticeRegion t)

/-! ## The walk (R104, R105, R112) -/

/-- The entry of lowest grain at or above the cursor whose region is selected and which has a slot (R104). -/
def State.mergeNext (s : State) : Option Entry :=
  s.ov.table.find? fun e => decide (s.mrg.cursor ≤ e.grain) && s.mrg.selection.contains e.region && e.slot.isSome

/-- A grain claim that waits. -/
def MergeGrain.waitingClaim (e : Entry) : MergeGrain :=
  { stage := .waiting, region := e.region, slot := 0, copySet := 0, readSet := 0, data := [], mediaMet := false,
    lostTold := false, held := 0, claiming := false }

/-- A search (R104). -/
def mergeSearch (s : State) : State :=
  if s.mrg.state = .halting then mergeEnd (some .halted) s
  else match s.mergeNext with
    | none => mergeEnd none s
    | some e =>
        let t := setMrg (fun m => { m with cursor := e.grain }) s
        if s.journaled e.region && decide (s.jrn.cond = .fault) then mergeEnd (some .journalFault) t
        else placeAtEnd (.merge e.grain) (setMrg (fun m => { m with grain := some (MergeGrain.waitingClaim e) }) t)

/-- The grain claim ends, the cursor moves to the next grain, and a search follows (R105, R106, R108). -/
def mergeNextGrain (s : State) : State :=
  mergeSearch (setMrg (fun m => { m with grain := none, cursor := m.cursor + 1 }) (unplace (.merge s.mrg.cursor) s))

/-- The grain claim ends and the run with it. -/
def mergeEndHere (cause : MergeCause) (s : State) : State :=
  mergeEnd (some cause) (unplace (.merge s.mrg.cursor) s)

/-- Slot reads of the merge, one for each maximal run of `m` (R105, R106). -/
def mergeReads (slot : Nat) (m : Mask) (s : State) : State :=
  (maskRuns m).foldl (fun t run =>
    enqueue (newRequest .background (.mergeRead run.1) .read (t.slotBase slot + run.1) run.2 false []) t) s

/-- Base writes of the merge, one for each maximal run of the read blocks, each durable (R106). -/
def mergeWrites (mg : MergeGrain) (s : State) : State :=
  (maskRuns mg.readSet).foldl (fun t run =>
    enqueue (newRequest .background (.mergeWrite run.1) .write
      ((s.map.active.region mg.region).base (8 * s.mrg.cursor + run.1)) run.2 true
      ((List.range run.2).map fun k => ((mg.data.find? fun x => x.1 == run.1 + k).map (·.2)).getD [])) t) s

/-- The grant of the grain claim is taken (R105). -/
def mergeTake (s : State) : State :=
  match s.entry? s.mrg.cursor with
  | none => mergeNextGrain s
  | some e =>
      match e.slot with
      | none => mergeNextGrain s
      | some slot =>
          if s.journaled e.region && decide (s.jrn.cond = .fault) then mergeEndHere .journalFault s
          else if s.mrg.state = .halting then mergeEndHere .halted s
          else
            placeClaim .internal .merge (maskList e.present).length
              (mapGrain (fun mg => { mg with stage := .reading, region := e.region, slot := slot, copySet := e.present,
                                             claiming := true })
                (setEntryState e.grain .merging s))

/-! ## The grain (R106 to R108, R111) -/

/-- The grain's buffers, its waiting claim, its waiting requests and its retries that wait for their interval go (R111; log
entry 10). -/
def clearGrain (mg : MergeGrain) (s : State) : State :=
  mapGrain (fun x => { x with held := 0, claiming := false, data := [] })
    (release .internal mg.held (dropClaims .internal (fun w => decide (w = .merge)) (withdrawRequests Owner.ofMerge s)))

/-- A stop cause is set, unless one is set already (R107). -/
def setCause (c : MergeCause) (s : State) : State :=
  setMrg (fun m => if m.grain.isSome && m.cause.isNone then { m with cause := some c } else m) s

/-- A stop is taken: the grain ends without its update (R111). Records of its lost markings that wait at the Journal Unit
wait on without it, so that no later grain waits for them (log entry 22). -/
def mergeStop (mg : MergeGrain) (cause : MergeCause) (s : State) : State :=
  mergeEndHere cause (setEntryState s.mrg.cursor .resident (orphanHandOffs .merge (clearGrain mg s)))

/-- ENDING: the grain ends once the Journal Unit has taken its records (R106, R108). -/
def mergeEnding (s : State) : State :=
  if s.handOffWaits .merge then s else mergeNextGrain s

/-- The update at the end of a grain whose base writes are all OK (R108). An entry without a slot has nothing to update; its
merge ends all the same, and it is RESIDENT again (R22). The count of grains merged goes on past 16,384 (DESIGN CHOICE, log entry
55). -/
def mergeGrainEnd (mg : MergeGrain) (s : State) : State :=
  let g := s.mrg.cursor
  match s.entry? g, s.slotOf g with
  | some e, some slot =>
      let keep := s.journaled mg.region
      let e' : Entry := { e with slot := none, present := 0, state := .resident }
      let s1 := if e.lost = 0 then removeEntry g s else putEntry e' s
      let bad := s.ov.condemned.contains slot || mg.mediaMet
      let bodies := (if keep then [if e.lost = 0 then RecordBody.remove g else e'.record] else []) ++
        (if bad then [RecordBody.retire slot] else [])
      let named := nameRecords bodies s1
      let s2 :=
        if bad then raise (.slotRetired slot) (some mg.region) (retire slot named.2)
        else releaseSlot slot (if keep then named.1.head?.map (·.id) else none) named.2
      let s3 := setMrg (fun m => { m with merged := m.merged + 1 })
        (mapGrain (fun x => { x with stage := .ending }) (clearGrain mg s2))
      mergeEnding (handOff .merge named.1 s3).2
  | _, _ => mergeNextGrain (setEntryState g .resident (clearGrain mg s))

/-- The grain goes on when its operations allow (R106, R107, R111). -/
def mergeAdvance (s : State) : State :=
  match s.mrg.grain with
  | none => s
  | some mg =>
      match s.mrg.cause with
      | some c => if s.inFlight Owner.ofMerge then s else mergeStop mg c s
      | none =>
          if s.hasWork Owner.ofMerge || mg.claiming then s
          else match mg.stage with
            | .reading =>
                if mg.readSet = 0 then
                  mergeEnding (setEntryState s.mrg.cursor .resident
                    (mapGrain (fun x => { x with stage := .ending }) (clearGrain mg s)))
                else mergeWrites mg (mapGrain (fun x => { x with stage := .writing }) s)
            | .writing => mergeGrainEnd mg s
            | _ => s

/-- The lost marking of a merge read (R106). When it retires the copy slot, BLOCKS_LOST is raised before SLOT_RETIRED; the spec
gives the two no order (DESIGN CHOICE, log entry 53). -/
def mergeLost (m : Mask) (s : State) : State :=
  match s.mrg.grain with
  | none => s
  | some mg =>
      let g := s.mrg.cursor
      let mark := markLost g m s
      if mark.1.1 = 0 then s else
      let s1 := if mg.lostTold then mark.2 else raise (.blocksLost g) (some mg.region) mark.2
      let s2 := match mark.1.2 with
        | some n => raise (.slotRetired n) (some mg.region) s1
        | none => s1
      let named := nameRecords (lostRecords g mark.1 s2) s2
      (handOff .merge named.1 (mapGrain (fun x => { x with lostTold := true }) named.2)).2

/-- A slot read of the merge ends (R106). -/
def mergeReadEnd (off count : Nat) (got : List Block) (out : TOutcome) (s : State) : State :=
  let addRead (n : Nat) : State → State :=
    mapGrain fun x => { x with readSet := x.readSet ||| maskRun off n, data := x.data ++ placedBlocks off (got.take n) }
  mergeAdvance (match out with
    | .ok => addRead count s
    | .media k =>
        let n := Nat.min k got.length
        let t := mergeLost (maskRun (off + n) (k + 1 - n)) (mapGrain (fun x => { x with mediaMet := true }) (addRead n s))
        if k + 1 < count then
          mergeReads (((s.mrg.grain).map (·.slot)).getD 0) (maskRun (off + k + 1) (count - (k + 1))) t
        else t
    | _ => setCause .targetFault s)

/-- A base write of the merge ends (R107). -/
def mergeWriteEnd (out : TOutcome) (s : State) : State :=
  mergeAdvance (match out with
    | .ok => s
    | .reset => setCause .targetFault s
    | .down => setCause .targetFault s
    | _ => setCause .baseFault s)

/-! ## Discard (R113 to R115) -/

/-- The discard is answered and ceases to exist (R115). -/
def discardAnswer (s : State) : State :=
  match s.mrg.discard with
  | none => s
  | some d => answer d.owed .doneOk 0 0 d.removed 0 [] (setMrg (fun m => { m with discard := none }) s)

/-- Whether a place of the admitted order is a discard claim. -/
def Placed.isDiscard (x : Placed) : Bool :=
  match x.ref with
  | .discard _ _ _ => true
  | _ => false

/-- The discard's claim is placed, unless the claim of an earlier one still stands (R51, R113; log entry 26). -/
def discardPlace (s : State) : State :=
  match s.mrg.discard with
  | none => s
  | some d =>
      if s.adm.order.any Placed.isDiscard then s
      else
        let r := s.map.active.region d.region
        placeAtEnd (.discard d.region r.first r.count)
          (setMrg (fun m => { m with discard := some { d with placed := true } }) s)

/-- The discard claim ends: its records have been taken (R114, R115). The discard it belonged to may have been answered
before, and a later one may wait for its place (log entry 26). -/
def discardTaken (s : State) : State :=
  let t := setOrder (List.filter fun x => !x.isDiscard) s
  match t.mrg.discard with
  | none => t
  | some d =>
      if d.placed = false then discardPlace t
      else match d.record with
        | none => discardAnswer t
        | some id => if t.jrn.fate? id = some .dropped then discardAnswer t else t

/-- The slots of a region's entries, in ascending grain order. -/
def State.regionSlots (s : State) (region : Nat) : List Nat :=
  (s.ov.table.filter fun e => decide (e.region = region)).filterMap (·.slot)

/-- The grant of the discard claim is taken: every entry of the region goes (R114). -/
def discardTake (d : Discard) (s : State) : State :=
  let keep := s.journaled d.region
  let slots := s.regionSlots d.region
  let bad := slots.filter fun n => s.ov.condemned.contains n
  let bodies := (if keep then [RecordBody.discard d.region] else []) ++ bad.map .retire
  let named := nameRecords bodies s
  let record := if keep then named.1.head?.map (·.id) else none
  let t := named.2
  let s1 : State := { t with
    ov := { t.ov with table := t.ov.table.filter fun e => decide (e.region ≠ d.region) },
    map := { t.map with unavailable := t.map.unavailable.set d.region false },
    mrg := { t.mrg with discard := some { d with record := record, removed := s.entryCount d.region } } }
  let s2 := slots.foldl (fun u n =>
    if bad.contains n then raise (.slotRetired n) (some d.region) (retire n u) else releaseSlot n record u) s1
  let h := handOff .discard named.1 s2
  if h.1 then discardTaken h.2 else h.2

end Sys2Proof.Machine
end

