-- ==== Sys2Proof/Machine/Checkpoint.lean ====
section
/-! DEFINITION. Durability and checkpoints: what a producer does once its records are taken, the ends of journal block
and checkpoint writes, the entry into FAULT and its clearing (R121, R126 to R132). -/

namespace Sys2Proof.Machine

/-! ## Producers (R119) -/

/-- What a producer does once its hand-off has been taken: a WRITE is tested for its end, a relocation leaves, a merge
grain in ENDING ends, a discard's claim ends (R75, R95, R108, R114). -/
def produced (by' : Producer) (s : State) : State :=
  match by' with
  | .piece c => endCheck c s
  | .reloc g => relocLeave g s
  | .merge => if (s.mrg.grain.map (·.stage)) = some .ending then mergeEnding s else s
  | .discard => discardTaken s
  | .none => s

/-! ## FAULT (R130) -/

/-- Under FAULT the waiting hand-offs are taken in list order and their records dropped (R130). -/
def dropWaiting : Nat → State → State
  | 0, s => s
  | n + 1, s =>
      match s.jrn.waiting with
      | [] => s
      | h :: rest => dropWaiting n (produced h.by' (dropRecords h.recs (setJrn (fun j => { j with waiting := rest }) s)))

/-- The records in JOURNAL_WAIT whose latest record satisfies a test, in the order they entered it. -/
def State.waitersOn (s : State) (test : Nat → Bool) : List Record :=
  s.jrn.waiters.filterMap fun c => (s.rec? c).bind fun r =>
    match r.latest with
    | some id => if test id then some r else none
    | none => none

/-- Entry into FAULT, or a failure met while the condition is FAULT already: `failed` are the records of a failed journal
block (R121, R128, R130). -/
def enterFault (notice : NoticeBody) (failed : List JRecord) (s : State) : State :=
  let lostIds := failed.map (·.id) ++ s.jrn.openBuf.map (·.id)
  let s1 := setJrn (fun j => setFates lostIds .dropped { j with cond := .fault, openBuf := [] }) (raise notice none s)
  let s2 := (s1.waitersOn fun id => lostIds.contains id).foldl
    (fun t r => endRecord r.id .journalFault r.count none 0 t) s1
  let s3 := match s2.mrg.discard with
    | some d => if d.record.any fun id => lostIds.contains id then discardAnswer s2 else s2
    | none => s2
  markMissed (dropWaiting s3.jrn.waiting.length s3)

/-! ## Taking hand-offs and closing blocks (R119, R120, R127) -/

/-- Producers whose hand-offs have been taken go on, in the order of the taking. -/
def tellProducers (ps : List Producer) (s : State) : State := ps.foldl (fun t p => produced p t) s

/-- As many waiting hand-offs as the conditions allow are taken, or, under FAULT, all are taken and dropped (R119, R130). -/
def takeHandOffs (s : State) : State :=
  if s.jrn.cond = .fault then dropWaiting s.jrn.waiting.length s
  else
    let r := takeWaiting s.jrn.waiting.length s
    tellProducers r.1 r.2

/-- The open buffer is closed, and waiting hand-offs are taken into the new one in the same act (R120). -/
def closeAndTake (s : State) : State := takeHandOffs (closeBlock s)

/-- The closing conditions are tested (R120). -/
def closeTest (s : State) : State := if s.canClose then closeAndTake s else s

/-- The live count has fallen: the closing conditions are tested, waiting hand-offs are taken, and the conditions are tested
once more on what they brought (R119, R120, R127). -/
def journalGoesOn (s : State) : State := closeTest (if s.canClose then closeAndTake s else takeHandOffs s)

/-! ## Journal blocks (R121) -/

/-- The write of the in-flight block has its final outcome (R121). Once it is durable the closing conditions are tested. -/
def journalBlockEnd (out : TOutcome) (s : State) : State :=
  match s.jrn.inFlight with
  | none => s
  | some b =>
      let ids := b.recs.map (·.id)
      if out = .ok then
        let s1 := setJrn (fun j => setFates ids .durable { j with inFlight := none }) s
        let s2 := (s1.waitersOn fun id => ids.contains id).foldl
          (fun t r => endRecord r.id (if r.stopNoted then .stopped else .ok) r.count none 0 t) s1
        let s3 := freePending (fun id => ids.contains id) s2
        closeTest (match s3.mrg.discard with
          | some d => if d.record.any fun id => ids.contains id then discardAnswer s3 else s3
          | none => s3)
      else enterFault (.journalFaultBlock b.seq) b.recs (setJrn (fun j => { j with inFlight := none }) s)

/-! ## Checkpoint runs (R126 to R128, R132) -/

/-- Whether an owner is a checkpoint run. -/
def Owner.ofRun (serial : Nat) : Owner → Bool
  | .ckBody n => decide (n = serial)
  | .ckHeader n => decide (n = serial)
  | _ => false

/-- Body blocks of a run that were never issued: their requests still wait in the background queue. -/
def State.unissuedBodies (s : State) (serial : Nat) : Nat :=
  (s.te.backQ.filter fun r => Owner.ofRun serial r.owner).length

/-- Body blocks of a run that were never issued are withdrawn; its retries stay ISSUED and are not touched (R84, R128). -/
def withdrawBodies (serial : Nat) (s : State) : State :=
  { s with te := { s.te with backQ := s.te.backQ.filter fun r => !Owner.ofRun serial r.owner } }

/-- A run is removed: its claims and the blocks it has not issued are withdrawn, and their buffers released; writes that were
issued run to their end (R126, R128). -/
def removeRun (r : CkRun) (s : State) : State :=
  setJrn (fun j => { j with run := none })
    (dropClaims .internal (fun w => decide (w = .ckBody r.serial) || decide (w = .ckHeader r.serial))
      (release .internal (s.unissuedBodies r.serial) (withdrawBodies r.serial s)))

/-- The port a run owes its response to. -/
def CkRun.owes (r : CkRun) : Option Port := r.owed

/-- A run fails (R128). -/
def runFails (r : CkRun) (s : State) : State :=
  answerPlain r.owes .journalFault (enterFault (.journalFaultCheckpoint r.area) [] (removeRun r s))

/-- The response DONE_OK of a run that completed (R127, R172). -/
def runAnswer (r : CkRun) (s : State) : State :=
  answer r.owes .doneOk r.start r.gen r.area.code 0 [] s

/-- Every UNAVAILABLE flag is cleared (R9, R127, R132). -/
def clearUnavailable (s : State) : State :=
  { s with map := { s.map with unavailable := s.map.unavailable.map fun _ => false } }

/-- A completed checkpoint leaves FAULT (R132). -/
def faultClear (r : CkRun) (s : State) : State :=
  raise (.journalCleared r.start) none (clearUnavailable (freePending (fun _ => true)
    (setJrn (fun j => { j with sCk := r.start, qNext := r.start, cond := .normal }) s)))

/-- The header has been written OK: the run completes (R123, R127). The run that follows a set missed mark is an automatic
one, as R123 says, and carries the response, as R127 says. The automatic test comes after the closing test and the hand-offs
(log entry 41). -/
def runCompletes (r : CkRun) (s : State) : State :=
  let t := setJrn (fun j => { j with sCk := r.start, newest := some r.area, newestGen := r.gen, run := none }) s
  match t.jrn.cond with
  | .normal => autoCheckpoint (runAnswer r (journalGoesOn (clearUnavailable t)))
  | .fault => if r.missed then startRun .automatic r.owed t else autoCheckpoint (runAnswer r (faultClear r t))

/-- The run goes on: to HEADER when the walk has ended and every body write has ended OK, else to its next block (R126). -/
def runAdvance (s : State) : State :=
  match s.jrn.run with
  | none => s
  | some r =>
      if r.walkEnded && decide (r.unwritten = 0) && decide (r.phase ≠ .header) then
        placeClaim .internal (.ckHeader r.serial) 1
          (setJrn (fun j => { j with run := some { r with phase := .header, claiming := true } }) s)
      else claimBody s

/-- The entries a formation may take: above the walk cursor, of regions whose stored policy is KEEP (R126). -/
def State.walkEntries (s : State) (r : CkRun) : List Entry :=
  (s.ov.table.filter fun e => (r.cursor.all fun g => decide (g < e.grain)) && s.journaled e.region).take Config.entriesPerBlock

/-- The first target block of the area a run writes. -/
def State.runBase (s : State) (r : CkRun) : Nat :=
  match s.map.layout with | some l => areaBase l r.area | none => 0

/-- A formed body block is written (R126). -/
def writeBody (r : CkRun) (offset : Nat) (b : Block) (s : State) : State :=
  runAdvance (enqueue (newRequest .background (.ckBody r.serial) .write (s.runBase r + offset) 1 true [b])
    (setJrn (fun j => { j with run := some { r with unwritten := r.unwritten + 1, image := crc32Run r.image b } }) s))

/-- A body block is formed in the act in which its buffer claim is met; a walk that needs a 548th entry block is abandoned for
a new automatic run (R126), which carries the response owed (log entry 24). -/
def formBody (s : State) : State :=
  match s.jrn.run with
  | none => s
  | some r0 =>
      let r := { r0 with claiming := false }
      match r.phase with
      | .bitmap =>
          writeBody { r with formedMaps := r.formedMaps + 1,
                             phase := if r.formedMaps + 1 = Config.bitmapBlocks then .entries else .bitmap }
            (1 + r.formedMaps) (bitmapBlock s.ov.retired r.formedMaps) s
      | .entries =>
          let es := s.walkEntries r
          if es.isEmpty then
            runAdvance (release .internal 1 (setJrn (fun j => { j with run := some { r with walkEnded := true } }) s))
          else if r.entryBlocks = Config.maxEntryBlocks then
            startRun .automatic r.owed (release .internal 1 (removeRun r s))
          else
            writeBody { r with cursor := es.getLast?.map (·.grain), entryBlocks := r.entryBlocks + 1,
                               entries := r.entries + es.length,
                               walkEnded := decide (es.length < Config.entriesPerBlock) }
              (1 + Config.bitmapBlocks + r.entryBlocks) (entryBlock es) s
      | .header => s

/-- The header is formed in the act in which its buffer claim is met, and its write is requested (R127). -/
def formHeader (s : State) : State :=
  match s.jrn.run with
  | none => s
  | some r =>
      let h : CkHeader :=
        { formatId := s.map.formatId, start := r.start, gen := r.gen, bitmaps := Config.bitmapBlocks,
          entryBlocks := r.entryBlocks, entries := r.entries, image := ~~~ r.image }
      enqueue (newRequest .journal (.ckHeader r.serial) .write (s.runBase r) 1 true [headerBlock h])
        (setJrn (fun j => { j with run := some { r with claiming := false } }) s)

/-- A body write of run `serial` has its final outcome; that of a run that is gone is ignored (R126, R128). -/
def ckBodyEnd (serial : Nat) (out : TOutcome) (s : State) : State :=
  let t := release .internal 1 s
  match t.jrn.run with
  | none => t
  | some r =>
      if r.serial ≠ serial then t
      else if out = .ok then
        runAdvance (setJrn (fun j => { j with run := some { r with unwritten := r.unwritten - 1 } }) t)
      else runFails r t

/-- The header write of run `serial` has its final outcome (R127, R128). -/
def ckHeaderEnd (serial : Nat) (out : TOutcome) (s : State) : State :=
  let t := release .internal 1 s
  match t.jrn.run with
  | none => t
  | some r =>
      if r.serial ≠ serial then t
      else if out = .ok then runCompletes r t else runFails r t

end Sys2Proof.Machine
end

