-- ==== Sys2Proof/Machine/Region.lean ====
section
/-! DEFINITION. Activation of a staged map: the drain's end, the anchor write and its end (R15 to R18). -/

namespace Sys2Proof.Machine

/-- The Map Unit is changed. -/
def setMap (f : MapUnit → MapUnit) (s : State) : State := { s with map := f s.map }

/-- The admission pause is set or cleared (R56). -/
def setPause (on : Bool) (s : State) : State := { s with adm := { s.adm with pause := on } }

/-- The recorded target capacity; 0 while none is recorded. -/
def State.capacity (s : State) : Nat := s.te.capacity.getD 0

/-- The lowest index with entries that a map would change otherwise than in its port masks (R14, R15). -/
def State.blockedIndex (s : State) (m : RegionMap) : Option Nat :=
  (List.range 32).find? fun i =>
    decide (0 < s.entryCount i) && changesBeyondPorts (s.map.active.region i) (m.region i)

/-- The item that gives an index, and a reason where there is one (11.5). -/
def indexItem (i reason : Nat) : List Byte := padTo 16 (le 1 i ++ le 1 reason)

/-- The older anchor copy: the one that does not hold the current generation; copy 0 when there is none (R17). -/
def MapUnit.olderCopy (m : MapUnit) : Nat := if m.anchorCopy = some 0 then 1 else 0

/-- The first target block of an anchor copy (R17). -/
def anchorTarget (copy : Nat) : Nat := 4 * copy

/-- The request of an anchor write (R17). -/
def anchorRequest (owner : Owner) (a : AnchorImage) (m : MapUnit) : Request :=
  newRequest .journal owner .write (anchorTarget m.olderCopy) 3 true (anchorBlocks a)

/-- The image the anchor write of an activation carries (R17). -/
def activationImage (a : Activation) (m : MapUnit) : AnchorImage :=
  { gen := m.anchorGen + 1, formatId := m.formatId, layout := m.layout, map := a.map }

/-- An activation that does not succeed: the pause is cleared and the maps stay (R18). -/
def activationFails (a : Activation) (res : Reply) (items : List (List Byte)) (s : State) : State :=
  answer a.owed res 0 0 0 0 items (setPause false (setMap (fun m => { m with activation := none }) s))

/-- The drain ends: R15 is applied again, and the anchor write starts (R16, R18). -/
def endDrain (a : Activation) (s : State) : State :=
  match s.blockedIndex a.map with
  | some i => activationFails a .regionHasOverlay [indexItem i 0] s
  | none =>
      placeClaim .internal .anchor 3 (setMap (fun m => { m with activation := some { a with draining := false } }) s)

/-- The buffers of an anchor write are met: its request is made (R17). -/
def anchorMet (s : State) : State :=
  match s.map.activation with
  | some a => enqueue (anchorRequest .anchor (activationImage a s.map) s.map) s
  | none => s

/-- UNAVAILABLE flags after an activation: those of changed indices are cleared (R9, R17). -/
def clearChanged (old new : RegionMap) (flags : List Bool) : List Bool :=
  flags.mapIdx fun i f => f && !indexChanged (old.region i) (new.region i)

/-- The Map Unit after a successful activation (R17). -/
def activatedMap (a : Activation) (m : MapUnit) : MapUnit :=
  { m with
    active := a.map, unavailable := clearChanged m.active a.map m.unavailable,
    stage := match m.stage with
      | some (p, x) => if a.claimKept ∧ p = a.port then none else some (p, x)
      | none => none,
    anchorGen := m.anchorGen + 1, anchorCopy := some m.olderCopy, activation := none }

/-- A device state of BLANK becomes READY (R17, R147). -/
def leaveBlank (s : State) : State :=
  if s.mnt.dev = .blank then { s with mnt := { s.mnt with dev := .ready } } else s

/-- A successful activation (R17). -/
def activationSucceeds (a : Activation) (s : State) : State :=
  let gen := s.map.anchorGen + 1
  let copy := s.map.olderCopy
  leaveBlank (answer a.owed .doneOk gen 0 copy 0 [] (raise (.mapActivated gen) none
    (setPause false (setMap (activatedMap a) s))))

/-- The anchor write of an activation has its final outcome (R17, R18). -/
def anchorEnd (out : TOutcome) (s : State) : State :=
  let t := release .internal 3 s
  match t.map.activation with
  | none => t
  | some a => if out = .ok then activationSucceeds a t else activationFails a .anchorFault [] t

end Sys2Proof.Machine
end

