-- ==== Sys2Proof/Machine/LayoutFormat.lean ====
section
/-! DEFINITION. The formatting writes of SET_LAYOUT and its end (R147, R148). -/

namespace Sys2Proof.Machine

/-- The SET_LAYOUT in progress is changed. -/
def setFormat (f : Option Formatting → Option Formatting) (s : State) : State :=
  { s with mnt := { s.mnt with format := f s.mnt.format } }

/-- The write of the anchor is the last of the seven steps. -/
def anchorStep : Nat := 6

/-- Buffers a formatting step claims. -/
def formatBuffers (step : Nat) : Nat := if step = anchorStep then 3 else 1

/-- The buffer claim of the next formatting step. -/
def formatClaim (f : Formatting) (s : State) : State :=
  placeClaim .internal .format (formatBuffers f.step) (setFormat (fun _ => some f) s)

/-- The header of the empty checkpoint in area A (R147). -/
def emptyHeader (f : Formatting) : CkHeader :=
  { formatId := f.formatId, start := 0, gen := 1, bitmaps := Config.bitmapBlocks, entryBlocks := 0, entries := 0,
    image := blockCheck (zeros (512 * Config.bitmapBlocks)) }

/-- The write of a formatting step (R147). The two header writes carry the durable flag too (log entry 16). -/
def formatRequest (f : Formatting) (m : MapUnit) : Request :=
  let l := f.layout
  if f.step < Config.bitmapBlocks then
    newRequest .background .format .write (l.ckA + 1 + f.step) 1 true [zeros 512]
  else if f.step = Config.bitmapBlocks then newRequest .journal .format .write l.ckA 1 true [headerBlock (emptyHeader f)]
  else if f.step < anchorStep then newRequest .journal .format .write l.ckB 1 true [invalidBlock]
  else anchorRequest .format { gen := m.anchorGen + 1, formatId := f.formatId, layout := some l, map := m.active } m

/-- The buffers of a formatting step are met: its write is requested. -/
def formatMet (s : State) : State :=
  match s.mnt.format with
  | some f => enqueue (formatRequest f s.map) s
  | none => s

/-- The Overlay Unit after a SET_LAYOUT: every slot FREE, in ascending order, and so no entry and no reservation (R37, R146,
R147). -/
def freshPool (slots : Nat) : OverlayUnit :=
  { table := [], slots := slots, ring := List.range slots, reservations := [], pendingFree := [], retired := [],
    condemned := [], armed := true }

/-- No relocation holds a slot of a pool that has been replaced (R144, R147). -/
def dropNewSlots (s : State) : State := setRelocs (List.map fun r => { r with newSlot := none }) s

/-- The Journal Unit after a SET_LAYOUT (R147). -/
def freshJournal (j : JournalUnit) : JournalUnit :=
  setFates (j.openBuf.map (·.id)) .dropped
    { j with openBuf := [], waiting := [], qNext := 0, sCk := 0, newest := some .A, newestGen := 1, cond := .normal }

/-- SET_LAYOUT succeeds (R147). Waiting hand-offs count as taken, their records dropped. -/
def formatSucceeds (f : Formatting) (s : State) : State :=
  let gen := s.map.anchorGen + 1
  let s1 := setMap (fun m => { m with layout := some f.layout, formatId := f.formatId, anchorGen := gen,
                                      anchorCopy := some m.olderCopy })
    (dropWaiting s.jrn.waiting.length s)
  let s2 : State := dropNewSlots { s1 with ov := freshPool f.layout.slots, jrn := freshJournal s1.jrn }
  answer f.owed .doneOk gen 0 f.formatId 0 [] (leaveBlank (raise (.journalCleared 0) none (setFormat (fun _ => none) s2)))

/-- A formatting write has its final outcome (R147, R148). -/
def formatEnd (out : TOutcome) (s : State) : State :=
  match s.mnt.format with
  | none => s
  | some f =>
      let t := release .internal (formatBuffers f.step) s
      if out = .ok then
        if f.step = anchorStep then formatSucceeds f t else formatClaim { f with step := f.step + 1 } t
      else
        answerPlain f.owed (if f.step = anchorStep then .anchorFault else .targetFault) (setFormat (fun _ => none) t)

end Sys2Proof.Machine
end

