-- ==== Sys2Proof/Machine/Mount.lean ====
section
/-! DEFINITION. The mount (section 8.3): anchor, checkpoint, replay, scan, repair, hand-over and finish. -/

namespace Sys2Proof.Machine

/-- The Mount Unit is changed. -/
def setMnt (f : MountUnit → MountUnit) (s : State) : State := { s with mnt := f s.mnt }

/-- The holding is changed. -/
def setHolding (f : Holding → Holding) (s : State) : State := setMnt (fun m => { m with holding := f m.holding }) s

/-- The mount enters a stage and claims the buffers of its next operation (R137). -/
def mountGo (stage : MountStage) (buffers : Nat) (s : State) : State :=
  placeClaim .internal .mount buffers (setMnt (fun m => { m with stage := stage }) s)

/-- The layout the mount has loaded. -/
def Holding.layout (h : Holding) : Option Layout := h.chosen.bind fun c => c.2.layout

/-- The format identity the mount has loaded. -/
def Holding.formatId (h : Holding) : Nat := match h.chosen with | some c => c.2.formatId | none => 0

/-- The journal length the mount has loaded. -/
def Holding.journalLen (h : Holding) : Nat := match h.layout with | some l => l.journalLen | none => 0

/-- The slots of the layout the mount has loaded. -/
def Holding.slots (h : Holding) : Nat := match h.layout with | some l => l.slots | none => 0

/-- The start of the anchor stage (R139). -/
def mountAnchor (s : State) : State :=
  mountGo (.anchor 0) 3 (setMnt (fun m => { m with dev := .mounting, holding := Holding.empty }) s)

/-- The mount is abandoned: what it has loaded is discarded and it waits on the link (R137). -/
def mountAbandon (s : State) : State :=
  let dev : DevState := if s.te.link = .down then .offline else .mounting
  setMnt (fun m => { m with stage := .waitLink, holding := Holding.empty, dev := dev })
    (dropClaims .internal (fun w => decide (w = .mount)) (withdrawRequests (fun o => decide (o = .mount)) s))

/-! ## Operations of the mount (R137 to R142) -/

/-- Buffers of the operation of a stage. -/
def mountBuffers : MountStage → Nat
  | .anchor _ => 3
  | _ => 1

/-- The sequence a scan position stands for, counted from where replay stopped; ring positions themselves without replay
(R142). -/
def Holding.scanBase (h : Holding) : Nat := if h.replayed then h.expected else 0

/-- The operation of a stage: kind, first target block, count and data. -/
def mountOp (m : MountUnit) : TOp × Nat × Nat × List Block :=
  let h := m.holding
  match h.layout, m.stage with
  | _, .anchor copy => (.read, anchorTarget copy, 3, [])
  | some l, .header area => (.read, areaBase l area, 1, [])
  | some l, .image k =>
      match h.candidates with
      | c :: _ => (.read, areaBase l c.area + 1 + k, 1, [])
      | [] => (.read, 0, 1, [])
  | some l, .replay => (.read, l.journalBase + h.expected % l.journalLen, 1, [])
  | some l, .scan k => (.read, l.journalBase + (h.scanBase + k) % l.journalLen, 1, [])
  | some l, .clearing =>
      match h.ahead with
      | x :: _ => (.write, l.journalBase + x.1 % l.journalLen, 1, [invalidBlock])
      | [] => (.read, 0, 1, [])
  | _, _ => (.read, 0, 1, [])

/-- The buffers of a mount operation are met: its request is made in the recovery class (R137). -/
def mountMet (s : State) : State :=
  let o := mountOp s.mnt
  enqueue (newRequest .recovery .mount o.1 o.2.1 o.2.2.1 (decide (o.1 = .write)) o.2.2.2) s

/-! ## Anchor stage (R139) -/

/-- Whether an anchor copy as read is valid against the recorded capacity (R139). -/
def anchorValid (capacity : Nat) (a : AnchorImage) : Bool :=
  (a.layout.all fun l => layoutValid l capacity) && (mapFault a.map a.layout capacity).isNone

/-- The valid copy with the higher generation; copy 0 when they are equal (R139). -/
def chooseCopy : Option AnchorImage → Option AnchorImage → Option (Nat × AnchorImage)
  | some a, some b => if a.gen < b.gen then some (1, b) else some (0, a)
  | some a, none => some (0, a)
  | none, some b => some (1, b)
  | none, none => none

/-- What an anchor copy's read adds to the holding. -/
def noteCopy (copy capacity : Nat) (bytes : List Byte) (h : Holding) : Holding :=
  let a := (parseAnchor bytes).filter (anchorValid capacity)
  let h1 := if anchorCheckGood bytes then { h with topFormat := Nat.max h.topFormat (anchorFormat bytes) } else h
  if copy = 0 then { h1 with copy0 := a } else { h1 with copy1 := a }

/-! ## Replay and repair (R118, R141, R143) -/

/-- An entry of the rebuilt table put in its place, in ascending grain order. -/
def insertRebuilt (r : Rebuilt) : List Rebuilt → List Rebuilt
  | [] => [r]
  | x :: xs => if x.entry.grain < r.entry.grain then x :: insertRebuilt r xs
               else if x.entry.grain = r.entry.grain then r :: xs else r :: x :: xs

/-- A record applied to the rebuilt table and retired set, with its order number (R118, R141). -/
def applyRecord (b : RecordBody) (h : Holding) : Holding :=
  let h1 := { h with order := h.order + 1 }
  match b with
  | .entry g region slot present lost =>
      let e : Entry := { grain := g, region := region, slot := slot, present := present, lost := lost, state := .resident }
      { h1 with table := insertRebuilt { entry := e, order := h.order } h.table }
  | .remove g => { h1 with table := h.table.filter fun r => decide (r.entry.grain ≠ g) }
  | .retire n => { h1 with retired := if h.retired.contains n then h.retired else h.retired ++ [n] }
  | .discard region => { h1 with table := h.table.filter fun r => decide (r.entry.region ≠ region) }

/-- Whether the slot a record names, if any, exists (R118, R185). -/
def recordSlotGood (slots : Nat) : RecordBody → Bool
  | .entry _ _ slot _ _ => slot.all fun n => decide (n < slots)
  | .retire n => decide (n < slots)
  | _ => true

/-- Whether a record may be applied: its slot exists, and an ENTRY meets the mask conditions (R141). -/
def recordGood (slots : Nat) (b : RecordBody) : Bool :=
  recordSlotGood slots b &&
    (match b with
     | .entry _ _ slot present lost => maskConditions slot present lost
     | _ => true)

/-- The block of a replay as applied; none when it fails a test of R141. The limit of the table is tested on what the whole
block leaves (log entry 51). -/
def replayBlock (bytes : Block) (h : Holding) : Option Holding :=
  match parseJournal bytes with
  | none => none
  | some b =>
      if b.formatId = h.formatId ∧ b.seq = h.expected ∧ b.recs.all (recordGood h.slots) then
        let h1 := b.recs.foldl (fun x r => applyRecord r x) h
        if h1.table.length ≤ Config.tableCapacity then some { h1 with expected := h.expected + 1 } else none
      else none

/-- Retired slots and shared slots: the entries made lost-only (R143). -/
def lostOnlyEntry (e : Entry) : Entry := { e with slot := none, present := 0, lost := e.lost ||| e.present }

/-- Whether a rebuilt entry loses its slot in the repair: it is retired, or an entry of higher order names it (R143). -/
def losesSlot (table : List Rebuilt) (retired : List Nat) (r : Rebuilt) : Bool :=
  match r.entry.slot with
  | none => false
  | some n =>
      retired.contains n || table.any fun x => decide (x.entry.slot = some n) && decide (r.order < x.order)

/-- Whether a rebuilt entry lies in a KEEP region of the loaded map (R143). -/
def inKeepRegion (m : RegionMap) (e : Entry) : Bool :=
  let r := m.region e.region
  r.inUse && decide (r.policy = .keep) && r.holds (8 * e.grain)

/-- The repair stage (R143). -/
def repair (m : RegionMap) (h : Holding) : Holding :=
  let kept := h.table.filter fun r => inKeepRegion m r.entry
  let fixed := kept.map fun r => if losesSlot kept h.retired r then { r with entry := lostOnlyEntry r.entry } else r
  { h with table := fixed, dropped := h.table.length - kept.length,
           lostOnly := (kept.filter (losesSlot kept h.retired)).length }

/-! ## Hand-over and finish (R144, R145) -/

/-- The UNAVAILABLE flags at hand-over: in-use KEEP regions, when a layout is loaded and no checkpoint is (R144). -/
def handOverFlags (h : Holding) (m : RegionMap) : List Bool :=
  (List.range 32).map fun i =>
    h.layout.isSome && h.loaded.isNone && (m.region i).inUse && decide ((m.region i).policy = .keep)

/-- The Overlay Unit at hand-over (R144). -/
def handOverPool (h : Holding) (o : OverlayUnit) : OverlayUnit :=
  let table := h.table.map (·.entry)
  let bound := table.filterMap (·.slot)
  { o with table := table, slots := h.slots, reservations := [],
           ring := (List.range h.slots).filter fun n => !bound.contains n && !h.retired.contains n,
           pendingFree := [], retired := h.retired, condemned := [], armed := true }

/-- q_next as the mount sets it (R141, R142). -/
def Holding.qNext (h : Holding) : Nat :=
  if h.replayed then h.expected else match h.scanTop with | some q => q + 1 | none => 0

/-- The Journal Unit at hand-over (R144). -/
def handOverJournal (h : Holding) (j : JournalUnit) : JournalUnit :=
  { j with openBuf := [], inFlight := none, qNext := h.qNext,
           sCk := match h.loaded with | some c => c.header.start | none => h.qNext,
           newest := h.loaded.map (·.area), newestGen := match h.loaded with | some c => c.header.gen | none => 0,
           cond := if h.badClears.isEmpty then .normal else .fault }

/-- The outcome of a mount (R145). -/
def mountOutcome (h : Holding) (unavailable : List Bool) : MountOutcome :=
  if unavailable.any id then .keepUnavailable
  else if 0 < h.lostOnly then .slotConflict
  else if h.replayed ∧ 0 < h.aheadCount then .journalCut
  else .clean

/-- Whether the finish starts a checkpoint run (R145). -/
def finishRun (h : Holding) (m : RegionMap) (s : State) : Bool :=
  decide (0 < h.lostOnly ∨ 0 < h.dropped) ||
    (h.layout.isSome && h.loaded.isNone &&
      !((List.range 32).any fun i => (m.region i).inUse && decide ((m.region i).policy = .keep))) ||
    (h.layout.isSome && decide (s.journalLen ≤ s.jrn.live + Config.checkpointSlack))

/-- Repair, hand-over and finish in one act (R143, R144, R145). Without a layout there is no q_next to report (R139, R179). -/
def mountFinish (s : State) : State :=
  match s.mnt.holding.chosen with
  | none => s
  | some (copy, a) =>
      let h := repair a.map s.mnt.holding
      let flags := handOverFlags h a.map
      let s1 := setMap (fun m => { m with active := a.map, layout := a.layout, formatId := a.formatId, anchorGen := a.gen,
                                          anchorCopy := some copy, unavailable := flags }) s
      let s2 : State := dropNewSlots { s1 with ov := handOverPool h s1.ov, jrn := handOverJournal h s1.jrn }
      let s3 := h.badClears.foldl (fun t q => raise (.journalFaultBlock q) none t) s2
      let s4 := setMnt (fun m => { m with dev := .ready, stage := .idle, holding := Holding.empty }) s3
      let q := if h.layout.isSome then some s4.jrn.qNext else none
      let s5 := raise (.mountResult (mountOutcome h flags) q h.lostOnly h.dropped h.aheadCount) none s4
      if !flags.any id && finishRun h a.map s5 then startRun .automatic none s5 else s5

/-! ## Scan (R142) -/

/-- Positions the scan reads. -/
def Holding.scanCount (h : Holding) : Nat :=
  match h.loaded with
  | some c => h.journalLen - (h.expected - c.header.start)
  | none => h.journalLen

/-- The scan goes on at position `k`, or ends: blocks found ahead are cleared, then the mount finishes (R142). -/
def scanFrom (k : Nat) (s : State) : State :=
  let h := s.mnt.holding
  if k < h.scanCount then mountGo (.scan k) 1 s
  else if h.ahead.isEmpty then mountFinish s
  else mountGo .clearing 1 s

/-- What a scan read adds to the holding; a block with a record that names a slot out of range fails (R142, R185). -/
def noteScan (k : Nat) (bytes : Option Block) (h : Holding) : Holding :=
  match bytes.bind parseJournal with
  | none => h
  | some b =>
      if b.formatId ≠ h.formatId ∨ b.recs.all (recordSlotGood h.slots) = false then h
      else if h.replayed then
        if h.expected ≤ b.seq then { h with ahead := h.ahead ++ [(h.expected + k, b.seq)], aheadCount := h.aheadCount + 1 } else h
      else { h with scanTop := some (match h.scanTop with | some q => Nat.max q b.seq | none => b.seq),
                    aheadCount := h.aheadCount + 1 }

/-- Replay goes on at the expected sequence, or stops after J blocks (R141). -/
def replayNext (s : State) : State :=
  let h := s.mnt.holding
  let start := match h.loaded with | some c => c.header.start | none => 0
  if h.expected - start < h.journalLen then mountGo .replay 1 s else scanFrom 0 s

/-! ## Checkpoint stage (R140) -/

/-- Whether a header makes its area a candidate (R140). -/
def candidateGood (formatId : Nat) (c : CkHeader) : Bool :=
  decide (c.formatId = formatId ∧ c.bitmaps = Config.bitmapBlocks ∧ c.entryBlocks ≤ Config.maxEntryBlocks ∧
    c.entries ≤ Config.entriesPerBlock * c.entryBlocks ∧ c.entries ≤ Config.tableCapacity)

/-- A candidate put in descending generation order, after those of the same generation (R140). -/
def insertCandidate (c : Candidate) : List Candidate → List Candidate
  | [] => [c]
  | x :: xs => if x.header.gen < c.header.gen then c :: x :: xs else x :: insertCandidate c xs

/-- The next candidate is tried; with none left, no checkpoint is valid and the scan follows (R140, R142). -/
def tryCandidate (s : State) : State :=
  match s.mnt.holding.candidates with
  | [] => scanFrom 0 s
  | _ :: _ =>
      mountGo (.image 0) 1 (setHolding (fun h => { h with imageRun := crc32Init, bitmap := [], imageGood := true, image := [] }) s)

/-- A candidate is dropped: at once when a block of it could not be read, for any other fault after its last block (R140; log
entry 45). -/
def dropCandidate (s : State) : State := tryCandidate (setHolding (fun h => { h with candidates := h.candidates.tail }) s)

/-- What an image block adds to the holding (R140). -/
def noteImage (k : Nat) (bytes : Block) (h : Holding) : Holding :=
  let h1 := { h with imageRun := crc32Run h.imageRun bytes }
  if k < Config.bitmapBlocks then { h1 with bitmap := h.bitmap ++ bytes }
  else match parseEntries bytes with
    | some es => { h1 with image := h.image ++ es }
    | none => { h1 with imageGood := false }

/-- Whether grains are strictly ascending. -/
def ascending : List Nat → Bool
  | a :: b :: rest => decide (a < b) && ascending (b :: rest)
  | _ => true

/-- Whether the image of a candidate meets the conditions of R140, and its entries fit into the Overlay Table (R20). The
header's number of entries is not compared with the entries found (log entry 50). -/
def imageLoads (h : Holding) (c : CkHeader) : Bool :=
  h.imageGood && decide (~~~ h.imageRun = c.image) && ((bitmapSlots h.bitmap).all fun n => decide (n < h.slots)) &&
    (h.image.all fun e => (e.slot.all fun n => decide (n < h.slots)) && maskConditions e.slot e.present e.lost) &&
    ascending (h.image.map (·.grain)) && decide (h.image.length ≤ Config.tableCapacity)

/-- The candidate is loaded: its retired slots, its entries with rising order numbers, and its start sequence (R140). -/
def loadImage (c : Candidate) (h : Holding) : Holding :=
  { h with loaded := some c, retired := bitmapSlots h.bitmap,
           table := h.image.zipIdx.map fun x => { entry := x.1, order := x.2 },
           order := h.image.length, expected := c.header.start, replayed := true, bitmap := [], image := [] }

/-! ## Operations end -/

/-- The read of the current stage has ended; `bytes` is none when it is invalid (R137, R139 to R142). When the tests of a
candidate are judged is log entry 45. -/
def mountRead (bytes : Option (List Byte)) (s : State) : State :=
  let h := s.mnt.holding
  match s.mnt.stage with
  | .anchor copy =>
      let t := setHolding (noteCopy copy s.capacity (bytes.getD [])) s
      if copy = 0 then mountGo (.anchor 1) 3 t
      else
        let h1 := t.mnt.holding
        match chooseCopy h1.copy0 h1.copy1 with
        | none =>
            let u := setMap (fun m => { m with formatId := h1.topFormat })
              (setMnt (fun m => { m with dev := .blank, stage := .idle, holding := Holding.empty }) t)
            { u with ov := { u.ov with armed := true } }
        | some c =>
            let u := setHolding (fun _ => { Holding.empty with chosen := some c }) t
            if c.2.layout.isSome then mountGo (.header .A) 1 u else mountFinish u
  | .header area =>
      let t := match bytes.bind parseHeader with
        | some c => if candidateGood h.formatId c then
              setHolding (fun x => { x with candidates := insertCandidate { area := area, header := c } x.candidates }) s
            else s
        | none => s
      match area with
      | .A => mountGo (.header .B) 1 t
      | .B => tryCandidate t
  | .image k =>
      match bytes, h.candidates with
      | some b, c :: _ =>
          let h1 := noteImage k b h
          let t := setHolding (fun _ => h1) s
          if k + 1 < Config.bitmapBlocks + c.header.entryBlocks then mountGo (.image (k + 1)) 1 t
          else if imageLoads h1 c.header then replayNext (setHolding (loadImage c) t)
          else dropCandidate t
      | _, _ => dropCandidate s
  | .replay =>
      match bytes.bind fun b => replayBlock b h with
      | some h1 => replayNext (setHolding (fun _ => h1) s)
      | none => scanFrom 0 s
  | .scan k => scanFrom (k + 1) (setHolding (noteScan k bytes) s)
  | _ => s

/-- A clearing write has ended; a failure is noted (R137, R142). -/
def mountCleared (ok : Bool) (s : State) : State :=
  match s.mnt.holding.ahead with
  | [] => mountFinish s
  | x :: rest =>
      let t := setHolding (fun h => { h with ahead := rest, badClears := if ok then h.badClears else h.badClears ++ [x.2] }) s
      if rest.isEmpty then mountFinish t else mountGo .clearing 1 t

/-- An operation of the mount has its final outcome (R137). -/
def mountEnd (got : List Block) (out : TOutcome) (s : State) : State :=
  let t := release .internal (mountBuffers s.mnt.stage) s
  match out with
  | .reset => mountAbandon t
  | .down => mountAbandon t
  | _ =>
      if t.mnt.stage = .clearing then mountCleared (decide (out = .ok)) t
      else mountRead (if out = .ok then some got.flatten else none) t

end Sys2Proof.Machine
end

