-- ==== Sys2Proof/Machine/Pieces.lean ====
section
/-! DEFINITION. Final outcomes of host pieces and FLUSH (R74, R75, R77, R80, R86, R87, R100). -/

namespace Sys2Proof.Machine

/-- The first `n` blocks received; a block the target never filled is free (log entry 8). -/
def leadingBlocks (n : Nat) (got : List Block) (s : State) : List Block × State :=
  if n ≤ got.length then (got.take n, s)
  else
    ((got.take n) ++ (List.range (n - got.length)).map fun i => Config.freeBlock (s.free + i),
     { s with free := s.free + (n - got.length) })

/-- A piece whose blocks lie at or above the delivery end gives its buffers back when its operation ends (R67). -/
def Record.beyondEnd (r : Record) (p : Piece) : Bool := r.cut.any fun b => decide (b ≤ p.first)

/-- A READ piece is DONE with its data (R74); its buffers go at once when it will not be delivered. -/
def readDone (c : CmdId) (i : Nat) (r : Record) (p : Piece) (got : List Block) (s : State) : State :=
  if r.state = .orphaned || r.winding || r.beyondEnd p then
    release (.host c.port) p.held (mapPiece c i (fun q => q.drop .done) s)
  else mapPiece c i (fun q => { q with state := .done, data := got }) s

/-- A READ piece FAILED; it keeps the buffers of the `n` leading blocks that will be delivered (R67, R77). -/
def readFailed (c : CmdId) (i n : Nat) (r : Record) (p : Piece) (got : List Block) (s : State) : State :=
  if r.state = .orphaned || r.winding || r.beyondEnd p then
    release (.host c.port) p.held (mapPiece c i (fun q => q.drop .failed) s)
  else
    release (.host c.port) (p.held - n) (mapPiece c i (fun q => { q with state := .failed, held := n, data := got }) s)

/-- A slot read of a host READ failed on the medium for the second time at block `x` (R86, R89). Writes that wait for a slot
this retires are handed (R87). Its notices come before the STATUS of the READ (log entry 46), SLOT_RETIRED first (log entry
53). -/
def readLost (x : Nat) (s : State) : State :=
  let g := grainOf x
  let m := maskBit (x % 8)
  let region := ((s.entry? g).map (·.region)).getD 0
  let mark := markLost g m s
  let named := nameRecords (lostRecords g mark.1 mark.2) mark.2
  let t := match mark.1.2 with
    | some n => raise (.blocksLost g) (some region) (raise (.slotRetired n) (some region) named.2)
    | none => named.2
  handReadyAll mark.1.2.toList (handOff .none named.1 (readFaultReloc g region m t)).2

/-- Whether a grain's entry is RESIDENT and names a slot. -/
def State.residentOn (s : State) (g slot : Nat) : Bool :=
  (s.entry? g).any fun e => decide (e.slot = some slot) && decide (e.state = .resident)

/-- A READ piece whose record has left has its final outcome: it is delivered to nobody, and a slot read that failed on the
medium for the second time marks its block lost while the grain's entry is RESIDENT and still names that slot (R77, R86; log
entry 21). The masks of a MOVING or MERGING entry are its relocation's or merge's alone to change (R22, R105). -/
def strayEnd (slot : Option Nat) (first : Nat) (out : TOutcome) (s : State) : State :=
  match slot, out with
  | some n, .media k => if s.residentOn (grainOf first) n then readLost (first + k) s else s
  | _, _ => s

/-- Whether a READ's record goes on to deliver, or ends its wind-down. -/
def readGoesOn (c : CmdId) (s : State) : State := endCheck c (deliver c s)

/-- A READ piece has its final outcome (R74, R77, R86, R100). -/
def readPieceEnd (c : CmdId) (i : Nat) (r : Record) (p : Piece) (got : List Block) (out : TOutcome) (s : State) : State :=
  match out with
  | .ok => readGoesOn c (readDone c i r p got s)
  | .media k =>
      let x := p.first + k
      let lead := leadingBlocks k got s
      let t := readFailed c i k r p lead.1 lead.2
      match p.kind with
      | .slot _ => readGoesOn c (cutRead c .lostData x (readLost x t))
      | _ => readGoesOn c (cutRead c .mediaError x t)
  | _ => readGoesOn c (cutRead c .targetFault p.first (readFailed c i 0 r p [] s))

/-- A completed slot write of at least one block updates the grain's entry; for KEEP its ENTRY record is handed on and becomes
the record's latest (R30, R75). -/
def slotWritten (c : CmdId) (slot : Nat) (region : Nat) (p : Piece) (s : State) : State :=
  let g := grainOf p.first
  let b := bindBlocks g region slot (pieceMask g p) s
  if s.servesGrain g slot = false ∨ pieceMask g p = 0 then s
  else if b.2.journaled b.1.region then
    let named := nameRecords [b.1.record] b.2
    let t := mapRec c (fun x => { x with latest := named.1.head?.map (·.id) }) named.2
    (handOff (if (s.rec? c).isSome then .piece c else .none) named.1 t).2
  else b.2

/-- A WRITE piece becomes FAILED with a final failure at block `f` (R77). -/
def writeFailed (c : CmdId) (i : Nat) (p : Piece) (res : Result) (f : Nat) (s : State) : State :=
  failWrite c res f (release (.host c.port) p.held (mapPiece c i (fun q => q.drop .failed) s))

/-- A WRITE piece has its final outcome (R75, R77, R87, R100). A piece whose slot has been taken out of service is handed
whatever its outcome (R87; log entry 11). -/
def writePieceEnd (c : CmdId) (i : Nat) (r : Record) (p : Piece) (out : TOutcome) (s : State) : State :=
  let done (t : State) : State := release (.host c.port) p.held (mapPiece c i (fun q => q.drop .done) t)
  match p.kind with
  | .slot n =>
      if s.outOfService n then handPiece c i [] s
      else match out with
        | .ok => endCheck c (slotWritten c n ((r.region.map (·.index)).getD 0) p (done s))
        | .media _ =>
            let o := takeOutOfService (grainOf p.first) n s
            handReady n (handPiece c i o.1 o.2)
        | _ => writeFailed c i p .targetFault p.first s
  | _ =>
      match out with
      | .ok => endCheck c (done s)
      | .media k => writeFailed c i p .mediaError (p.first + k) s
      | _ => writeFailed c i p .targetFault p.first s

/-- A host piece has its final outcome (R73). -/
def pieceEnd (c : CmdId) (i : Nat) (got : List Block) (out : TOutcome) (s : State) : State :=
  match s.rec? c with
  | none => s
  | some r =>
      match r.plan[i]? with
      | none => s
      | some p => if r.op = .read then readPieceEnd c i r p got out s else writePieceEnd c i r p out s

/-- The target FLUSH of a record has its final outcome (R80). -/
def flushEnd (c : CmdId) (out : TOutcome) (s : State) : State :=
  match s.rec? c with
  | none => s
  | some r =>
      match r.state with
      | .active => endRecord c (if out = .ok then .ok else .targetFault) 0 none 0 s
      | .stopping => endRecord c .stopped 0 none 0 s
      | _ => s

end Sys2Proof.Machine
end

