-- ==== Sys2Proof/Machine/Target.lean ====
section
/-! DEFINITION. The target port: final outcomes to their owners, classification and retries, grants and data, the arbiter,
and the target link (R70 to R73, R83, R84, R96 to R100, R164, R165). -/

namespace Sys2Proof.Machine

/-! ## Final outcomes (R73, R100) -/

/-- A final outcome reaches the owner of its operation. -/
def finalOutcome (r : Request) (got : List Block) (out : TOutcome) (s : State) : State :=
  match r.owner with
  | .piece c i => pieceEnd c i got out s
  | .flush c => flushEnd c out s
  | .relocRead g off => relocReadEnd g off r.count got out s
  | .relocWrite g _ => relocWriteEnd g out s
  | .mergeRead off => mergeReadEnd off r.count got out s
  | .mergeWrite _ => mergeWriteEnd out s
  | .journal => journalBlockEnd out s
  | .ckBody n => ckBodyEnd n out s
  | .ckHeader n => ckHeaderEnd n out s
  | .anchor => anchorEnd out s
  | .format => formatEnd out s
  | .mount => mountEnd got out s
  | .link => s
  | .stray slot first => strayEnd slot first out s
  | .gone => s

/-- The next request that waits in a queue, and the engine without it. The classes are emptied in the order journal, recovery,
host A, host B, background (log entry 36). -/
def TransferEngine.popQueued (te : TransferEngine) : Option (Request × TransferEngine) :=
  match te.journalQ with
  | r :: rest => some (r, { te with journalQ := rest })
  | [] => match te.recoveryQ with
    | r :: rest => some (r, { te with recoveryQ := rest })
    | [] => match te.hostAQ with
      | r :: rest => some (r, { te with hostAQ := rest })
      | [] => match te.hostBQ with
        | r :: rest => some (r, { te with hostBQ := rest })
        | [] => match te.backQ with
          | r :: rest => some (r, { te with backQ := rest })
          | [] => none

/-- Requests in the queues. -/
def TransferEngine.queued (te : TransferEngine) : Nat :=
  te.journalQ.length + te.recoveryQ.length + te.hostAQ.length + te.hostBQ.length + te.backQ.length

/-- Queued requests fail at once, in queue order (R99). -/
def downDrain : Nat → State → State
  | 0, s => s
  | n + 1, s =>
      match s.te.popQueued with
      | none => s
      | some (r, te) => downDrain n (finalOutcome r [] .down { s with te := te })

/-- The end of an act: while the link is DOWN every request made fails at once (R99), after the rest of the act (log entry 54). -/
def settleDown (s : State) : State := if s.te.link = .down then downDrain (s.te.queued + 64) s else s

/-! ## The table of operations (R70) -/

/-- The operation of a target tag. -/
def State.op? (s : State) (tag : Nat) : Option TargetOp := s.te.ops.find? fun o => o.tag == tag

/-- The operation of a tag is changed. -/
def mapOp (tag : Nat) (f : TargetOp → TargetOp) (s : State) : State :=
  { s with te := { s.te with ops := s.te.ops.map fun o => if o.tag = tag then f o else o } }

/-- The operation of a tag is removed, and the tag is free (R73). -/
def removeOp (tag : Nat) (s : State) : State :=
  { s with te := { s.te with ops := s.te.ops.filter fun o => decide (o.tag ≠ tag) } }

/-- STOP is sent for a tag, with its cause (R84, R96, R164, R165). -/
def stopOp (tag : Nat) (cause : StopCause) (s : State) : State :=
  mapOp tag (fun o => { o with stop := some cause }) (s.sendT (.stop tag))

/-- GRANT frames for a READ, of at most 16 blocks, with at most 64 granted and not received (R70, R164). -/
def grantTarget : Nat → Nat → State → State
  | 0, _, s => s
  | n + 1, tag, s =>
      match s.op? tag with
      | none => s
      | some o =>
          let k := Nat.min Config.grantMax (Nat.min (o.req.count - o.granted) (Config.grantWindow - (o.granted - o.moved)))
          if o.req.op = .read ∧ o.stop = none ∧ 0 < k then
            grantTarget n tag (mapOp tag (fun x => { x with granted := x.granted + k }) (s.sendT (.grant tag k)))
          else s

/-- A tag is granted to a request: its record is created and CMD is sent; a READ is granted its blocks (R70, R164). -/
def issueOp (tag : Nat) (r : Request) (s : State) : State :=
  let o : TargetOp := { tag := tag, req := r, granted := 0, moved := 0, got := [], stop := none }
  let s1 : State := { s with te := { s.te with ops := s.te.ops ++ [o] } }
  let s2 := match r.owner with
    | .piece c i => mapPiece c i (fun p => { p with state := .issued }) s1
    | .relocWrite g _ => mapReloc g (fun x => { x with issued := true }) s1
    | _ => s1
  grantTarget grantRounds tag (s2.sendT (.cmd tag r.op r.first r.count r.durable))

/-! ## The arbiter (R71, R72) -/

/-- Tags held that satisfy a test. -/
def State.tagsHeld (s : State) (test : TargetOp → Bool) : Nat := (s.te.ops.filter test).length

/-- Whether a class cap allows a request (R71). -/
def State.withinCap (s : State) (r : Request) : Bool :=
  match r.cls with
  | .journal =>
      decide (s.tagsHeld (fun o => decide (o.req.cls = .journal) &&
        (decide (o.req.owner = .journal) == decide (r.owner = .journal))) < 1)
  | .recovery => true
  | .host p => decide (s.tagsHeld (fun o => decide (o.req.cls = .host p)) < Config.hostCap)
  | .background => decide (s.tagsHeld (fun o => decide (o.req.cls = .background)) < Config.backgroundCap)

/-- The oldest request of a class that its cap allows. -/
def State.oldest (s : State) (c : TClass) : Option Nat := (s.te.queue c).findIdx? s.withinCap

/-- The class the arbiter serves next (R72). -/
def State.arbiterClass (s : State) : Option TClass :=
  let back := (s.oldest .background).isSome
  if back && decide (s.te.skip = Config.skipLimit) then some .background
  else if (s.oldest .journal).isSome then some .journal
  else if (s.oldest .recovery).isSome then some .recovery
  else if (s.oldest (.host s.te.hostPtr)).isSome then some (.host s.te.hostPtr)
  else if (s.oldest (.host s.te.hostPtr.other)).isSome then some (.host s.te.hostPtr.other)
  else if back then some .background
  else none

/-- The lowest-numbered free target tag (R72). -/
def State.freeTag (s : State) : Option Nat :=
  (List.range Config.targetTags).find? fun t => !s.te.ops.any fun o => o.tag == t

/-- The pointer and the skip count after a grant of a class (R72). -/
def afterGrant (c : TClass) (backWaits : Bool) (te : TransferEngine) : TransferEngine :=
  match c with
  | .background => { te with skip := 0 }
  | .host p => { te with hostPtr := p.other, skip := if backWaits then te.skip + 1 else te.skip }
  | _ => { te with skip := if backWaits then te.skip + 1 else te.skip }

/-- One grant of a target tag (R72); nothing while the link is not UP, no tag is free or no class has a request. -/
def grantOne (s : State) : State :=
  if s.te.link ≠ .up then s
  else match s.freeTag, s.arbiterClass with
    | some tag, some c =>
        match s.oldest c with
        | none => s
        | some i =>
            match (s.te.queue c)[i]? with
            | none => s
            | some r =>
                let te := s.te.setQueue c ((s.te.queue c).eraseIdx i)
                issueOp tag r { s with te := afterGrant c (s.oldest .background).isSome te }
    | _, _ => s

/-! ## STATUS (R73, R83, R84, R85) -/

/-- Whether every block of an operation was transferred (R83). -/
def TargetOp.complete (o : TargetOp) : Bool :=
  match o.req.op with
  | .read => decide (o.got.length = o.req.count)
  | .write => decide (o.moved = o.req.count)
  | _ => true

/-- The slot a host piece reads or writes, when an owner is such a piece (R61). -/
def State.pieceSlot (s : State) (o : Owner) : Option Nat :=
  match o with
  | .piece c i => match (s.rec? c).bind fun x => x.plan[i]? with
    | some p => p.slot?
    | none => none
  | _ => none

/-- Whether a request reads a slot, and so is retried once on MEDIA_ERROR (R85). -/
def State.slotRead (s : State) (r : Request) : Bool :=
  decide (r.op = .read) &&
    (match r.owner with
     | .relocRead _ _ => true
     | .mergeRead _ => true
     | .stray slot _ => slot.isSome
     | o => (s.pieceSlot o).isSome)

/-- Whether a request writes a host piece to a slot out of service: its piece is handed when its operation ends, and no retry
is made (R32, R87). -/
def State.deadWrite (s : State) (r : Request) : Bool := decide (r.op = .write) && (s.pieceSlot r.owner).any s.outOfService

/-- A relocation to be cut, or a merge to be stopped, is tested once an operation of it has ended and only retries are left
(R94, R111). -/
def ownerGoesOn : Owner → State → State
  | .relocRead g _ => relocAdvance g
  | .relocWrite g _ => relocAdvance g
  | .mergeRead _ => mergeAdvance
  | .mergeWrite _ => mergeAdvance
  | _ => id

/-- A retry is requested in the recovery class (R84). -/
def retry (r : Request) (s : State) : State := ownerGoesOn r.owner (enqueue { r with cls := .recovery } s)

/-- A retry waits for its not-ready interval (R84). -/
def waitInterval (r : Request) (s : State) : State :=
  ownerGoesOn r.owner { s with te := { s.te with intervals := s.te.intervals ++ [{ r with cls := .recovery }] } }

/-- The data check class: one retry, then final TARGET_FAULT (R83, R84). -/
def dataCheckEnd (r : Request) (s : State) : State :=
  if r.checks = 0 ∧ s.deadWrite r = false then retry { r with checks := 1 } s else finalOutcome r [] .fault s

/-- The not ready class: a retry after an interval, at most 20 (R83, R84). -/
def notReadyEnd (r : Request) (s : State) : State :=
  if r.notReady < Config.notReadyRetries ∧ s.deadWrite r = false then
    waitInterval { r with notReady := r.notReady + 1 } s
  else finalOutcome r [] .fault s

/-- The place of the first failing block in the operation (R83); one outside the operation is a free place (log entry 8). -/
def failingPlace (r : Request) (done : Nat) (detail : Option Nat) (s : State) : Nat × State :=
  let f := detail.getD (r.first + done)
  if r.first ≤ f ∧ f < r.first + r.count then (f - r.first, s) else drawIndex r.count s

/-- The media class: a slot read is retried once; otherwise the outcome is final (R85). A FLUSH has no block and ends
TARGET_FAULT. -/
def mediaEnd (o : TargetOp) (done : Nat) (detail : Option Nat) (s : State) : State :=
  if o.req.op = .flush then finalOutcome o.req [] .fault s
  else if s.slotRead o.req && decide (o.req.media = 0) then retry { o.req with media := 1 } s
  else
    let k := failingPlace o.req done detail s
    finalOutcome o.req o.got (.media k.1) k.2

/-- A STATUS ends an operation; its result is classified (R73, R83, R84, R96, R165). -/
def endOp (o : TargetOp) (result done : Nat) (detail : Option Nat) (s : State) : State :=
  let t := removeOp o.tag s
  match o.stop with
  | some .violation => finalOutcome o.req o.got .fault t
  | some .payload => dataCheckEnd o.req t
  | _ =>
      match result with
      | 0x00 => finalOutcome o.req o.got (if o.complete then .ok else .fault) t
      | 0x05 => notReadyEnd o.req t
      | 0x0C => mediaEnd o done detail t
      | 0x0E => dataCheckEnd o.req t
      | _ => finalOutcome o.req o.got .fault t

/-! ## GRANT and DATA from the target (R164, R165) -/

/-- DATA frames for the blocks granted and not yet sent, in ascending index (R164). -/
def sendBlocks (o : TargetOp) (upto : Nat) (s : State) : State :=
  (List.range (upto - o.moved)).foldl (fun t i =>
    t.sendT (.data o.tag (o.moved + i) (o.req.data.getD (o.moved + i) []))) s

/-- A GRANT for an operation with no STOP sent (R165). -/
def takeTargetGrant (o : TargetOp) (count : Nat) (s : State) : State :=
  if o.req.op ≠ .write ∨ count = 0 ∨ Config.grantMax < count ∨ o.req.count < o.granted + count ∨
      Config.grantWindow < o.granted + count - o.moved then
    stopOp o.tag .violation s
  else
    mapOp o.tag (fun x => { x with granted := o.granted + count, moved := o.granted + count })
      (sendBlocks o (o.granted + count) s)

/-- A DATA frame for an operation with no STOP sent (R84, R165). -/
def takeTargetData (o : TargetOp) (index : Nat) (block : Block) (check : BitVec 32) (s : State) : State :=
  if o.req.op ≠ .read ∨ index ≠ o.moved ∨ o.granted ≤ index then stopOp o.tag .violation s
  else if blockCheck block ≠ check then stopOp o.tag .payload s
  else grantTarget grantRounds o.tag (mapOp o.tag (fun x => { x with moved := x.moved + 1, got := x.got ++ [block] }) s)

/-! ## The target link (R97, R98, R99, R138) -/

/-- The outstanding SIZE of R98. -/
def State.linkSize? (s : State) : Option TargetOp := s.te.ops.find? fun o => decide (o.req.owner = .link)

/-- The operation of a tag ends TARGET_RESET (R97). -/
def endReset (tag : Nat) (s : State) : State :=
  match s.op? tag with
  | none => s
  | some o => finalOutcome o.req o.got .reset (removeOp tag s)

/-- The link is reset: LINKRESET is sent and every operation in flight ends TARGET_RESET, in the order in which they were
issued (R97; log entry 36). -/
def resetLink (s : State) : State :=
  let t : State := { s with te := { s.te with link := .resetting, resetWait := true } }
  (s.te.ops.map (·.tag)).foldl (fun u tag => endReset tag u) (t.sendT .linkreset)

/-- SIZE is issued on target tag 0 outside the arbiter (R98). Its record holds the recovery class (log entry 38), and its block
fields, which have no meaning, are 0 (log entry 44). -/
def issueSize (s : State) : State :=
  let o : TargetOp :=
    { tag := 0, req := newRequest .recovery .link .size 0 0 false [], granted := 0, moved := 0, got := [], stop := none }
  ({ s with te := { s.te with ops := s.te.ops ++ [o], resetWait := false } } : State).sendT (.cmd 0 .size 0 0 false)

/-- Whether a mount waits on the link: in its link stage, or abandoned (R137, R138). -/
def State.mountWaits (s : State) : Bool := decide (s.mnt.stage = .link) || decide (s.mnt.stage = .waitLink)

/-- The link becomes UP; TARGET_UP is raised when it was DOWN with a capacity recorded, and a mount that waits starts at
its anchor stage (R98, R99, R137, R138). -/
def linkUp (value : Nat) (s : State) : State :=
  let again := decide (s.te.link = .down) && s.te.capacity.isSome
  let t : State := { s with te := { s.te with link := .up, capacity := some value, resetDue := false } }
  let u := if again then raise .targetUp none t else t
  if u.mountWaits then mountAnchor u else u

/-- The link becomes or stays DOWN; TARGET_DOWN is raised when it goes DOWN from RESETTING, a mount that waits makes the
part OFFLINE, and a LINKRESET that was held is sent (R98, R99, R137, R138). The requests that wait fail at the end of the act,
so that their STATUS shows the notice (settleDown; log entry 46). -/
def linkDown (cause : DownCause) (s : State) : State :=
  let t : State := { s with te := { s.te with link := .down, resetWait := false, resetDue := false } }
  let u := if s.te.link = .resetting then raise (.targetDown cause) none t else t
  let v := if s.te.resetDue then u.sendT .linkreset else u
  if v.mountWaits then setMnt (fun m => { m with dev := .offline }) v else v

/-- The STATUS of the link SIZE (R98, R99). -/
def linkSizeStatus (result value : Nat) (s : State) : State :=
  match s.linkSize? with
  | none => s
  | some o =>
      let t := removeOp o.tag s
      if result = 0 then
        match t.te.capacity with
        | none => linkUp value t
        | some c => if c = value then linkUp value t else linkDown .capacityChanged t
      else linkDown .sizeFailed t

end Sys2Proof.Machine
end

