-- ==== Sys2Proof/Machine/Admission.lean ====
section
/-! DEFINITION. Admission: route plans, the start of a record, the checks, and re-examination (R41 to R56, R61 to R64). -/

namespace Sys2Proof.Machine

/-! ## Route plans (R61, R62, R63) -/

/-- Whether a block extends the last piece of a plan (R62, R63). -/
def Piece.extends (p : Piece) (b : Nat) (k : PieceKind) : Bool :=
  match k with
  | .base => decide (p.kind = .base) && decide (p.count < Config.pieceMax)
  | .slot n => decide (p.kind = .slot n) && decide (grainOf p.first = grainOf b)
  | .lost => false

/-- The target block of a logical block in a piece of a kind (R61). -/
def State.targetOf (s : State) (r : Region) (b : Nat) : PieceKind → Nat
  | .base => r.base b
  | .slot n => s.slotBase n + b % 8
  | .lost => 0

/-- A block joins a plan, whose pieces are held latest first: it extends the last piece or opens one; after a LOST piece
nothing is planned (R62). -/
def planBlock (s : State) (r : Region) (acc : List Piece) (b : Nat × PieceKind) : List Piece :=
  let fresh : Piece := { kind := b.2, first := b.1, count := 1, target := s.targetOf r b.1 b.2, state := .planned,
                         held := 0, data := [] }
  match acc with
  | [] => [fresh]
  | p :: ps =>
      if p.kind = .lost then acc
      else if p.extends b.1 b.2 then { p with count := p.count + 1 } :: ps
      else fresh :: acc

/-- The route plan of a range whose blocks have the given kinds. -/
def buildPlan (s : State) (r : Region) (first count : Nat) (kindOf : Nat → PieceKind) : List Piece :=
  (((List.range count).map fun i => (first + i, kindOf (first + i))).foldl (planBlock s r) []).reverse

/-- The kind of a block of a READ or WRITE (R62, R63). -/
def State.kindOf (s : State) (op : HostOp) (v : RegionView) (b : Nat) : PieceKind :=
  if op = .read then
    match v.source with
    | .base => .base
    | .overlay => s.classOf b
  else if v.policy.isOverlay then .slot (s.writeSlot (grainOf b)) else .base

/-- The route plan of a record (R61). -/
def State.routePlan (s : State) (r : Record) (v : RegionView) : List Piece :=
  buildPlan s (s.map.active.region v.index) r.first r.count (s.kindOf r.op v)

/-! ## Starting a record (R55, R64, R80, R81) -/

/-- A WRITE to an OVERLAY or KEEP effective policy settles its reservations; other records need none (R29, R55). -/
def settleRecord (r : Record) (v : RegionView) (s : State) : Bool × State :=
  if decide (r.op = .write) && v.policy.isOverlay then settle r.id (grainsOf r.first r.count) s else (true, s)

/-- A LOST piece of a fresh plan cuts the READ at once (R62, R77). -/
def cutLost (c : CmdId) (plan : List Piece) (s : State) : State :=
  match plan.find? fun p => decide (p.kind = .lost) with
  | some p => cutRead c .lostData p.first s
  | none => s

/-- A path REGION record is started (R55): settlement, route plan, the first buffer claim, and for a READ whose first block
is lost its end. When settlement fails, what it gave up stays given up and the record ends with the rest (R29). -/
def startRegion (c : CmdId) (s : State) : State :=
  match s.rec? c with
  | none => s
  | some r =>
      match r.region with
      | none => s
      | some v =>
          let o := settleRecord r v s
          if o.1 then
            let plan := o.2.routePlan r v
            deliver c (claimNext c (cutLost c plan
              (mapRec c (fun x => { x with state := .active, plan := plan }) o.2)))
          else endRecord c .overlayFull 0 none 0 o.2

/-- The contents of a window block as they stand (R168). -/
def State.windowBlock (s : State) (p : Port) (offset : Nat) : Block :=
  match offset with
  | 1 => responseBlock (s.mg p).response
  | 2 => noticeBlock (s.mg p)
  | 3 => identBlock p s
  | _ => zeros 512

/-- A window record is started (R64): a READ's blocks are formed in one act; a WRITE's one block is granted. -/
def startWindow (c : CmdId) (r : Record) (s : State) : State :=
  if r.op = .read then
    deliver c (mapRec c (fun x => { x with
      window := (List.range r.count).map fun i => s.windowBlock c.port (r.first + i - Config.windowBase) }) s)
  else (s.send c.port (.grant c.tag 1)).setTag c { s.tag c with granted := 1 }

/-- A record that passed admission without a claim is placed at the end of the admitted order, ACTIVE (R48). -/
def placePlain (c : CmdId) (path : Path) (s : State) : State :=
  placeAtEnd (.cmd c) (mapRec c (fun x => { x with state := .active, path := some path }) (unqueue c s))

/-! ## The checks (R42 to R47) -/

/-- Whether a WAITING record counts as a window command (R41). -/
def Record.isWindow (r : Record) : Bool :=
  r.op.isTransfer && decide (1 ≤ r.count ∧ r.count ≤ Config.maxBlocks) && rangeInWindow r.first r.count

/-- Check 1 (R43). -/
def stateAllows (dev : DevState) (r : Record) : Bool :=
  match dev with
  | .ready => true
  | .blank => r.isWindow || decide (r.op = .size)
  | _ => r.isWindow

/-- Check 2 (R44). -/
def shapeGood (r : Record) : Bool :=
  match r.op with
  | .unknown _ => false
  | .read => decide (1 ≤ r.count ∧ r.count ≤ Config.maxBlocks)
  | .write => decide (1 ≤ r.count ∧ r.count ≤ Config.maxBlocks)
  | _ => true

/-- The first offending block of check 4 (R46). -/
def offending (m : RegionMap) (first count : Nat) : Option Nat :=
  ((List.range count).map (first + ·)).find? fun b =>
    decide (m.cap ≤ b) || (m.lookup b).isNone || decide (m.lookup b ≠ m.lookup first)

/-- The region fields of a record as the lookup gives them (R2, R46). -/
def State.viewOf (s : State) (i : Nat) : RegionView :=
  let pol := s.policyOf i
  { index := i, policy := effPolicy s.map.hold s.layoutSet pol, source := readSource s.map.hold s.layoutSet pol }

/-- Check 7: the record is placed at the end of the admitted order, HELD when an earlier claim conflicts and started
otherwise (R50). -/
def placeRegion (c : CmdId) (s : State) : State :=
  let held := s.heldBy s.adm.order (.cmd c)
  let t := placeAtEnd (.cmd c) (unqueue c s)
  if held then mapRec c (fun x => { x with state := .held }) t else startRegion c t

/-- Checks 4 to 7 (R46, R47). -/
def admitRegion (r : Record) (s : State) : State :=
  match offending s.map.active r.first r.count, s.map.active.lookup r.first with
  | some b, _ => endRecord r.id .address 0 (some b) 0 s
  | none, none => endRecord r.id .address 0 (some r.first) 0 s
  | none, some i =>
      let v := s.viewOf i
      let write := decide (r.op = .write)
      match accessDecision v.policy write r.id.port (s.map.active.region i) (s.map.unavailable.getD i false) s.jrn.cond with
      | some refusal => endRecord r.id refusal 0 none 0 s
      | none =>
          let t := mapRec r.id (fun x => { x with path := some .region, region := some v }) s
          if write && v.policy.isOverlay then
            match reserve r.id (grainsOf r.first r.count) t with
            | some u => placeRegion r.id u
            | none => endRecord r.id .overlayFull 0 none 0 t
          else placeRegion r.id t

/-- Check 3 (R45). -/
def admitTransfer (r : Record) (s : State) : State :=
  if rangeTouchesWindow r.first r.count then
    if rangeInWindow r.first r.count && windowShape r.op r.first r.count then startWindow r.id r (placePlain r.id .window s)
    else endRecord r.id .windowMisuse 0 none 0 s
  else admitRegion r s

/-- The request of a FLUSH (R80). Its block fields, which have no meaning, are 0 (log entry 44). -/
def flushRequest (c : CmdId) : Request := newRequest (.host c.port) (.flush c) .flush 0 0 false []

/-- Admission of one record (R42 to R48). -/
def admitRecord (r : Record) (s : State) : State :=
  if !stateAllows s.mnt.dev r then endRecord r.id .notReady 0 none 0 s
  else if !shapeGood r then endRecord r.id .invalid 0 none 0 s
  else match r.op with
    | .flush => enqueue (flushRequest r.id) (placePlain r.id .plain s)
    | .size => endRecord r.id .ok 0 none s.map.active.cap (placePlain r.id .plain s)
    | _ => admitTransfer r s

/-! ## The turn for admission (R41) -/

/-- The record of a port that may be taken next: the oldest, or under the pause the oldest window command (R41, R56). -/
def State.admissible (s : State) (p : Port) : Option Record :=
  let waiting := (s.adm.queue p).filterMap fun t => s.rec? { port := p, tag := t }
  if s.adm.pause then waiting.find? Record.isWindow else waiting.head?

/-- The record taken next, from the port the pointer names when both have one (R41). -/
def State.nextAdmission (s : State) : Option Record :=
  match s.admissible s.adm.next with
  | some r => some r
  | none => s.admissible s.adm.next.other

/-- The next-port pointer is set to the other port than the one served (R41). -/
def servePort (p : Port) (s : State) : State := { s with adm := { s.adm with next := p.other } }

/-! ## Re-examination (R54) -/

/-- A place of the admitted order that is held and that nothing before it holds any more. -/
def State.startable (s : State) (earlier : List Placed) (x : Placed) : Bool := s.placeHeld x && !s.heldBy earlier x.ref

/-- The first place that can be started. -/
def State.firstStartable (s : State) : Option Placed :=
  ((List.range s.adm.order.length).filterMap fun i => (s.adm.order[i]?).filter fun x =>
    s.startable (s.adm.order.take i) x).head?

/-- A place is started: a record by R55, an internal claim by a grant (R54). -/
def startPlace (x : Placed) (s : State) : State :=
  match x.ref with
  | .cmd c => startRegion c s
  | _ => setOrder (List.map fun y => if y.ref = x.ref then { y with granted := true } else y) s

/-- Passes of re-examination, each starting the first place it can, until one starts nothing (R54). -/
def reexamine : Nat → State → State
  | 0, s => s
  | n + 1, s =>
      match s.firstStartable with
      | none => s
      | some x => reexamine n (startPlace x s)

end Sys2Proof.Machine
end

