-- ==== Sys2Proof/Machine/Management.lean ====
section
/-! DEFINITION. The Management Unit: posting a request, the seventeen requests and their answers (R10 to R14, R103, R110,
R113, R129, R146, R167 to R176, R180). -/

namespace Sys2Proof.Machine

/-! ## Staging requests (R10 to R13) -/

/-- The staging map, when a port holds the stage claim. -/
def State.stagedBy (s : State) (p : Port) : Option RegionMap :=
  match s.map.stage with
  | some (o, m) => if o = p then some m else none
  | none => none

/-- The staging map of the port that holds the claim is replaced. -/
def setStaged (p : Port) (m : RegionMap) (s : State) : State := setMap (fun u => { u with stage := some (p, m) }) s

/-- The MAP_INVALID refusal with its item (R172). -/
def refuseMap (p : Port) (i : Nat) (why : MapReason) (s : State) : State :=
  answer (some p) .mapInvalid 0 0 0 0 [indexItem i why.code] s

/-- STAGE (R10). -/
def reqStage (p : Port) (s : State) : State :=
  match s.map.stage with
  | some (o, _) =>
      if o = p then answerPlain (some p) .doneOk (setStaged p s.map.active s) else answerPlain (some p) .stageHeld s
  | none => answerPlain (some p) .doneOk (setStaged p s.map.active s)

/-- PUT_REGION (R11). -/
def reqPutRegion (p : Port) (index policy : Nat) (rp wp : PortSet) (first count target : Nat) (s : State) : State :=
  match s.stagedBy p with
  | none => answerPlain (some p) .noStage s
  | some m =>
      match Policy.ofCode policy with
      | none => answerPlain (some p) .badParameter s
      | some pol =>
          if 31 < index then answerPlain (some p) .badParameter s
          else if count < 8 then refuseMap p index .count s
          else if !(first % 8 == 0 && count % 8 == 0 && target % 8 == 0) then refuseMap p index .align s
          else
            let r : Region := { inUse := true, policy := pol, readPorts := rp, writePorts := wp, first := first,
                                count := count, target := target }
            answerPlain (some p) .doneOk (setStaged p { m with regions := m.regions.set index r } s)

/-- CLEAR_REGION (R12; log entry 15). -/
def reqClearRegion (p : Port) (index : Nat) (s : State) : State :=
  match s.stagedBy p with
  | none => answerPlain (some p) .noStage s
  | some m =>
      if 31 < index then answerPlain (some p) .badParameter s
      else answerPlain (some p) .doneOk (setStaged p { m with regions := m.regions.set index Region.unused } s)

/-- SET_CAPACITY (R12; log entry 15). -/
def reqSetCapacity (p : Port) (c : Nat) (s : State) : State :=
  match s.stagedBy p with
  | none => answerPlain (some p) .noStage s
  | some m =>
      if c % 8 = 0 ∧ c ≤ Config.maxCapacity then answerPlain (some p) .doneOk (setStaged p { m with cap := c } s)
      else answerPlain (some p) .badParameter s

/-- The stage claim of a port ends with its staging map; an activation taken under it no longer finds it (R13, R17, R19). -/
def dropStage (p : Port) (m : MapUnit) : MapUnit :=
  { m with
    stage := (match m.stage with
      | some (o, x) => if o = p then none else some (o, x)
      | none => none),
    activation := m.activation.map fun a => if a.port = p then { a with claimKept := false } else a }

/-- UNSTAGE (R13). -/
def reqUnstage (p : Port) (s : State) : State :=
  match s.stagedBy p with
  | none => answerPlain (some p) .noStage s
  | some _ => answerPlain (some p) .doneOk (setMap (dropStage p) s)

/-! ## ACTIVATE (R14, R16, R56) -/

/-- Whether an ACTIVATE or SET_LAYOUT is in progress. -/
def State.mapBusy (s : State) : Bool := s.map.activation.isSome || s.mnt.format.isSome

/-- Whether a merge run exists, a discard exists, or an ACTIVATE or SET_LAYOUT is in progress (R14, R103, R113). -/
def State.storeBusy (s : State) : Bool := decide (s.mrg.state ≠ .none) || s.mrg.discard.isSome || s.mapBusy

/-- Records a drain counts: admitted, of path REGION or PLAIN (R56). -/
def Record.drains (r : Record) : Bool := decide (r.path = some .region) || decide (r.path = some .plain)

/-- The activation starts: the pause is set, the records admitted before it are counted, and with none the drain ends at
once (R16, R56). -/
def startActivation (p : Port) (m : RegionMap) (s : State) : State :=
  let n := (s.adm.records.filter Record.drains).length
  let a : Activation := { map := m, port := p, owed := some p, claimKept := true, remaining := n, draining := true }
  let t : State := { s with
    adm := { s.adm with pause := true, records := s.adm.records.map fun r => { r with counted := r.drains } },
    map := { s.map with activation := some a } }
  if n = 0 then endDrain a t else t

/-- ACTIVATE (R14). -/
def reqActivate (p : Port) (s : State) : State :=
  match s.stagedBy p with
  | none => answerPlain (some p) .noStage s
  | some m =>
      if s.map.hold then answerPlain (some p) .held s
      else if s.storeBusy then answerPlain (some p) .busy s
      else match mapFault m s.map.layout s.capacity with
        | some (i, why) => refuseMap p i why s
        | none => match s.blockedIndex m with
          | some i => answer (some p) .regionHasOverlay 0 0 0 0 [indexItem i 0] s
          | none => startActivation p m s

/-! ## SET_LAYOUT (R146) -/

/-- Whether some in-use region of the active map satisfies a test. -/
def RegionMap.anyRegion (m : RegionMap) (test : Region → Bool) : Bool :=
  (List.range 32).any fun i => (m.region i).inUse && test (m.region i)

/-- The conditions of LAYOUT_IN_USE (R146). -/
def State.layoutInUse (s : State) (p : Port) : Bool :=
  !s.ov.table.isEmpty || (s.map.active.anyRegion fun r => r.policy.isOverlay) ||
    (match s.map.stage with
     | some (o, _) => decide (o ≠ p)
     | none => false) ||
    s.mapBusy || s.jrn.run.isSome || s.jrn.inFlight.isSome

/-- SET_LAYOUT: the conditions of R146 in its order, because R172 has SET_LAYOUT answered as R146 specifies. One that none of
them refuses is refused BUSY while a merge run exists (R103; log entry 40). -/
def reqSetLayout (p : Port) (l : Layout) (s : State) : State :=
  if s.map.hold then answerPlain (some p) .held s
  else if !layoutValid l s.capacity then answerPlain (some p) .badParameter s
  else if s.map.active.anyRegion fun r => !targetRangeOk r (some l) s.capacity then answerPlain (some p) .badParameter s
  else if s.layoutInUse p then answerPlain (some p) .layoutInUse s
  else if s.mrg.state ≠ .none then answerPlain (some p) .busy s
  else formatClaim { layout := l, formatId := s.map.formatId + 1, owed := some p, step := 0 } s

/-! ## MERGE, HALT_MERGE, DISCARD (R103, R110, R113) -/

/-- Whether a region may be merged (R103). -/
def State.mergeable (s : State) (i : Nat) : Bool :=
  (s.map.active.region i).inUse && (s.policyOf i).isOverlay && !s.map.unavailable.getD i false

/-- The selection of a MERGE parameter; none when it names no region that may be merged (R103). -/
def State.mergeSelection (s : State) (index : Nat) : Option (List Nat) :=
  if index = mergeAll then some ((List.range 32).filter s.mergeable)
  else if s.mergeable index then some [index] else none

/-- The run starts: its first search is made (R103, R104). -/
def startMerge (p : Port) (selection : List Nat) (all : Bool) (s : State) : State :=
  mergeSearch (answer (some p) .doneOk 0 0 selection.length 0 [] (setMrg (fun m => { m with
    state := .running, selection := selection, all := all, cursor := 0, grain := none, cause := none, merged := 0,
    left := 0, haltOwed := [] }) s))

/-- MERGE (R103). -/
def reqMerge (p : Port) (index : Nat) (s : State) : State :=
  if 31 < index ∧ index ≠ mergeAll then answerPlain (some p) .badParameter s
  else if s.map.hold then answerPlain (some p) .held s
  else if !s.layoutSet then answerPlain (some p) .noLayout s
  else if s.storeBusy then answerPlain (some p) .busy s
  else match s.mergeSelection index with
    | none => answerPlain (some p) .badParameter s
    | some sel =>
        if (sel.any s.journaled) && decide (s.jrn.cond = .fault) then answerPlain (some p) .journalFault s
        else startMerge p sel (decide (index = mergeAll)) s

/-- The halt of a run whose grain is under way waits for the run's end (R110). -/
def haltLater (p : Port) (s : State) : State :=
  setMrg (fun m => { m with state := .halting, haltOwed := m.haltOwed ++ [p] }) s

/-- HALT_MERGE (R110). A grain claim that stands granted and has not been taken counts as under way (log entry 1). -/
def reqHaltMerge (p : Port) (s : State) : State :=
  match s.mrg.state, s.mrg.grain with
  | .none, _ => answerPlain (some p) .doneOk s
  | .halting, _ => haltLater p s
  | .running, none => answerPlain (some p) .doneOk (mergeEnd (some .halted) s)
  | .running, some mg =>
      if mg.stage = .waiting ∧ s.claimGranted (.merge s.mrg.cursor) = false then
        answerPlain (some p) .doneOk (mergeEndHere .halted s)
      else haltLater p s

/-- DISCARD (R113). -/
def reqDiscard (p : Port) (index : Nat) (s : State) : State :=
  if 31 < index then answerPlain (some p) .badParameter s
  else if s.map.hold then answerPlain (some p) .held s
  else if !s.layoutSet then answerPlain (some p) .noLayout s
  else if s.storeBusy then answerPlain (some p) .busy s
  else
    let r := s.map.active.region index
    if !(r.inUse && r.policy.isOverlay) then answerPlain (some p) .badParameter s
    else discardPlace (setMrg (fun m => { m with
      discard := some { region := index, placed := false, owed := some p, record := none, removed := 0 } }) s)

/-! ## CHECKPOINT (R129) -/

/-- CHECKPOINT. -/
def reqCheckpoint (p : Port) (s : State) : State :=
  if !s.layoutSet then answerPlain (some p) .noLayout s
  else if s.jrn.run.isSome || s.mnt.format.isSome then answerPlain (some p) .busy s
  else startRun (.request p) (some p) s

/-! ## Queries (R173 to R176) -/

/-- The stage claim holder in QUERY_REGION's summary (11.5). -/
def State.holderCode (s : State) : Nat := match s.map.stage with | some (o, _) => Port.code o | none => 0

/-- Item 2 of QUERY_REGION: the runtime state of an index (R173). -/
def State.runtimeItem (s : State) (i : Nat) : List Byte :=
  let used := (s.map.active.region i).inUse
  padTo 16 (le 2 (s.entryCount i) ++ le 1 (boolCode (s.map.unavailable.getD i false)) ++
    le 1 (if used then (s.viewOf i).policy.code else ones 1) ++ le 1 (if used then (s.viewOf i).source.code else ones 1))

/-- QUERY_REGION (R173). -/
def reqQueryRegion (p : Port) (index map : Nat) (s : State) : State :=
  if 31 < index ∨ 1 < map then answerPlain (some p) .badParameter s
  else match (if map = 0 then some s.map.active else s.stagedBy p) with
    | none => answerPlain (some p) .noStage s
    | some m =>
        answer (some p) .doneOk m.cap 0 (boolCode s.map.hold + 2 * boolCode s.map.activation.isSome) s.holderCode
          [regionImage (m.region index), s.runtimeItem index] s

/-- QUERY_OVERLAY (R174). -/
def reqQueryOverlay (p : Port) (grain : Nat) (s : State) : State :=
  if Config.grainSpace ≤ grain then answerPlain (some p) .badParameter s
  else
    let found := s.ov.table.filter fun e => decide (grain ≤ e.grain)
    let shown := found.take Config.itemsMax
    let more := decide (Config.itemsMax < found.length)
    answer (some p) .doneOk (if more then ((shown.getLast?.map (·.grain)).getD 0) + 1 else ones 8) 0 s.ov.table.length
      (boolCode more) (shown.map fun e => entryImage e.state.code e.region e.grain e.present e.lost e.slot) s

/-- The item of QUERY_SLOTS (R175); without a layout every count, L and the low-water state are 0 and the head is absent (log
entry 19). -/
def State.slotsItem (s : State) : List Byte :=
  le 2 s.ov.slots ++ le 2 (s.lowWater + 2 ^ 15 * boolCode (s.layoutSet && s.ov.armed)) ++ le 2 s.ov.ring.length ++
    le 2 s.reservedSlots.length ++ le 2 s.boundSlots.length ++ le 2 s.ov.pendingFree.length ++ le 2 s.ov.retired.length ++
    le 2 (s.ov.ring.head?.getD (ones 2))

/-- QUERY_SLOTS (R175). -/
def reqQuerySlots (p : Port) (s : State) : State := answer (some p) .doneOk 0 0 0 0 [s.slotsItem] s

/-- QUERY_RETIRED (R175; log entry 19). -/
def reqQueryRetired (p : Port) (start : Nat) (s : State) : State :=
  if Config.tableCapacity < start then answerPlain (some p) .badParameter s
  else
    let rest := s.ov.retired.drop start
    let shown := rest.take Config.itemsMax
    answer (some p) .doneOk (start + shown.length) 0 s.ov.retired.length
      (boolCode (decide (Config.itemsMax < rest.length))) (shown.map fun n => padTo 16 (le 2 n)) s

/-- The code of a checkpoint run's phase (11.5). -/
def phaseCode : CkPhase → Nat
  | .bitmap => 1 | .entries => 2 | .header => 3

/-- The code of a checkpoint run's origin (11.5). -/
def originCode : CkOrigin → Nat
  | .automatic => 0 | .request p => Port.code p

/-- Item 1 of QUERY_JOURNAL (R176). With no checkpoint run the origin is written as 0, and with no layout the absent fields as
log entry 19 says (DESIGN CHOICE). -/
def State.journalItem (s : State) : List Byte :=
  let j := s.jrn
  le 1 (boolCode (decide (j.cond = .fault))) ++ le 1 ((j.run.map fun r => phaseCode r.phase).getD 0) ++
    le 1 ((j.run.map fun r => originCode r.origin).getD 0) ++
    le 1 (if s.layoutSet then (j.newest.map Area.code).getD 0 else 0) ++ le 2 s.journalLen ++
    le 2 (if s.layoutSet then j.live else ones 2) ++ le 8 (if s.layoutSet then j.qNext else ones 8)

/-- Item 2 of QUERY_JOURNAL (R176). Grains merged beyond 16,384 are written modulo 2^16 (DESIGN CHOICE, log entry 55). -/
def State.mergeItem (s : State) : List Byte :=
  let m := s.mrg
  padTo 16 (le 1 m.state.code ++ le 1 (boolCode m.discard.isSome) ++ le 1 ((m.discard.map (·.region)).getD (ones 1)) ++
    zeros 1 ++ le 5 (if m.state = .none then ones 5 else m.cursor) ++ le 2 m.merged ++ le 2 m.left)

/-- QUERY_JOURNAL (R176). -/
def reqQueryJournal (p : Port) (s : State) : State :=
  answer (some p) .doneOk (if s.layoutSet then s.jrn.sCk else ones 8) (if s.layoutSet then s.jrn.newestGen else ones 8)
    (boolCode (decide (s.jrn.cond = .fault))) s.mrg.state.code [s.journalItem, s.mergeItem] s

/-! ## ACK_NOTICES (R180) -/

/-- Whether an entry's number is at or before `n`, counted modulo 2^32 (R180). -/
def atOrBefore (n : BitVec 32) (x : Notice) : Bool := decide ((n - x.number).toNat < 2 ^ 31)

/-- A queue after ACK_NOTICES (R180). -/
def ackQueue (n : BitVec 32) (m : PortMgmt) : PortMgmt :=
  let left := m.notices.filter fun x => !atOrBefore n x
  { m with notices := left, incomplete := m.incomplete && !left.isEmpty }

/-- ACK_NOTICES (R180). -/
def reqAckNotices (p : Port) (n : BitVec 32) (s : State) : State :=
  let m := ackQueue n (s.mg p)
  answer (some p) .doneOk 0 0 ((s.mg p).notices.length - m.notices.length) m.notices.length [] (s.setMg p m)

/-! ## Posting (R169, R170) -/

/-- The owner takes a request, in BLANK or READY (R170, R172). -/
def takeOwner (p : Port) (r : MReq) (s : State) : State :=
  match r with
  | .stage => reqStage p s
  | .putRegion index policy rp wp first count target => reqPutRegion p index policy rp wp first count target s
  | .clearRegion index => reqClearRegion p index s
  | .setCapacity c => reqSetCapacity p c s
  | .unstage => reqUnstage p s
  | .activate => reqActivate p s
  | .setLayout l => reqSetLayout p l s
  | .merge index => reqMerge p index s
  | .haltMerge => reqHaltMerge p s
  | .discard index => reqDiscard p index s
  | .checkpoint => reqCheckpoint p s
  | .queryRegion index map => reqQueryRegion p index map s
  | .queryOverlay grain => reqQueryOverlay p grain s
  | .querySlots => reqQuerySlots p s
  | .queryRetired start => reqQueryRetired p start s
  | .queryJournal => reqQueryJournal p s
  | .ackNotices n => reqAckNotices p n s
  | .unknown _ => answerPlain (some p) .unknownRequest s

/-- The port's state once a request is accepted (R170). -/
def acceptRequest (q : BitVec 16) (code : Nat) (m : PortMgmt) : PortMgmt :=
  { m with
    lastSeq := some q, inProgress := some q,
    response := { Response.empty with state := .inProgress, seq := some q, code := some code } }

/-- The port's state after a SEQUENCE_ERROR (R169). -/
def sequenceError (q : BitVec 16) (code : Nat) (m : PortMgmt) : PortMgmt :=
  { m with response := { Response.empty with state := .done, seq := some q, code := some code,
                                             result := some .sequenceError } }

/-- An accepted request is taken (R170). -/
def acceptAndTake (p : Port) (q : BitVec 16) (r : MReq) (s : State) : State :=
  let t := s.setMg p (acceptRequest q r.code (s.mg p))
  if t.unmounted then answerPlain (some p) .notReady t else takeOwner p r t

/-- A request block handed over is judged (R169): whether it was received, and the state after it. -/
def post (p : Port) (q : BitVec 16) (r : MReq) (s : State) : Bool × State :=
  let m := s.mg p
  if m.inProgress.isSome then (false, s)
  else if m.lastSeq = some q then (true, s)
  else if (m.lastSeq.all fun l => decide (q = l + 1)) then (true, acceptAndTake p q r s)
  else (true, s.setMg p (sequenceError q r.code m))

/-- A request whose block is handed over: the state after it is judged and taken (R169, R170; log entry 3). -/
def request (p : Port) (q : BitVec 16) (r : MReq) (s : State) : State := (post p q r s).2

end Sys2Proof.Machine
end

