-- ==== Sys2Proof/Machine/HostLink.lean ====
section
/-! DEFINITION. The commands that are frames from a host, RESET and the host port's own steps (R38 to R40, R59, R134,
R151 to R163). -/

namespace Sys2Proof.Machine

/-! ## Shared operations -/

/-- Whether a port's link condition is UP (R162). -/
def State.portUp (s : State) (p : Port) : Bool := decide ((s.hp p).condition = .up)

/-- An OPEN tag with its accounts at 0 (R152). -/
def Tag.opened : Tag := { isOpen := true, granted := 0, moved := 0, next := 0 }

/-- A CMD is taken by the tag it names, 0 to 15, while the port is UP (R151, R153): a busy tag is a protocol error, a FREE tag
whose record an orphan holds gets a deferred arrival, and any other FREE tag a record. -/
def acceptCmd (c : CmdId) (op : HostOp) (first count : Nat) (durable : Bool) (s : State) : State :=
  let a : Arrival := { id := c, op := op, first := first, count := count, durable := durable }
  if !s.portUp c.port || decide (Config.hostTags ≤ c.tag) then s
  else if (s.tag c).isOpen then protocolError c s
  else
    let t := s.setTag c Tag.opened
    if (s.rec? c).isSome then { t with adm := { t.adm with deferred := t.adm.deferred ++ [a] } } else arrive a t

/-- The operation and block count of what an OPEN tag names: a deferred arrival or a record (R152, R154). -/
def State.named (s : State) (c : CmdId) : Option (HostOp × Nat) :=
  match s.deferred? c with
  | some a => some (a.op, a.count)
  | none => (s.rec? c).map fun r => (r.op, r.count)

/-- Whether an OPEN tag names a record that is being wound down (R78, R154). -/
def State.windingDown (s : State) (c : CmdId) : Bool :=
  (s.deferred? c).isNone && (match s.rec? c with
    | some r => r.winding
    | none => false)

/-- A GRANT for an OPEN tag (R154, tests 2 to 6). -/
def takeGrant (c : CmdId) (count : Nat) (s : State) : State :=
  match s.named c with
  | none => s
  | some (op, blocks) =>
      let t := s.tag c
      if op = .read ∧ s.windingDown c then s
      else if op ≠ .read then protocolError c s
      else if count = 0 ∨ Config.grantMax < count ∨ blocks < t.granted + count ∨
          Config.grantWindow < t.granted + count - t.moved then protocolError c s
      else deliver c (s.setTag c { t with granted := t.granted + count })

/-- A usable block is placed in the piece that gathers it; a complete piece becomes READY, or is handed when its slot is
out of service (R68, R87). -/
def gather (c : CmdId) (b : Nat) (block : Block) (s : State) : State :=
  match s.rec? c with
  | none => s
  | some r =>
      match r.plan.findIdx? fun p => decide (p.state = .filling) && decide (p.first ≤ b ∧ b < p.first + p.count) with
      | none => s
      | some i =>
          let t := mapPiece c i (fun p => { p with data := p.data ++ [block] }) s
          match r.plan[i]? with
          | none => t
          | some p =>
              if p.data.length + 1 < p.count then t
              else
                let gone := match p.kind with
                  | .slot n => s.outOfService n
                  | _ => false
                if gone then handPiece c i [] t else issuePiece c i t

/-- The one block of a window WRITE is handed to the Management Unit, and STATUS follows (R64, R169). -/
def takeWindowBlock (c : CmdId) (block : Block) (s : State) : State :=
  let req := parseRequest block
  let r := post c.port req.1 req.2 s
  if r.1 then endRecord c .ok 1 none 0 r.2 else endRecord c .windowBusy 0 none 0 r.2

/-- A usable DATA frame (R154, test 11). The GRANT that is due after it (R68) is sent before a request it makes fails on a DOWN
link (R99), which happens at the end of the act (settleDown; DESIGN CHOICE, log entry 54). -/
def placeData (c : CmdId) (block : Block) (s : State) : State :=
  let t := s.tag c
  let u := s.setTag c { t with moved := t.moved + 1, next := t.next + 1 }
  match s.rec? c with
  | none => u
  | some r =>
      if r.path = some .window then takeWindowBlock c block u
      else sendGrants grantRounds c (gather c (r.first + t.next) block u)

/-- A DATA frame for an OPEN tag (R154, tests 3 and 7 to 11; R157). -/
def takeData (c : CmdId) (index : Nat) (block : Block) (check : BitVec 32) (s : State) : State :=
  match s.named c with
  | none => s
  | some (op, _) =>
      let t := s.tag c
      if op = .write ∧ s.windingDown c ∧ index = t.next ∧ index < t.granted then s.setTag c { t with next := t.next + 1 }
      else if op ≠ .write ∨ index ≠ t.next ∨ t.granted ≤ index then protocolError c s
      else if blockCheck block ≠ check then
        windDown c false (some { result := .dataCheck, block := none }) (s.setTag c { t with next := t.next + 1 })
      else placeData c block s

/-- A STOP for an OPEN tag (R57, R158). -/
def takeStop (c : CmdId) (s : State) : State :=
  if (s.deferred? c).isSome then sendStatus c .stopped 0 none 0 (dropDeferred c s)
  else match s.rec? c with
    | none => s
    | some r =>
        match r.state with
        | .waiting => endRecord c .stopped 0 none 0 s
        | .held => endRecord c .stopped 0 none 0 s
        | .active => windDown c true (some { result := .stopped, block := none }) s
        | .journalWait => mapRec c (fun x => { x with stopNoted := true }) s
        | _ => s

/-- Every response owed to a port that is reset is owed to none (R19, R116, R133, R149, R182). -/
def detach (p : Port) (s : State) : State :=
  let gone : Option Port → Option Port := fun o => if o = some p then none else o
  { s with
    map := { s.map with activation := s.map.activation.map fun a => { a with owed := gone a.owed } },
    mnt := { s.mnt with format := s.mnt.format.map fun f => { f with owed := gone f.owed } },
    mrg := { s.mrg with
      discard := s.mrg.discard.map fun d => { d with owed := gone d.owed },
      haltOwed := s.mrg.haltOwed.filter fun x => decide (x ≠ p) },
    jrn := { s.jrn with run := s.jrn.run.map fun r => { r with owed := gone r.owed } } }

/-- The Management Unit's state for a port that is reset (R182). -/
def PortMgmt.portReset (m : PortMgmt) : PortMgmt :=
  { m with lastSeq := none, inProgress := none, response := Response.empty }

/-- The grant accounts of a tag are voided (R162). -/
def Tag.voided (t : Tag) : Tag := { t with granted := 0, moved := 0, next := 0 }

/-- The port's link condition becomes RESETTING and its grant accounts are voided (R162). -/
def startResetting (p : Port) (s : State) : State :=
  s.setHp p { condition := .resetting, tags := (s.hp p).tags.map Tag.voided }

/-- A port reset (R58, R162, R182). The port's records are taken in the order in which they were created (log entry 37). -/
def portReset (p : Port) (s : State) : State :=
  let s1 : State := { s with adm := { s.adm with deferred := s.adm.deferred.filter fun a => decide (a.id.port ≠ p) } }
  let s2 := startResetting p ((s1.portRecords p).foldl (fun t c => cutOff c t) s1)
  let s3 := setMap (dropStage p) (detach p s2)
  raise (.portReset p) none (s3.setMg p (s3.mg p).portReset)

/-! ## Meanings -/

/-- DEVICE_RESET (R134): every block returns to its device-reset state, the hold state is latched, and the mount's link
stage sends LINKRESET. The frames sent before, the name of the next free value and the commands that wait are the model's
own and stay (log entry 6). -/
def execDeviceReset (hold : Bool) (s : State) : Host.Outcome State Fault Refusal :=
  .next { State.reset with
    map := { MapUnit.reset with hold := hold },
    outA := s.outA, outB := s.outB, outT := s.outT ++ [.linkreset], free := s.free, pending := s.pending }

/-- DISCARDED_FRAME (R151): nothing follows from it. -/
def execDiscardedFrame (_link : LinkId) (_bytes : List Byte) (s : State) : Host.Outcome State Fault Refusal := .next s

/-- READ (R38, R153). -/
def execRead (p : Port) (tag first count : Nat) (durable : Bool) (s : State) : Host.Outcome State Fault Refusal :=
  .next (acceptCmd { port := p, tag := tag } .read first count durable s)

/-- WRITE (R38, R153). -/
def execWrite (p : Port) (tag first count : Nat) (durable : Bool) (s : State) : Host.Outcome State Fault Refusal :=
  .next (acceptCmd { port := p, tag := tag } .write first count durable s)

/-- FLUSH (R80, R153). -/
def execFlush (p : Port) (tag first count : Nat) (durable : Bool) (s : State) : Host.Outcome State Fault Refusal :=
  .next (acceptCmd { port := p, tag := tag } .flush first count durable s)

/-- SIZE (R81, R153). -/
def execSize (p : Port) (tag first count : Nat) (durable : Bool) (s : State) : Host.Outcome State Fault Refusal :=
  .next (acceptCmd { port := p, tag := tag } .size first count durable s)

/-- UNKNOWN_OPERATION (R44, R153). -/
def execUnknownOperation (p : Port) (tag code first count : Nat) (durable : Bool) (s : State) :
    Host.Outcome State Fault Refusal :=
  .next (acceptCmd { port := p, tag := tag } (.unknown code) first count durable s)

/-- GRANT (R154): discarded while the port is RESETTING or the tag FREE. -/
def execGrant (p : Port) (tag count : Nat) (s : State) : Host.Outcome State Fault Refusal :=
  let c : CmdId := { port := p, tag := tag }
  .next (if s.portUp p && (s.tag c).isOpen then settleDown (takeGrant c count s) else s)

/-- DATA (R154): discarded while the port is RESETTING or the tag FREE. -/
def execData (p : Port) (tag index : Nat) (block : Block) (check : BitVec 32) (s : State) :
    Host.Outcome State Fault Refusal :=
  let c : CmdId := { port := p, tag := tag }
  .next (if s.portUp p && (s.tag c).isOpen then settleDown (takeData c index block check s) else s)

/-- STOP (R158): discarded while the port is RESETTING, answered NO_COMMAND for a FREE tag. -/
def execStop (p : Port) (tag : Nat) (s : State) : Host.Outcome State Fault Refusal :=
  let c : CmdId := { port := p, tag := tag }
  .next (if !s.portUp p || decide (Config.hostTags ≤ tag) then s
    else if (s.tag c).isOpen then settleDown (takeStop c s)
    else sendStatus c .noCommand 0 none 0 s)

/-- LINKRESET (R162): starts a port reset, and RESET_DONE is sent in the same act when no record is left (R163). -/
def execLinkreset (p : Port) (s : State) : Host.Outcome State Fault Refusal :=
  .next (if s.portUp p then resetDoneCheck p (portReset p s) else s)

/-- RESET_DONE (R163): a resetting port without a record answers. The act in which its last record leaves does so already
(leave), so that this command finds it done (log entry 1). -/
def execResetDone (p : Port) (s : State) : Host.Outcome State Fault Refusal := .next (resetDoneCheck p s)

/-- DEFERRED_ARRIVAL_BECOMES_RECORD (R40): a deferred arrival whose tag has no record becomes the tag's record. The act in
which the orphan leaves does so already (leave), so that this command finds it done (log entry 1). -/
def execDeferredArrivalBecomesRecord (p : Port) (tag : Nat) (s : State) : Host.Outcome State Fault Refusal :=
  .next (lateCreation { port := p, tag := tag } s)

/-- ORPHAN_LEAVES (R59): an ORPHANED record whose last target operation has ended, and which no relocation names, leaves. -/
def execOrphanLeaves (p : Port) (tag : Nat) (s : State) : Host.Outcome State Fault Refusal :=
  let c : CmdId := { port := p, tag := tag }
  .next (match s.rec? c with
    | some r => if s.orphanMayLeave r then leave c s else s
    | none => s)

/-- DATA_WAIT_EXPIRY (R161): a record whose data-wait timer runs is wound down with DATA_TIMEOUT. -/
def execDataWaitExpiry (p : Port) (tag : Nat) (s : State) : Host.Outcome State Fault Refusal :=
  let c : CmdId := { port := p, tag := tag }
  .next (match s.rec? c with
    | some r =>
        if dataWaitRuns r (s.tag c) then windDown c false (some { result := .dataTimeout, block := none }) s else s
    | none => s)

end Sys2Proof.Machine
end

