-- ==== Sys2Proof/Machine/Internal.lean ====
section
/-! DEFINITION. The commands that are the part's own steps, frames from the target and expiries of the target port
(R16, R41, R52, R54, R66, R72, R73, R84, R90, R96 to R99, R105, R114, R119, R120, R165). -/

namespace Sys2Proof.Machine

/-! ## Shared operations -/

/-- What follows once a buffer claim of `n` buffers has been charged (R67, R90, R105, R126, R127). -/
def claimMet (who : ClaimFor) (n : Nat) (s : State) : State :=
  match who with
  | .piece c i =>
      match s.rec? c with
      | none => s
      | some r =>
          let t := mapPiece c i (fun p => { p with held := n, state := .filling }) s
          if r.op = .read then claimNext c (issuePiece c i t) else claimNext c (sendGrants grantRounds c t)
  | .reloc g =>
      match s.reloc? g with
      | none => s
      | some r => relocReads g r.copySet (mapReloc g (fun x => { x with held := n, claiming := false }) s)
  | .merge =>
      match s.mrg.grain with
      | none => s
      | some mg => mergeReads mg.slot mg.copySet (mapGrain (fun x => { x with held := n, claiming := false }) s)
  | .ckBody _ => formBody s
  | .ckHeader _ => formHeader s
  | .anchor => anchorMet s
  | .format => formatMet s
  | .mount => mountMet s

/-- The head claim of an owner's queue is met when its charge leaves room for it whole (R66). -/
def meetClaim (o : BufOwner) (s : State) : State :=
  match s.pool.claims o with
  | [] => s
  | c :: rest =>
      if s.pool.charge o + c.count ≤ quotaOf o then
        claimMet c.who c.count { s with pool := (s.pool.setClaims o rest).setCharge o (s.pool.charge o + c.count) }
      else s

/-- A STATUS from the target (R165): while the link is not UP, only that of the outstanding SIZE on tag 0 is taken. -/
def takeStatus (tag result done : Nat) (detail : Option Nat) (value : Nat) (s : State) : State :=
  if s.te.link = .up then
    match s.op? tag with
    | none => s
    | some o => endOp o result done detail s
  else if tag = 0 then linkSizeStatus result value s
  else s

/-- The operation of a tag to which a frame from the target may apply: the link is UP and no STOP was sent (R165). -/
def State.openOp (s : State) (tag : Nat) : Option TargetOp :=
  if s.te.link = .up then (s.op? tag).filter fun o => decide (o.stop = none) else none

/-! ## Meanings -/

/-- ADMISSION (R41, R42): the next admissible WAITING record is taken through the checks. -/
def execAdmission (s : State) : Host.Outcome State Fault Refusal :=
  .next (match s.nextAdmission with
    | some r => settleDown (admitRecord r (servePort r.id.port s))
    | none => s)

/-- HELD_CLAIM_START (R54): re-examination. A queued relocation that a leaving claim let in has been placed before it, in the
act of the leaving (R53, steps 5 and 6). -/
def execHeldClaimStart (s : State) : Host.Outcome State Fault Refusal :=
  .next (settleDown (reexamine (s.adm.order.length + 1) s))

/-- BUFFER_CLAIM_MET (R66, R67). -/
def execBufferClaimMet (owner : BufOwner) (s : State) : Host.Outcome State Fault Refusal :=
  .next (settleDown (meetClaim owner s))

/-- TARGET_TAG_GRANT (R72). -/
def execTargetTagGrant (s : State) : Host.Outcome State Fault Refusal := .next (grantOne s)

/-- TARGET_STATUS (R73, R83, R165). -/
def execTargetStatus (tag result blocksDone : Nat) (detail : Option Nat) (value : Nat) (s : State) :
    Host.Outcome State Fault Refusal :=
  .next (settleDown (takeStatus tag result blocksDone detail value s))

/-- RELOCATION_CLAIM_GRANT (R90): a placed relocation whose claim stands granted begins its copy. -/
def execRelocationClaimGrant (grain : Nat) (s : State) : Host.Outcome State Fault Refusal :=
  .next (match s.reloc? grain with
    | some r =>
        if r.stage = .held ∧ s.claimGranted (.reloc grain) = true then settleDown (relocBegin grain s) else s
    | none => s)

/-- RELOCATION_PLACEMENT (R52): with fewer than four relocation claims, the oldest queued request is placed. The act in which
a relocation claim leaves does so already (relocLeave), so that this command finds it done (log entry 1). -/
def execRelocationPlacement (s : State) : Host.Outcome State Fault Refusal := .next (placeQueued s)

/-- MERGE_GRAIN_CLAIM_GRANT (R105). -/
def execMergeGrainClaimGrant (s : State) : Host.Outcome State Fault Refusal :=
  .next (match s.mrg.grain with
    | some mg =>
        if mg.stage = .waiting ∧ s.claimGranted (.merge s.mrg.cursor) = true then mergeTake s else s
    | none => s)

/-- DISCARD_CLAIM_GRANT (R114). -/
def execDiscardClaimGrant (s : State) : Host.Outcome State Fault Refusal :=
  .next (match s.mrg.discard with
    | some d =>
        if d.placed && s.adm.order.any (fun x => x.granted && x.isDiscard) && !s.handOffWaits .discard && d.record.isNone then
          settleDown (discardTake d s)
        else s
    | none => s)

/-- JOURNAL_HANDOFF_TAKEN (R119): as many waiting hand-offs as the conditions allow. -/
def execJournalHandoffTaken (s : State) : Host.Outcome State Fault Refusal := .next (settleDown (takeHandOffs s))

/-- JOURNAL_BLOCK_CLOSE (R120). -/
def execJournalBlockClose (s : State) : Host.Outcome State Fault Refusal :=
  .next (if s.canClose then settleDown (closeAndTake s) else s)

/-- DRAIN_END (R16): no counted record is left. -/
def execDrainEnd (s : State) : Host.Outcome State Fault Refusal :=
  .next (match s.map.activation with
    | some a => if a.draining && decide (a.remaining = 0) then endDrain a s else s
    | none => s)

/-- TARGET_GRANT (R165). -/
def execTargetGrant (tag count : Nat) (s : State) : Host.Outcome State Fault Refusal :=
  .next (match s.openOp tag with
    | some o => takeTargetGrant o count s
    | none => s)

/-- TARGET_DATA (R84, R165). -/
def execTargetData (tag index : Nat) (block : Block) (check : BitVec 32) (s : State) : Host.Outcome State Fault Refusal :=
  .next (match s.openOp tag with
    | some o => takeTargetData o index block check s
    | none => s)

/-- TARGET_RESET_DONE (R98, R99, R165): SIZE is issued, unless the link is UP or a SIZE is outstanding. -/
def execTargetResetDone (s : State) : Host.Outcome State Fault Refusal :=
  .next (if s.te.link = .up ∨ s.linkSize?.isSome then s else issueSize s)

/-- LINK_SIZE_COMPLETE (R98, R99, R138). -/
def execLinkSizeComplete (result value : Nat) (s : State) : Host.Outcome State Fault Refusal :=
  .next (settleDown (linkSizeStatus result value s))

/-- TARGET_OPERATION_TIMEOUT (R96): STOP is sent for an operation whose timer runs. -/
def execTargetOperationTimeout (tag : Nat) (s : State) : Host.Outcome State Fault Refusal :=
  .next (match s.openOp tag with
    | some _ => stopOp tag .timeout s
    | none => s)

/-- STOP_WAIT_EXPIRY (R97): no STATUS within the wait that follows a STOP. -/
def execStopWaitExpiry (tag : Nat) (s : State) : Host.Outcome State Fault Refusal :=
  .next (match s.op? tag with
    | some o => if s.te.link = .up ∧ o.stop ≠ none then resetLink s else s
    | none => s)

/-- RESET_DONE_WAIT_EXPIRY (R98, R138). -/
def execResetDoneWaitExpiry (s : State) : Host.Outcome State Fault Refusal :=
  .next (if s.te.resetWait then settleDown (linkDown .noResetDone s) else s)

/-- SIZE_WAIT_EXPIRY (R98, R138). -/
def execSizeWaitExpiry (s : State) : Host.Outcome State Fault Refusal :=
  .next (match s.linkSize? with
    | some o => settleDown (linkDown .sizeFailed (removeOp o.tag s))
    | none => s)

/-- NOT_READY_RETRY_INTERVAL (R84, R97, R99): the retry whose interval ends first is requested. -/
def execNotReadyRetryInterval (s : State) : Host.Outcome State Fault Refusal :=
  .next (match s.te.intervals with
    | r :: rest => settleDown (enqueue r { s with te := { s.te with intervals := rest } })
    | [] => s)

/-- LINKRESET_REPEAT (R99): while the link is DOWN, LINKRESET is sent again; one that falls due while a SIZE is outstanding
is held. -/
def execLinkresetRepeat (s : State) : Host.Outcome State Fault Refusal :=
  .next (if s.te.link = .down then
      if s.linkSize?.isSome then { s with te := { s.te with resetDue := true } } else s.sendT .linkreset
    else s)

end Sys2Proof.Machine
end

