-- ==== Sys2Proof/Machine/Requests.lean ====
section
/-! DEFINITION. The commands that are management requests: a request block handed to the Management Unit (R169, R170). -/

namespace Sys2Proof.Machine

/-- STAGE (R10). -/
def execStage (p : Port) (q : BitVec 16) (s : State) : Host.Outcome State Fault Refusal :=
  .next (request p q .stage s)

/-- PUT_REGION (R11). -/
def execPutRegion (p : Port) (q : BitVec 16) (index policy : Nat) (readPorts writePorts : PortSet) (first count target : Nat)
    (s : State) : Host.Outcome State Fault Refusal :=
  .next (request p q (.putRegion index policy readPorts writePorts first count target) s)

/-- CLEAR_REGION (R12). -/
def execClearRegion (p : Port) (q : BitVec 16) (index : Nat) (s : State) : Host.Outcome State Fault Refusal :=
  .next (request p q (.clearRegion index) s)

/-- SET_CAPACITY (R12). -/
def execSetCapacity (p : Port) (q : BitVec 16) (capacity : Nat) (s : State) : Host.Outcome State Fault Refusal :=
  .next (request p q (.setCapacity capacity) s)

/-- UNSTAGE (R13). -/
def execUnstage (p : Port) (q : BitVec 16) (s : State) : Host.Outcome State Fault Refusal :=
  .next (request p q .unstage s)

/-- ACTIVATE (R14). -/
def execActivate (p : Port) (q : BitVec 16) (s : State) : Host.Outcome State Fault Refusal :=
  .next (request p q .activate s)

/-- SET_LAYOUT (R146). -/
def execSetLayout (p : Port) (q : BitVec 16) (layout : Layout) (s : State) : Host.Outcome State Fault Refusal :=
  .next (request p q (.setLayout layout) s)

/-- MERGE (R103). -/
def execMerge (p : Port) (q : BitVec 16) (index : Nat) (s : State) : Host.Outcome State Fault Refusal :=
  .next (request p q (.merge index) s)

/-- HALT_MERGE (R110). -/
def execHaltMerge (p : Port) (q : BitVec 16) (s : State) : Host.Outcome State Fault Refusal :=
  .next (request p q .haltMerge s)

/-- DISCARD (R113). -/
def execDiscard (p : Port) (q : BitVec 16) (index : Nat) (s : State) : Host.Outcome State Fault Refusal :=
  .next (request p q (.discard index) s)

/-- CHECKPOINT (R129). -/
def execCheckpoint (p : Port) (q : BitVec 16) (s : State) : Host.Outcome State Fault Refusal :=
  .next (request p q .checkpoint s)

/-- QUERY_REGION (R173). -/
def execQueryRegion (p : Port) (q : BitVec 16) (index map : Nat) (s : State) : Host.Outcome State Fault Refusal :=
  .next (request p q (.queryRegion index map) s)

/-- QUERY_OVERLAY (R174). -/
def execQueryOverlay (p : Port) (q : BitVec 16) (grain : Nat) (s : State) : Host.Outcome State Fault Refusal :=
  .next (request p q (.queryOverlay grain) s)

/-- QUERY_SLOTS (R175). -/
def execQuerySlots (p : Port) (q : BitVec 16) (s : State) : Host.Outcome State Fault Refusal :=
  .next (request p q .querySlots s)

/-- QUERY_RETIRED (R175). -/
def execQueryRetired (p : Port) (q : BitVec 16) (start : Nat) (s : State) : Host.Outcome State Fault Refusal :=
  .next (request p q (.queryRetired start) s)

/-- QUERY_JOURNAL (R176). -/
def execQueryJournal (p : Port) (q : BitVec 16) (s : State) : Host.Outcome State Fault Refusal :=
  .next (request p q .queryJournal s)

/-- ACK_NOTICES (R180). -/
def execAckNotices (p : Port) (q : BitVec 16) (n : BitVec 32) (s : State) : Host.Outcome State Fault Refusal :=
  .next (request p q (.ackNotices n) s)

/-- UNKNOWN_REQUEST (R170). -/
def execUnknownRequest (p : Port) (q : BitVec 16) (code : Nat) (s : State) : Host.Outcome State Fault Refusal :=
  .next (request p q (.unknown code) s)

end Sys2Proof.Machine
end

