-- ==== Sys2Proof/Machine/Dispatch.lean ====
section
/-! DEFINITION. One arm per command: the meaning it calls. -/

namespace Sys2Proof.Machine

def exec (i : Instr) (s : State) : Host.Outcome State Fault Refusal :=
  match i with
  | .deviceReset hold => Sys2Proof.Machine.execDeviceReset hold s
  | .discardedFrame link bytes => Sys2Proof.Machine.execDiscardedFrame link bytes s
  | .read p tag first count durable => Sys2Proof.Machine.execRead p tag first count durable s
  | .write p tag first count durable => Sys2Proof.Machine.execWrite p tag first count durable s
  | .flush p tag first count durable => Sys2Proof.Machine.execFlush p tag first count durable s
  | .size p tag first count durable => Sys2Proof.Machine.execSize p tag first count durable s
  | .unknownOperation p tag code first count durable => Sys2Proof.Machine.execUnknownOperation p tag code first count durable s
  | .grant p tag count => Sys2Proof.Machine.execGrant p tag count s
  | .data p tag index block check => Sys2Proof.Machine.execData p tag index block check s
  | .stop p tag => Sys2Proof.Machine.execStop p tag s
  | .linkreset p => Sys2Proof.Machine.execLinkreset p s
  | .resetDone p => Sys2Proof.Machine.execResetDone p s
  | .deferredArrivalBecomesRecord p tag => Sys2Proof.Machine.execDeferredArrivalBecomesRecord p tag s
  | .orphanLeaves p tag => Sys2Proof.Machine.execOrphanLeaves p tag s
  | .admission => Sys2Proof.Machine.execAdmission s
  | .heldClaimStart => Sys2Proof.Machine.execHeldClaimStart s
  | .bufferClaimMet owner => Sys2Proof.Machine.execBufferClaimMet owner s
  | .targetTagGrant => Sys2Proof.Machine.execTargetTagGrant s
  | .targetStatus tag result blocksDone detail value => Sys2Proof.Machine.execTargetStatus tag result blocksDone detail value s
  | .relocationClaimGrant grain => Sys2Proof.Machine.execRelocationClaimGrant grain s
  | .relocationPlacement => Sys2Proof.Machine.execRelocationPlacement s
  | .mergeGrainClaimGrant => Sys2Proof.Machine.execMergeGrainClaimGrant s
  | .discardClaimGrant => Sys2Proof.Machine.execDiscardClaimGrant s
  | .journalHandoffTaken => Sys2Proof.Machine.execJournalHandoffTaken s
  | .journalBlockClose => Sys2Proof.Machine.execJournalBlockClose s
  | .drainEnd => Sys2Proof.Machine.execDrainEnd s
  | .targetGrant tag count => Sys2Proof.Machine.execTargetGrant tag count s
  | .targetData tag index block check => Sys2Proof.Machine.execTargetData tag index block check s
  | .targetResetDone => Sys2Proof.Machine.execTargetResetDone s
  | .linkSizeComplete result value => Sys2Proof.Machine.execLinkSizeComplete result value s
  | .dataWaitExpiry p tag => Sys2Proof.Machine.execDataWaitExpiry p tag s
  | .targetOperationTimeout tag => Sys2Proof.Machine.execTargetOperationTimeout tag s
  | .stopWaitExpiry tag => Sys2Proof.Machine.execStopWaitExpiry tag s
  | .resetDoneWaitExpiry => Sys2Proof.Machine.execResetDoneWaitExpiry s
  | .sizeWaitExpiry => Sys2Proof.Machine.execSizeWaitExpiry s
  | .notReadyRetryInterval => Sys2Proof.Machine.execNotReadyRetryInterval s
  | .linkresetRepeat => Sys2Proof.Machine.execLinkresetRepeat s
  | .stage p q => Sys2Proof.Machine.execStage p q s
  | .putRegion p q index policy readPorts writePorts first count target => Sys2Proof.Machine.execPutRegion p q index policy readPorts writePorts first count target s
  | .clearRegion p q index => Sys2Proof.Machine.execClearRegion p q index s
  | .setCapacity p q capacity => Sys2Proof.Machine.execSetCapacity p q capacity s
  | .unstage p q => Sys2Proof.Machine.execUnstage p q s
  | .activate p q => Sys2Proof.Machine.execActivate p q s
  | .setLayout p q layout => Sys2Proof.Machine.execSetLayout p q layout s
  | .merge p q index => Sys2Proof.Machine.execMerge p q index s
  | .haltMerge p q => Sys2Proof.Machine.execHaltMerge p q s
  | .discard p q index => Sys2Proof.Machine.execDiscard p q index s
  | .checkpoint p q => Sys2Proof.Machine.execCheckpoint p q s
  | .queryRegion p q index map => Sys2Proof.Machine.execQueryRegion p q index map s
  | .queryOverlay p q grain => Sys2Proof.Machine.execQueryOverlay p q grain s
  | .querySlots p q => Sys2Proof.Machine.execQuerySlots p q s
  | .queryRetired p q start => Sys2Proof.Machine.execQueryRetired p q start s
  | .queryJournal p q => Sys2Proof.Machine.execQueryJournal p q s
  | .ackNotices p q n => Sys2Proof.Machine.execAckNotices p q n s
  | .unknownRequest p q code => Sys2Proof.Machine.execUnknownRequest p q code s

end Sys2Proof.Machine
end

