-- ==== Sys2Proof/Safety.lean ====
section
/-! DEFINITION. The words the statements use: the invariants of the part, a request's acceptance and answer, and the
commands named by what they carry. -/

namespace Sys2Proof

/-- The CMD frame of an operation as a command. -/
def hostCommand (op : Machine.HostOp) (p : Port) (tag first count : Nat) (durable : Bool) : Instr :=
  match op with
  | .read => .read p tag first count durable
  | .write => .write p tag first count durable
  | .flush => .flush p tag first count durable
  | .size => .size p tag first count durable
  | .unknown code => .unknownOperation p tag code first count durable

/-- The host port a frame from a host arrives on; none for the other commands. -/
def Instr.hostPort? : Instr → Option Port
  | .read p _ _ _ _ => some p
  | .write p _ _ _ _ => some p
  | .flush p _ _ _ _ => some p
  | .size p _ _ _ _ => some p
  | .unknownOperation p _ _ _ _ _ => some p
  | .grant p _ _ => some p
  | .data p _ _ _ _ => some p
  | .stop p _ => some p
  | .linkreset p => some p
  | _ => none

/-- The port, sequence and request code of a management request; none for the other commands. -/
def Instr.request? : Instr → Option (Port × BitVec 16 × Nat)
  | .stage p q => some (p, q, 0x01)
  | .putRegion p q _ _ _ _ _ _ _ => some (p, q, 0x02)
  | .clearRegion p q _ => some (p, q, 0x03)
  | .setCapacity p q _ => some (p, q, 0x04)
  | .unstage p q => some (p, q, 0x05)
  | .activate p q => some (p, q, 0x06)
  | .setLayout p q _ => some (p, q, 0x10)
  | .merge p q _ => some (p, q, 0x20)
  | .haltMerge p q => some (p, q, 0x21)
  | .discard p q _ => some (p, q, 0x22)
  | .checkpoint p q => some (p, q, 0x23)
  | .queryRegion p q _ _ => some (p, q, 0x30)
  | .queryOverlay p q _ => some (p, q, 0x31)
  | .querySlots p q => some (p, q, 0x32)
  | .queryRetired p q _ => some (p, q, 0x33)
  | .queryJournal p q => some (p, q, 0x34)
  | .ackNotices p q _ => some (p, q, 0x40)
  | .unknownRequest p q code => some (p, q, code)
  | _ => none

/-- The request of a management request command; none for the other commands. -/
def Instr.management? : Instr → Option Machine.MReq
  | .stage _ _ => some .stage
  | .putRegion _ _ i k rp wp f c t => some (.putRegion i k rp wp f c t)
  | .clearRegion _ _ i => some (.clearRegion i)
  | .setCapacity _ _ c => some (.setCapacity c)
  | .unstage _ _ => some .unstage
  | .activate _ _ => some .activate
  | .setLayout _ _ l => some (.setLayout l)
  | .merge _ _ i => some (.merge i)
  | .haltMerge _ _ => some .haltMerge
  | .discard _ _ i => some (.discard i)
  | .checkpoint _ _ => some .checkpoint
  | .queryRegion _ _ i m => some (.queryRegion i m)
  | .queryOverlay _ _ g => some (.queryOverlay g)
  | .querySlots _ _ => some .querySlots
  | .queryRetired _ _ i => some (.queryRetired i)
  | .queryJournal _ _ => some .queryJournal
  | .ackNotices _ _ n => some (.ackNotices n)
  | .unknownRequest _ _ code => some (.unknown code)
  | _ => none

namespace Machine

/-! ## Records and requests -/

/-- The record of a command that has just arrived (R38). -/
def waitingRecord (c : CmdId) (op : HostOp) (first count : Nat) (durable : Bool) : Record :=
  { id := c, op := op, first := first, count := count, durable := durable, state := .waiting, path := none, region := none,
    plan := [], counted := false, stopNoted := false, winding := false, result := none, cut := none, latest := none,
    window := [] }

/-- A map with one entry replaced. -/
def RegionMap.put (m : RegionMap) (index : Nat) (r : Region) : RegionMap := { m with regions := m.regions.set index r }

/-- Whether the fields of a request fit the bytes of its request block (11.5). -/
def MReq.fits : MReq → Bool
  | .putRegion index policy _ _ first count target =>
      isByte index && decide (policy < 8) && isAddress first && isAddress count && isAddress target
  | .clearRegion index => isByte index
  | .setCapacity c => isAddress c
  | .setLayout l => l.fits
  | .merge index => isByte index
  | .discard index => isByte index
  | .queryRegion index map => isByte index && isByte map
  | .queryOverlay grain => isAddress grain
  | .queryRetired start => isHalf start
  | .unknown code => isByte code && !requestCodes.contains code
  | _ => true

/-- Case 3 of R169: no request is in progress, and the sequence is the next one, or the first one of all. -/
def PortMgmt.canPost (m : PortMgmt) (q : BitVec 16) : Prop :=
  m.inProgress = none ∧ ∀ l, m.lastSeq = some l → q = l + 1

/-- The device state is BLANK or READY. -/
def State.mounted (s : State) : Prop := s.mnt.dev = .blank ∨ s.mnt.dev = .ready

/-- A request of this port and sequence is accepted and reaches its owner (R169, R170). -/
def State.accepts (s : State) (p : Port) (q : BitVec 16) : Prop := (s.mg p).canPost q ∧ s.mounted

/-- The state in which the request of a port has been accepted and answered, and nothing else has changed. -/
def State.answered (s : State) (p : Port) (q : BitVec 16) (code : Nat) (res : Reply) (n1 n2 n3 n4 : Nat)
    (items : List (List Byte)) : State :=
  s.setMg p { s.mg p with
    lastSeq := some q, inProgress := none,
    response := { state := .done, seq := some q, code := some code, result := some res, n1 := n1, n2 := n2, n3 := n3,
                  n4 := n4, items := items } }

/-- The answer without summary and items. -/
def State.plainly (s : State) (p : Port) (q : BitVec 16) (code : Nat) (res : Reply) : State :=
  s.answered p q code res 0 0 0 0 []

/-- The state in which the request of a port has been accepted and waits for its answer, and nothing else has changed. -/
def State.inProgressFor (s : State) (p : Port) (q : BitVec 16) (code : Nat) : State :=
  s.setMg p { s.mg p with
    lastSeq := some q, inProgress := some q,
    response := { state := .inProgress, seq := some q, code := some code, result := none, n1 := 0, n2 := 0, n3 := 0,
                  n4 := 0, items := [] } }

/-- The STATUS frame a port sends as its notice queue stands. -/
def State.statusFor (s : State) (c : CmdId) (res : Result) (done : Nat) (detail : Option Nat) (value : Nat) : HostFrame :=
  .status c.tag res done detail value (s.mg c.port).attention

/-- A command has ended: the record of its tag is gone, its tag is FREE, and the frames that end it have been sent. -/
def State.endedWith (t s : State) (c : CmdId) (frames : List HostFrame) : Prop :=
  t.rec? c = none ∧ (t.tag c).isOpen = false ∧ t.out c.port = s.out c.port ++ frames

/-- The port of a record is UP and its tag has no deferred arrival, so that its STATUS is the last that follows from its end. -/
def State.answerable (s : State) (c : CmdId) : Prop := (s.hp c.port).condition = .up ∧ s.deferred? c = none

/-! ## Admission -/

/-- A record is taken next and passes the checks before the reservation: READ or WRITE, to region `i` (R42 to R46). -/
def State.reachesRegion (s : State) (r : Record) (i : Nat) : Prop :=
  s.nextAdmission = some r ∧ s.te.link ≠ .down ∧ s.mnt.dev = .ready ∧ 1 ≤ r.count ∧ r.count ≤ 256 ∧
    rangeTouchesWindow r.first r.count = false ∧ offending s.map.active r.first r.count = none ∧
    s.map.active.lookup r.first = some i ∧
    accessDecision (s.viewOf i).policy (decide (r.op = .write)) r.id.port (s.map.active.region i)
      (s.map.unavailable.getD i false) s.jrn.cond = none ∧
    ∀ x ∈ s.adm.order, x.ref ≠ .cmd r.id

/-- A claim in the admitted order conflicts with the range of a record (R50). -/
def State.claimAhead (s : State) (r : Record) : Bool :=
  s.adm.order.any fun x => match s.claimAt x.ref with
    | some e => claimsConflict e ⟨r.first, r.count, decide (r.op = .write), s.borrowed r.id⟩
    | none => false

/-- The grains of a record that need a slot (R27). -/
def State.neededBy (s : State) (r : Record) : List Nat := (grainsOf r.first r.count).filter s.needsSlot

/-- The reservation of `needed` grains from a ring of `n` slots succeeds: none is needed, or the relocation reserve of 4 slots
and the table's capacity allow it (R20, R27, R34). -/
def State.roomFor (s : State) (n : Nat) (needed : List Nat) : Prop :=
  needed = [] ∨ (needed.length + 4 ≤ n ∧
    s.entryPlaces + (needed.filter fun g => (s.entry? g).isNone).length ≤ 16384)

/-- A reservation once a record has given it up: it passes to the oldest sharer or is gone, and a sharer is out of it (R28). -/
def Reservation.without (c : CmdId) (x : Reservation) : Option Reservation :=
  if x.holder = c then
    match x.sharers with
    | [] => none
    | y :: ys => some { x with holder := y, sharers := ys }
  else some { x with sharers := x.sharers.filter fun d => decide (d ≠ c) }

/-- The slots that come back when a record gives up the reservations of some grains: those it holds alone (R28). -/
def State.comeBack (s : State) (c : CmdId) (grains : List Nat) : List Nat :=
  grains.filterMap fun g => match s.reservation? g with
    | some x => if x.holder = c ∧ x.sharers = [] then some x.slot else none
    | none => none

/-- The reservations after a taking: each needed grain has the next slot of the ring for the record, and of the other grains
the record shares the reservations that stand on those it touches (R27). -/
def State.reservedFor (t s : State) (ring : List Nat) (c : CmdId) (grains needed : List Nat) : Prop :=
  (∀ j g : Nat, needed[j]? = some g → ∃ n : Nat, ring[j]? = some n ∧ t.reservation? g = some ⟨g, n, c, []⟩) ∧
    ∀ g, g ∉ needed → t.reservation? g = (s.reservation? g).map fun x => if g ∈ grains then x.join c else x

/-- The grains of a record whose entry has a slot. -/
def State.boundGrains (s : State) (r : Record) : List Nat := (grainsOf r.first r.count).filter fun g => (s.slotOf g).isSome

/-- The reservations after a record has settled with a ring of slots (R29): each needed grain has the next slot of the ring for
the record; what it had of grains whose entry has a slot is given up; it shares those that stand on its other grains (log
entry 31); and those of other grains stay. -/
def State.settledFor (t s : State) (ring : List Nat) (r : Record) : Prop :=
  (∀ j g : Nat, (s.neededBy r)[j]? = some g →
    ∃ n : Nat, ring[j]? = some n ∧ t.reservation? g = some ⟨g, n, r.id, []⟩) ∧
  (∀ g, g ∈ s.boundGrains r → t.reservation? g = (s.reservation? g).bind (Reservation.without r.id)) ∧
  (∀ g, g ∈ grainsOf r.first r.count → s.slotOf g = none → g ∉ s.neededBy r →
    t.reservation? g = (s.reservation? g).map (Reservation.join r.id)) ∧
  ∀ g, g ∉ grainsOf r.first r.count → t.reservation? g = s.reservation? g

/-- None of the first places of the admitted order can be started: a held one is held by what stands before it (R51, R54). -/
def State.noneStarts (s : State) (pre : List Placed) : Prop :=
  ∀ a y z, pre = a ++ y :: z → s.placeHeld y = true → s.heldBy a y.ref = true

/-- Re-examination ends after one start: no other place was held, or none can be started after it (R54). -/
def State.examinedFrom (t s : State) (others : List Placed) : Prop :=
  (∀ x ∈ others, s.placeHeld x = false) ∨ t.firstStartable = none

/-- A record of a region has been started (R55): it is ACTIVE with its plan, the buffers of the first piece are claimed, and
no frame has been sent. -/
def State.startedAs (t s : State) (c : CmdId) (v : RegionView) (plan : List Piece) : Prop :=
  (∃ r, t.rec? c = some r ∧ r.state = .active ∧ r.path = some .region ∧ r.region = some v ∧ r.plan = plan) ∧
    t.pool.claims (.host c.port) =
      s.pool.claims (.host c.port) ++ [⟨.piece c 0, ((plan[0]?).map (·.count)).getD 0⟩] ∧
    t.outA = s.outA ∧ t.outB = s.outB ∧ t.outT = s.outT

/-! ## Target operations -/

/-- The target has carried out the operation of a tag: no STOP was sent, and every block was transferred. -/
def State.carriedOut (s : State) (tag : Nat) (o : TargetOp) : Prop :=
  s.te.link = .up ∧ s.op? tag = some o ∧ o.stop = none ∧ o.complete = true

/-- The operation of a tag is the last that an owner waits for. -/
def State.lastOf (s : State) (tag : Nat) (mine : Owner → Bool) : Prop := (removeOp tag s).hasWork mine = false

/-- Once no block is in flight, the open buffer is to be closed: under NORMAL with room in the journal, it holds 30 records, or
one that something waits on and that is not among those named (R120). -/
def State.bufferDue (s : State) (named : List Nat) : Prop :=
  s.jrn.cond = .normal ∧ s.jrn.live < s.journalLen ∧ s.jrn.openBuf ≠ [] ∧
    (s.jrn.openBuf.length = 30 ∨ ∃ r ∈ s.jrn.openBuf, r.id ∉ named ∧ s.waitedOn r.id = true)

/-- A region has been emptied by a discard (R114): its entries are gone and the others as before, its UNAVAILABLE flag is clear,
no discard claim stands, and the condemned slots of its entries are retired, one alone with its notice; no frame is sent. -/
def State.discardedFrom (t s : State) (region : Nat) (bad : List Nat) : Prop :=
  t.ov.table = s.ov.table.filter (fun e => decide (e.region ≠ region)) ∧
    t.map.unavailable = s.map.unavailable.set region false ∧ (∀ x ∈ t.adm.order, ∀ i a n, x.ref ≠ .discard i a n) ∧
    t.adm.records = s.adm.records ∧ t.ov.retired = s.ov.retired ++ bad ∧
    (bad = [] → ∀ p, (t.mg p).notices = (s.mg p).notices) ∧
    (∀ n, bad = [n] → ∀ p, (t.mg p).notices = (offer (.slotRetired n) (some region) (s.mg p)).notices) ∧
    t.outA = s.outA ∧ t.outB = s.outB

/-- The response of a port is DONE with a result and a summary, and its request is over. -/
def State.respondedWith (t : State) (p : Port) (res : Reply) (n1 n2 n3 n4 : Nat) : Prop :=
  (t.mg p).inProgress = none ∧ (t.mg p).response.state = .done ∧ (t.mg p).response.result = some res ∧
    (t.mg p).response.n1 = n1 ∧ (t.mg p).response.n2 = n2 ∧ (t.mg p).response.n3 = n3 ∧ (t.mg p).response.n4 = n4

/-! ## Invariants -/

/-- A notice queue holds at most 30 entries, and no two of them share kind and region (R178). -/
def PortMgmt.queueOk (m : PortMgmt) : Prop :=
  m.notices.length ≤ 30 ∧ (m.notices.map fun n => (n.body.kind, n.region)).Nodup

/-- Both notice queues. -/
def State.noticesOk (s : State) : Prop := s.mgA.queueOk ∧ s.mgB.queueOk

/-- No owner is charged more buffers than its quota (R66). -/
def BufferPool.withinQuota (b : BufferPool) : Prop := b.chargeA ≤ 112 ∧ b.chargeB ≤ 112 ∧ b.chargeI ≤ 32

/-- Each host port has 16 tags (R152). -/
def State.portsOk (s : State) : Prop := s.hpA.tags.length = 16 ∧ s.hpB.tags.length = 16

/-- What the caps count of a target operation: its tag, its class, and whether it is a journal block write or the link's
SIZE. -/
def TargetOp.face (o : TargetOp) : Nat × TClass × Bool × Bool :=
  (o.tag, o.req.cls, decide (o.req.owner = .journal), decide (o.req.owner = .link))

/-- Tags held by operations whose face passes a test. -/
def TransferEngine.held (te : TransferEngine) (test : Nat × TClass × Bool × Bool → Bool) : Nat :=
  ((te.ops.map TargetOp.face).filter test).length

/-- No request that waits is the link's own: SIZE is issued outside the arbiter (R98). -/
def TransferEngine.queuesOk (te : TransferEngine) : Prop :=
  ∀ r ∈ te.journalQ ++ te.recoveryQ ++ te.hostAQ ++ te.hostBQ ++ te.backQ ++ te.intervals, r.owner ≠ .link

/-- The target operation table: every tag is below 32 and in use once, each class keeps its cap (R71), and the SIZE of the
link, on tag 0, is outstanding only while the link is not UP, and then alone; while the RESET_DONE wait runs the link is not
UP and nothing is outstanding (R97, R98). -/
def TransferEngine.tableOk (te : TransferEngine) : Prop :=
  ((te.ops.map TargetOp.face).map fun f => f.1).Nodup ∧ (∀ f ∈ te.ops.map TargetOp.face, f.1 < 32) ∧
    te.held (fun f => decide (f.2.1 = .host .A)) ≤ 14 ∧ te.held (fun f => decide (f.2.1 = .host .B)) ≤ 14 ∧
    te.held (fun f => decide (f.2.1 = .background)) ≤ 8 ∧
    te.held (fun f => decide (f.2.1 = .journal) && f.2.2.1) ≤ 1 ∧
    te.held (fun f => decide (f.2.1 = .journal) && !f.2.2.1) ≤ 1 ∧
    (∀ f ∈ te.ops.map TargetOp.face, f.2.2.2 = decide (te.link ≠ .up)) ∧
    (∀ f ∈ te.ops.map TargetOp.face, f.2.2.2 = true → f.1 = 0) ∧
    (te.resetWait = true → te.link ≠ .up ∧ te.ops.map TargetOp.face = [])

/-- The Overlay Table holds at most one entry per grain, in ascending grain order, and every entry meets the mask conditions
(R20, R21). -/
def OverlayUnit.tableOk (o : OverlayUnit) : Prop :=
  (o.table.map (·.grain)).Pairwise (· < ·) ∧ ∀ e ∈ o.table, maskConditions e.slot e.present e.lost = true

/-- How often a slot stands among the FREE, RESERVED, BOUND, PENDING_FREE and RETIRED slots (R25). -/
def State.placesOf (s : State) (n : Nat) : Nat :=
  s.ov.ring.count n + s.reservedSlots.count n + s.boundSlots.count n + (s.ov.pendingFree.map (·.slot)).count n +
    s.ov.retired.count n

/-- Every slot of the pool is in exactly one of the five states, and no other number is in any (R20, R25). -/
def State.slotsOk (s : State) : Prop := ∀ n, s.placesOf n = if n < s.ov.slots then 1 else 0

/-- A relocation holds a new slot only while an attempt that has not failed stands (R90 to R94). -/
def Reloc.slotOk (r : Reloc) : Prop := r.newSlot.isSome = true → (r.stage = .copying ∨ r.stage = .writing) ∧ r.failed = false

/-- A grain has at most one relocation (R88), and each holds a new slot only while it may. -/
def TransferEngine.relocsOk (te : TransferEngine) : Prop :=
  (te.relocs.map (·.grain)).Nodup ∧ ∀ r ∈ te.relocs, r.slotOk

/-- What a mount has rebuilt: one entry per grain, in order, each meeting the mask conditions and naming a slot of the layout;
retired slots of the layout, each once; and order numbers that rise (R140, R141). -/
def Holding.rebuiltOk (h : Holding) : Prop :=
  (h.table.map (·.entry.grain)).Pairwise (· < ·) ∧
    (∀ x ∈ h.table, maskConditions x.entry.slot x.entry.present x.entry.lost = true ∧
      (∀ n, x.entry.slot = some n → n < h.slots) ∧ x.order < h.order) ∧
    (h.table.map (·.order)).Nodup ∧ h.retired.Nodup ∧ ∀ n ∈ h.retired, n < h.slots

/-- What a mount has rebuilt is well formed and fits into the Overlay Table (R20, R140, R141). -/
def Holding.tableOk (h : Holding) : Prop := h.rebuiltOk ∧ h.table.length ≤ 16384

/-- A grain has at most one reservation, and no record stands twice among its holder and its sharers (R27). -/
def OverlayUnit.reservationsOk (o : OverlayUnit) : Prop :=
  (o.reservations.map (·.grain)).Nodup ∧ ∀ r ∈ o.reservations, (r.holder :: r.sharers).Nodup

/-- The overlay store stays well formed: the table, the slot pool, the slots relocations hold, the table a mount rebuilds,
and the reservations. -/
def State.storeOk (s : State) : Prop :=
  s.ov.tableOk ∧ s.slotsOk ∧ s.te.relocsOk ∧ s.mnt.holding.tableOk ∧ s.ov.reservationsOk

end Machine
end Sys2Proof
end

