-- ==== Sys2Proof/Certificates/Slice0/Obligations.lean ====
section
/-! DEFINITION. The statements for the provers. -/

open Sys2Proof Sys2Proof.Machine

/-- A step runs the command at the front of the queue (00_scope.md, 95_what_each_step_holds.md). The model's own in it: log
entry 2. -/
def Obligations.StepRunsTheFrontCommand : Prop :=
  (∀ (c : Instr) (rest : List Instr) (s : State), s.pending = c :: rest → step s = exec c { s with pending := rest }) ∧
    ∀ s : State, s.pending = [] → step s = .next s

/-- Every command answers a next state that keeps the queue, the frames sent and, but for DEVICE_RESET, the hold state (R6,
R151). The model's own in it: log entry 5. -/
def Obligations.CommandsKeepQueueFramesAndHold : Prop :=
  ∀ (c : Instr) (s : State), ∃ t, exec c s = .next t ∧
    t.pending = s.pending ∧ s.outA <+: t.outA ∧ s.outB <+: t.outB ∧ s.outT <+: t.outT ∧
      ((∀ hold, c ≠ .deviceReset hold) → t.map.hold = s.map.hold)

/-- DEVICE_RESET latches HOLD and returns every unit to the state the spec gives after device reset (R19, R37, R60, R82,
R116, R133, R134, R166, R182). The model's own in it: log entry 6. -/
def Obligations.DeviceResetReturnsEveryUnit : Prop :=
  (∀ (hold : Bool) (s : State), exec (.deviceReset hold) s = .next
    { State.reset with
      map := { State.reset.map with hold := hold }, outA := s.outA, outB := s.outB, outT := s.outT ++ [.linkreset],
      free := s.free, pending := s.pending }) ∧
  State.reset.map.active = { regions := List.replicate 32 Region.unused, cap := 0 } ∧ State.reset.map.stage = none ∧
    State.reset.map.activation = none ∧ State.reset.map.unavailable = List.replicate 32 false ∧
    State.reset.map.anchorGen = 0 ∧ State.reset.map.anchorCopy = none ∧ State.reset.map.layout = none ∧
    State.reset.ov.table = [] ∧ State.reset.ov.slots = 0 ∧ State.reset.ov.ring = [] ∧ State.reset.ov.reservations = [] ∧
    State.reset.ov.pendingFree = [] ∧ State.reset.ov.retired = [] ∧ State.reset.ov.condemned = [] ∧
    State.reset.adm.records = [] ∧ State.reset.adm.queueA = [] ∧ State.reset.adm.queueB = [] ∧
    State.reset.adm.order = [] ∧ State.reset.adm.deferred = [] ∧ State.reset.adm.pause = false ∧
    State.reset.adm.next = .A ∧
    (∀ p, State.reset.hp p = { condition := .up, tags := List.replicate 16 ⟨false, 0, 0, 0⟩ }) ∧
    State.reset.te.ops = [] ∧ State.reset.te.hostPtr = .A ∧ State.reset.te.skip = 0 ∧ State.reset.te.link = .down ∧
    State.reset.te.capacity = none ∧ State.reset.te.relocs = [] ∧ State.reset.te.queued = 0 ∧
    (∀ o, State.reset.pool.charge o = 0 ∧ State.reset.pool.claims o = []) ∧
    State.reset.mrg.state = .none ∧ State.reset.mrg.grain = none ∧ State.reset.mrg.merged = 0 ∧
    State.reset.mrg.left = 0 ∧ State.reset.mrg.discard = none ∧
    State.reset.jrn.openBuf = [] ∧ State.reset.jrn.inFlight = none ∧ State.reset.jrn.waiting = [] ∧
    State.reset.jrn.cond = .normal ∧ State.reset.jrn.run = none ∧
    State.reset.mnt.dev = .mounting ∧ State.reset.mnt.stage = .link ∧ State.reset.mnt.format = none ∧
    ∀ p, (State.reset.mg p).lastSeq = none ∧ (State.reset.mg p).inProgress = none ∧
      (State.reset.mg p).response.state = .none ∧ (State.reset.mg p).notices = [] ∧
      (State.reset.mg p).incomplete = false ∧ (State.reset.mg p).nextNumber = 1

/-- A discarded frame changes nothing: a bad header check, and every frame to a RESETTING port (R151, R162). -/
def Obligations.DiscardedFramesChangeNothing : Prop :=
  (∀ (link : LinkId) (bytes : List Byte) (s : State), exec (.discardedFrame link bytes) s = .next s) ∧
  (∀ (p : Port) (bytes : List Byte), headerGood bytes = false →
    decodeHostFrame p bytes = .discardedFrame (.host p) bytes ∧ decodeTargetFrame bytes = .discardedFrame .target bytes) ∧
  ∀ (p : Port) (s : State), (s.hp p).condition = .resetting →
    (∀ op tag first count durable, exec (hostCommand op p tag first count durable) s = .next s) ∧
    (∀ tag count, exec (.grant p tag count) s = .next s) ∧
    (∀ tag index block check, exec (.data p tag index block check) s = .next s) ∧
    (∀ tag, exec (.stop p tag) s = .next s) ∧ exec (.linkreset p) s = .next s

/-- READ, WRITE, FLUSH, SIZE and an unknown operation create a WAITING record or a deferred arrival (R38, R40, R152, R153).
-/
def Obligations.CmdCreatesRecordOrDeferredArrival : Prop :=
  ∀ (op : HostOp) (p : Port) (tag first count : Nat) (durable : Bool) (s : State),
    (s.hp p).condition = .up → tag < 16 → (s.tag ⟨p, tag⟩).isOpen = false →
    (s.rec? ⟨p, tag⟩ = none → exec (hostCommand op p tag first count durable) s = .next
      { s.setTag ⟨p, tag⟩ ⟨true, 0, 0, 0⟩ with
        adm := AdmissionUnit.setQueue
          { s.adm with records := s.adm.records ++ [waitingRecord ⟨p, tag⟩ op first count durable] } p
          (s.adm.queue p ++ [tag]) }) ∧
    ((s.rec? ⟨p, tag⟩).isSome = true → exec (hostCommand op p tag first count durable) s = .next
      { s.setTag ⟨p, tag⟩ ⟨true, 0, 0, 0⟩ with
        adm := { s.adm with deferred := s.adm.deferred ++ [⟨⟨p, tag⟩, op, first, count, durable⟩] } })

/-- A CMD on a busy tag ends the tag with PROTOCOL (R153, R155). -/
def Obligations.CmdOnBusyTagEndsItProtocol : Prop :=
  ∀ (op : HostOp) (p : Port) (tag first count : Nat) (durable : Bool) (s : State),
    (s.hp p).condition = .up → tag < 16 → (s.tag ⟨p, tag⟩).isOpen = true → s.deferred? ⟨p, tag⟩ = none →
    ∃ t, exec (hostCommand op p tag first count durable) s = .next t ∧ (t.tag ⟨p, tag⟩).isOpen = false ∧
      t.out p = s.out p ++ [s.statusFor ⟨p, tag⟩ .protocol 0 none 0] ∧
      ∀ r, s.rec? ⟨p, tag⟩ = some r →
        (r.state = .waiting ∨ r.state = .held ∨ r.state = .journalWait → t.rec? ⟨p, tag⟩ = none) ∧
        (r.state = .active ∨ r.state = .stopping → r.plan.any Piece.isPending = true →
          ∃ r', t.rec? ⟨p, tag⟩ = some r' ∧ r'.state = .orphaned)

/-- A GRANT is counted, or discarded under a wind-down, or ends the tag with PROTOCOL (R154, R155). -/
def Obligations.GrantIsCountedOrEndsTheTag : Prop :=
  ∀ (p : Port) (tag k : Nat) (s : State) (r : Record),
    (s.hp p).condition = .up → (s.tag ⟨p, tag⟩).isOpen = true → s.deferred? ⟨p, tag⟩ = none →
    s.rec? ⟨p, tag⟩ = some r → s.te.link ≠ .down →
    (r.op = .read → r.winding = false → (r.state = .waiting ∨ r.state = .held) → 1 ≤ k → k ≤ 16 →
      (s.tag ⟨p, tag⟩).granted + k ≤ r.count → (s.tag ⟨p, tag⟩).granted + k - (s.tag ⟨p, tag⟩).moved ≤ 64 →
      exec (.grant p tag k) s = .next
        (s.setTag ⟨p, tag⟩ { s.tag ⟨p, tag⟩ with granted := (s.tag ⟨p, tag⟩).granted + k })) ∧
    (r.op = .read → r.winding = true → exec (.grant p tag k) s = .next s) ∧
    (r.op ≠ .read ∨ (r.winding = false ∧ (k = 0 ∨ 16 < k ∨ r.count < (s.tag ⟨p, tag⟩).granted + k ∨
        64 < (s.tag ⟨p, tag⟩).granted + k - (s.tag ⟨p, tag⟩).moved)) →
      ∃ t, exec (.grant p tag k) s = .next t ∧ (t.tag ⟨p, tag⟩).isOpen = false ∧
        t.out p = s.out p ++ [s.statusFor ⟨p, tag⟩ .protocol 0 none 0])

/-- The grant for the last ready block of a READ sends it and the STATUS OK (R69, R74, R154). -/
def Obligations.ReadEndsWithItsLastBlock : Prop :=
  ∀ (p : Port) (tag : Nat) (s : State) (r : Record) (b : Block),
    (s.hp p).condition = .up → (s.tag ⟨p, tag⟩).isOpen = true → s.deferred? ⟨p, tag⟩ = none →
    s.rec? ⟨p, tag⟩ = some r → s.te.link ≠ .down → r.op = .read → r.state = .active → r.winding = false →
    r.result = none → r.cut = none → (s.tag ⟨p, tag⟩).granted = (s.tag ⟨p, tag⟩).moved →
    (s.tag ⟨p, tag⟩).moved + 1 = r.count → r.readyBlock (s.tag ⟨p, tag⟩).moved = some b →
    ∃ t, exec (.grant p tag 1) s = .next t ∧ t.endedWith s ⟨p, tag⟩
      [.data tag (s.tag ⟨p, tag⟩).moved b, s.statusFor ⟨p, tag⟩ .ok r.count none 0]

/-- A usable DATA frame is placed in its piece, and a full piece becomes READY (R63, R65, R68, R154). -/
def Obligations.DataFillsItsPiece : Prop :=
  ∀ (p : Port) (tag index : Nat) (block : Block) (s : State) (r : Record) (i : Nat) (x : Piece),
    (s.hp p).condition = .up → (s.tag ⟨p, tag⟩).isOpen = true → s.deferred? ⟨p, tag⟩ = none →
    s.rec? ⟨p, tag⟩ = some r → s.te.link ≠ .down → r.op = .write → r.state = .active → r.path = some .region →
    r.winding = false → index = (s.tag ⟨p, tag⟩).next → index < (s.tag ⟨p, tag⟩).granted →
    claimedBlocks r.plan = (s.tag ⟨p, tag⟩).granted →
    (r.plan.findIdx? fun q => decide (q.state = .filling) &&
      decide (q.first ≤ r.first + index ∧ r.first + index < q.first + q.count)) = some i →
    r.plan[i]? = some x →
    (x.data.length + 1 < x.count → exec (.data p tag index block (blockCheck block)) s = .next
      (mapPiece ⟨p, tag⟩ i (fun q => { q with data := q.data ++ [block] }) (s.setTag ⟨p, tag⟩
        { s.tag ⟨p, tag⟩ with moved := (s.tag ⟨p, tag⟩).moved + 1, next := (s.tag ⟨p, tag⟩).next + 1 }))) ∧
    (x.data.length + 1 = x.count → (x.kind = .base ∨ ∃ n, x.kind = .slot n ∧ s.outOfService n = false) →
      ∃ t r', exec (.data p tag index block (blockCheck block)) s = .next t ∧ t.rec? ⟨p, tag⟩ = some r' ∧
        r'.plan[i]? = some { x with data := x.data ++ [block], state := .ready } ∧ t.out p = s.out p ∧
        t.te.queue (.host p) = s.te.queue (.host p) ++
          [newRequest (.host p) (.piece ⟨p, tag⟩ i) .write x.target x.count (decide (x.kind ≠ .base) || r.durable)
            (x.data ++ [block])])

/-- DATA_CHECK, the data wait and STOP end an ACTIVE record at once when nothing of it is issued (R78, R57, R157, R161). -/
def Obligations.WindDownWithNothingIssuedEndsAtOnce : Prop :=
  ∀ (c : CmdId) (s : State) (r : Record),
    s.rec? c = some r → r.state = .active → r.winding = false → r.result = none →
    r.plan.any Piece.isPending = false → s.hasWork (Owner.ofFlush c) = false → s.handOffWaits (.piece c) = false →
    s.isDependant c = false →
    s.answerable c → s.te.link ≠ .down →
    ((s.tag c).isOpen = true → r.op = .write → ∀ index block check,
      index = (s.tag c).next → index < (s.tag c).granted → blockCheck block ≠ check →
      ∃ t, exec (.data c.port c.tag index block check) s = .next t ∧
        t.endedWith s c [s.statusFor c .dataCheck (leadingDone r.plan) none 0]) ∧
    (dataWaitRuns r (s.tag c) = true → ∃ t, exec (.dataWaitExpiry c.port c.tag) s = .next t ∧
      t.endedWith s c [s.statusFor c .dataTimeout (r.blocksDone (s.tag c)) none 0]) ∧
    (c.tag < 16 → (s.tag c).isOpen = true →
      ∃ t, exec (.stop c.port c.tag) s = .next t ∧
        t.endedWith s c [s.statusFor c .stopped (r.blocksDone (s.tag c)) none 0])

/-- STOP by what its tag names (R57, R158). -/
def Obligations.StopByTheStateOfItsTag : Prop :=
  ∀ (p : Port) (tag : Nat) (s : State), (s.hp p).condition = .up → tag < 16 → s.te.link ≠ .down →
    ((s.tag ⟨p, tag⟩).isOpen = false → exec (.stop p tag) s = .next
      ((s.send p (s.statusFor ⟨p, tag⟩ .noCommand 0 none 0)).setTag ⟨p, tag⟩ ⟨false, 0, 0, 0⟩)) ∧
    ((s.tag ⟨p, tag⟩).isOpen = true → (s.deferred? ⟨p, tag⟩).isSome = true →
      ∃ t, exec (.stop p tag) s = .next t ∧ t.out p = s.out p ++ [s.statusFor ⟨p, tag⟩ .stopped 0 none 0] ∧
        (t.tag ⟨p, tag⟩).isOpen = false ∧ t.deferred? ⟨p, tag⟩ = none ∧ t.rec? ⟨p, tag⟩ = s.rec? ⟨p, tag⟩) ∧
    ((s.tag ⟨p, tag⟩).isOpen = true → s.deferred? ⟨p, tag⟩ = none → ∀ r, s.rec? ⟨p, tag⟩ = some r →
      (r.state = .waiting ∨ r.state = .held → ∃ t, exec (.stop p tag) s = .next t ∧
        t.endedWith s ⟨p, tag⟩ [s.statusFor ⟨p, tag⟩ .stopped 0 none 0]) ∧
      (r.state = .stopping → exec (.stop p tag) s = .next s) ∧
      (r.state = .journalWait → exec (.stop p tag) s = .next
        (mapRec ⟨p, tag⟩ (fun x => { x with stopNoted := true }) s)))

/-- LINKRESET resets one port, and RESET_DONE answers when no record of it is left (R58, R162, R163, R182). -/
def Obligations.LinkresetResetsOnePort : Prop :=
  ∀ (p : Port) (s : State), (s.hp p).condition = .up → (s.adm.records.map (·.id)).Nodup →
    ∃ t, exec (.linkreset p) s = .next t ∧ (∀ a ∈ t.adm.deferred, a.id.port ≠ p) ∧
      (∀ r ∈ t.adm.records, r.id.port = p → r.state = .orphaned) ∧ (∀ m, t.map.stage ≠ some (p, m)) ∧
      (t.mg p).lastSeq = none ∧ (t.mg p).inProgress = none ∧ (t.mg p).response = Response.empty ∧
      t.hp p.other = s.hp p.other ∧ t.map.active = s.map.active ∧
      (t.portRecords p = [] → t.hp p = { condition := .up, tags := List.replicate 16 ⟨false, 0, 0, 0⟩ } ∧
        t.out p = s.out p ++ [.resetDone]) ∧
      (t.portRecords p ≠ [] → (t.hp p).condition = .resetting ∧ t.out p = s.out p)

/-- An ORPHANED record leaves without a STATUS, and a deferred arrival or RESET_DONE follows in the act (R40, R59, R67,
R163). The model's own in it: log entry 1. -/
def Obligations.OrphanLeavesAndWhatFollows : Prop :=
  (∀ (p : Port) (tag : Nat) (s : State) (r : Record), s.rec? ⟨p, tag⟩ = some r → r.state = .orphaned →
    (∀ x ∈ r.plan, x.isPending = false ∧ (x.kind = .lost ∨ x.state ≠ .ready)) →
    s.hasWork (Owner.ofFlush r.id) = false → s.isDependant r.id = false →
    ∃ t, exec (.orphanLeaves p tag) s = .next t ∧ t.out p.other = s.out p.other ∧
      t.pool.charge (.host p) = s.pool.charge (.host p) - heldBuffers r.plan ∧ t.ov.table = s.ov.table ∧
      (s.deferred? ⟨p, tag⟩ = none → t.rec? ⟨p, tag⟩ = none) ∧
      (∀ a, s.deferred? ⟨p, tag⟩ = some a → t.deferred? ⟨p, tag⟩ = none ∧
        t.rec? ⟨p, tag⟩ = some (waitingRecord ⟨p, tag⟩ a.op a.first a.count a.durable)) ∧
      ((s.hp p).condition = .up ∨ (∃ x ∈ s.adm.records, x.id.port = p ∧ x.id ≠ ⟨p, tag⟩) →
        t.out p = s.out p ∧ t.hp p = s.hp p) ∧
      ((s.hp p).condition = .resetting → s.deferred? ⟨p, tag⟩ = none →
        (∀ x ∈ s.adm.records, x.id.port = p → x.id = ⟨p, tag⟩) → t.out p = s.out p ++ [.resetDone] ∧
          t.hp p = { condition := .up, tags := List.replicate 16 ⟨false, 0, 0, 0⟩ })) ∧
  (∀ (p : Port) (s : State), (s.hp p).condition = .resetting →
    (s.portRecords p = [] → exec (.resetDone p) s = .next
      ((s.send p .resetDone).setHp p { condition := .up, tags := List.replicate 16 ⟨false, 0, 0, 0⟩ })) ∧
    (s.portRecords p ≠ [] → exec (.resetDone p) s = .next s)) ∧
  ∀ (p : Port) (tag : Nat) (s : State) (a : Arrival), s.deferred? ⟨p, tag⟩ = some a → s.rec? ⟨p, tag⟩ = none →
    exec (.deferredArrivalBecomesRecord p tag) s = .next { s with
      adm := AdmissionUnit.setQueue { s.adm with
        records := s.adm.records ++ [waitingRecord ⟨p, tag⟩ a.op a.first a.count a.durable],
        deferred := s.adm.deferred.filter fun x => decide (x.id ≠ ⟨p, tag⟩) } p (s.adm.queue p ++ [tag]) }

/-- ADMISSION ends a record at the first check it fails (R27, R41, R42, R43, R44, R45, R46, R47). -/
def Obligations.AdmissionRefusesByTheFirstFailingCheck : Prop :=
  ∀ (s : State) (r : Record), s.nextAdmission = some r → s.te.link ≠ .down → s.answerable r.id →
    (stateAllows s.mnt.dev r = false → ∃ t, exec .admission s = .next t ∧ t.adm.next = r.id.port.other ∧
      t.endedWith s r.id [s.statusFor r.id .notReady 0 none 0]) ∧
    (stateAllows s.mnt.dev r = true → shapeGood r = false → ∃ t, exec .admission s = .next t ∧
      t.adm.next = r.id.port.other ∧ t.endedWith s r.id [s.statusFor r.id .invalid 0 none 0]) ∧
    (stateAllows s.mnt.dev r = true → shapeGood r = true → r.op.isTransfer = true →
      (rangeTouchesWindow r.first r.count = true →
        (rangeInWindow r.first r.count && windowShape r.op r.first r.count) = false →
        ∃ t, exec .admission s = .next t ∧ t.adm.next = r.id.port.other ∧
          t.endedWith s r.id [s.statusFor r.id .windowMisuse 0 none 0]) ∧
      (rangeTouchesWindow r.first r.count = false →
        (∀ b, offending s.map.active r.first r.count = some b → ∃ t, exec .admission s = .next t ∧
          t.adm.next = r.id.port.other ∧ t.endedWith s r.id [s.statusFor r.id .address 0 (some b) 0]) ∧
        (∀ i res, offending s.map.active r.first r.count = none → s.map.active.lookup r.first = some i →
          accessDecision (s.viewOf i).policy (decide (r.op = .write)) r.id.port (s.map.active.region i)
            (s.map.unavailable.getD i false) s.jrn.cond = some res →
          ∃ t, exec .admission s = .next t ∧ t.adm.next = r.id.port.other ∧
            t.endedWith s r.id [s.statusFor r.id res 0 none 0]))) ∧
    (∀ i, s.reachesRegion r i → r.op = .write → (s.viewOf i).policy.isOverlay = true →
      ¬ s.roomFor s.ov.ring.length (s.neededBy r) →
      ∃ t, exec .admission s = .next t ∧ t.adm.next = r.id.port.other ∧
        t.endedWith s r.id [s.statusFor r.id .overlayFull 0 none 0])

/-- ADMISSION answers SIZE with C and starts FLUSH (R48, R80, R81). The model's own in it: log entry 44. -/
def Obligations.AdmissionOfSizeAndFlush : Prop :=
  ∀ (s : State) (r : Record), s.nextAdmission = some r → s.te.link ≠ .down → stateAllows s.mnt.dev r = true →
    (r.op = .size → s.answerable r.id → ∃ t, exec .admission s = .next t ∧ t.adm.next = r.id.port.other ∧
      t.endedWith s r.id [s.statusFor r.id .ok 0 none s.map.active.cap]) ∧
    (r.op = .flush → ∃ t g, exec .admission s = .next t ∧ t.adm.next = r.id.port.other ∧
      t.rec? r.id = some { r with state := .active, path := some .plain } ∧
      t.adm.queue r.id.port = (s.adm.queue r.id.port).filter (fun x => decide (x ≠ r.id.tag)) ∧
      t.adm.order = s.adm.order ++ [⟨.cmd r.id, g⟩] ∧
      t.te.queue (.host r.id.port) = s.te.queue (.host r.id.port) ++
        [newRequest (.host r.id.port) (.flush r.id) .flush 0 0 false []] ∧
      t.outA = s.outA ∧ t.outB = s.outB ∧ t.outT = s.outT)

/-- ADMISSION holds a READ behind a conflicting claim and starts any other by its read source (R24, R46, R50, R55, R62, R67,
R77). -/
def Obligations.AdmissionHoldsOrStartsARead : Prop :=
  ∀ (s : State) (r : Record) (i : Nat), s.reachesRegion r i → r.op = .read → r.winding = false → r.cut = none →
    r.result = none → (s.tag r.id).moved = 0 →
    (s.claimAhead r = true → ∃ t g, exec .admission s = .next t ∧
      t.rec? r.id = some { r with path := some .region, region := some (s.viewOf i), state := .held } ∧
      t.adm.order = s.adm.order ++ [⟨.cmd r.id, g⟩] ∧ t.outA = s.outA ∧ t.outB = s.outB ∧ t.outT = s.outT) ∧
    (s.claimAhead r = false →
      ((∀ b, r.first ≤ b → b < r.first + r.count → s.kindOf .read (s.viewOf i) b ≠ .lost) →
        ∃ t g, exec .admission s = .next t ∧ t.adm.order = s.adm.order ++ [⟨.cmd r.id, g⟩] ∧
          t.startedAs s r.id (s.viewOf i)
            (buildPlan s (s.map.active.region i) r.first r.count (s.kindOf .read (s.viewOf i)))) ∧
      (s.kindOf .read (s.viewOf i) r.first = .lost → s.answerable r.id → ∃ t, exec .admission s = .next t ∧
        t.endedWith s r.id [s.statusFor r.id .lostData 0 (some r.first) 0]) ∧
      (∀ k, 0 < k → k < r.count → s.kindOf .read (s.viewOf i) (r.first + k) = .lost →
        (∀ b, r.first ≤ b → b < r.first + k → s.kindOf .read (s.viewOf i) b ≠ .lost) →
        ∃ t g r', exec .admission s = .next t ∧ t.adm.order = s.adm.order ++ [⟨.cmd r.id, g⟩] ∧
          t.startedAs s r.id (s.viewOf i)
            (buildPlan s (s.map.active.region i) r.first r.count (s.kindOf .read (s.viewOf i))) ∧
          t.rec? r.id = some r' ∧ r'.cut = some (r.first + k) ∧
          r'.result = some ⟨.lostData, some (r.first + k)⟩))

/-- ADMISSION reserves the slots of a WRITE, holds it behind a conflicting claim, and starts any other (R24, R27, R47, R50,
R55, R63, R67). The model's own in it: log entry 31. -/
def Obligations.AdmissionReservesAndStartsAWrite : Prop :=
  ∀ (s : State) (r : Record) (i : Nat), s.reachesRegion r i → r.op = .write →
    ((s.viewOf i).policy.isOverlay = false →
      (s.claimAhead r = true → ∃ t g, exec .admission s = .next t ∧ t.ov = s.ov ∧
        t.rec? r.id = some { r with path := some .region, region := some (s.viewOf i), state := .held } ∧
        t.adm.order = s.adm.order ++ [⟨.cmd r.id, g⟩] ∧ t.outA = s.outA ∧ t.outB = s.outB ∧ t.outT = s.outT) ∧
      (s.claimAhead r = false → ∃ t g, exec .admission s = .next t ∧ t.ov = s.ov ∧
        t.adm.order = s.adm.order ++ [⟨.cmd r.id, g⟩] ∧
        t.startedAs s r.id (s.viewOf i)
          (buildPlan s (s.map.active.region i) r.first r.count fun _ => .base))) ∧
    ((s.viewOf i).policy.isOverlay = true → s.roomFor s.ov.ring.length (s.neededBy r) →
      (s.claimAhead r = true → ∃ t g, exec .admission s = .next t ∧ t.ov.table = s.ov.table ∧
        t.ov.ring = s.ov.ring.drop (s.neededBy r).length ∧
        t.reservedFor s s.ov.ring r.id (grainsOf r.first r.count) (s.neededBy r) ∧
        t.rec? r.id = some { r with path := some .region, region := some (s.viewOf i), state := .held } ∧
        t.adm.order = s.adm.order ++ [⟨.cmd r.id, g⟩] ∧ t.outA = s.outA ∧ t.outB = s.outB ∧ t.outT = s.outT) ∧
      (s.claimAhead r = false → s.ov.reservationsOk → ∃ t g, exec .admission s = .next t ∧ t.ov.table = s.ov.table ∧
        t.ov.ring = s.ov.ring.drop (s.neededBy r).length ++ s.comeBack r.id (s.boundGrains r) ∧
        t.settledFor s s.ov.ring r ∧
        t.adm.order = s.adm.order ++ [⟨.cmd r.id, g⟩] ∧
        t.startedAs s r.id (s.viewOf i)
          (buildPlan s (s.map.active.region i) r.first r.count fun b => .slot (t.writeSlot (grainOf b)))))

/-- A HELD record that STOP ends gives up its reservations (R28, R57). -/
def Obligations.ReservationsAreGivenUpWithTheRecord : Prop :=
  ∀ (p : Port) (tag : Nat) (s : State) (r : Record), s.answerable ⟨p, tag⟩ → tag < 16 → s.te.link ≠ .down →
    (s.tag ⟨p, tag⟩).isOpen = true → s.rec? ⟨p, tag⟩ = some r → r.state = .held → s.ov.reservationsOk →
    ∃ t, exec (.stop p tag) s = .next t ∧
      (∀ g, t.reservation? g = (s.reservation? g).bind (Reservation.without ⟨p, tag⟩)) ∧
      t.ov.ring = s.ov.ring ++ s.comeBack ⟨p, tag⟩ (s.ov.reservations.map (·.grain)) ∧ t.ov.table = s.ov.table

/-- Window commands: the blocks of a READ, the GRANT of a WRITE, and the request block handed over (R45, R48, R64, R168,
R169, R180, R181). The model's own in it: log entries 3, 52. -/
def Obligations.WindowCommandsAreServed : Prop :=
  (∀ (s : State) (r : Record), s.nextAdmission = some r → s.te.link ≠ .down → shapeGood r = true →
    rangeTouchesWindow r.first r.count = true → rangeInWindow r.first r.count = true →
    windowShape r.op r.first r.count = true → (s.tag r.id).isOpen = true → (s.tag r.id).granted = 0 →
    (s.tag r.id).moved = 0 → r.cut = none →
    (r.op = .read → ∃ t g, exec .admission s = .next t ∧
      t.rec? r.id = some { r with
        state := .active, path := some .window,
        window := (List.range r.count).map fun k => s.windowBlock r.id.port (r.first + k - (2 ^ 40 - 4)) } ∧
      t.adm.order = s.adm.order ++ [⟨.cmd r.id, g⟩] ∧ t.outA = s.outA ∧ t.outB = s.outB ∧ t.outT = s.outT) ∧
    (r.op = .write → ∃ t g, exec .admission s = .next t ∧
      t.rec? r.id = some { r with state := .active, path := some .window } ∧
      t.adm.order = s.adm.order ++ [⟨.cmd r.id, g⟩] ∧ (t.tag r.id).granted = 1 ∧
      t.out r.id.port = s.out r.id.port ++ [.grant r.id.tag 1] ∧ t.out r.id.port.other = s.out r.id.port.other)) ∧
  (∀ (s : State) (p : Port), s.windowBlock p 1 = responseBlock (s.mg p).response ∧
    s.windowBlock p 2 = noticeBlock (s.mg p) ∧ s.windowBlock p 3 = identBlock p s) ∧
  ∀ (p : Port) (tag : Nat) (block : Block) (s : State) (r : Record), s.answerable ⟨p, tag⟩ → s.te.link ≠ .down →
    (s.tag ⟨p, tag⟩).isOpen = true → s.rec? ⟨p, tag⟩ = some r → r.op = .write → r.state = .active →
    r.path = some .window → r.winding = false → (s.tag ⟨p, tag⟩).next = 0 → (s.tag ⟨p, tag⟩).granted = 1 →
    ((s.mg p).inProgress ≠ none → ∃ t, exec (.data p tag 0 block (blockCheck block)) s = .next t ∧
      t.endedWith s ⟨p, tag⟩ [s.statusFor ⟨p, tag⟩ .windowBusy 0 none 0] ∧ t.mgA = s.mgA ∧ t.mgB = s.mgB) ∧
    ((s.mg p).inProgress = none → ∀ (i : Instr) (code : Nat), i.request? = some (p, (parseRequest block).1, code) →
      i.management? = some (parseRequest block).2 →
      ∃ t u, exec i (s.setTag ⟨p, tag⟩ { s.tag ⟨p, tag⟩ with moved := (s.tag ⟨p, tag⟩).moved + 1, next := 1 }) = .next u ∧
        exec (.data p tag 0 block (blockCheck block)) s = .next t ∧ t.mgA = u.mgA ∧ t.mgB = u.mgB ∧
        t.map.stage = u.map.stage ∧ t.endedWith s ⟨p, tag⟩ [u.statusFor ⟨p, tag⟩ .ok 1 none 0])

/-- HELD_CLAIM_START starts a held record or claim that nothing before it holds (R28, R29, R51, R54, R55, R62). The model's
own in it: log entry 31. -/
def Obligations.ReexaminationStartsWhatNothingHolds : Prop :=
  (∀ s : State, s.te.link ≠ .down → s.firstStartable = none → exec .heldClaimStart s = .next s) ∧
  (∀ (s t : State) (pre post : List Placed) (ref : ClaimRef), s.te.link ≠ .down → (∀ c, ref ≠ .cmd c) →
    s.adm.order = pre ++ ⟨ref, false⟩ :: post → (∀ x ∈ pre ++ post, x.ref ≠ ref) → s.noneStarts pre →
    s.heldBy pre ref = false → t = { s with adm := { s.adm with order := pre ++ ⟨ref, true⟩ :: post } } →
    t.examinedFrom s (pre ++ post) → exec .heldClaimStart s = .next t) ∧
  ∀ (s t : State) (pre post : List Placed) (b : Bool) (r : Record) (v : RegionView), s.te.link ≠ .down →
    s.adm.order = pre ++ ⟨.cmd r.id, b⟩ :: post → (∀ x ∈ pre ++ post, x.ref ≠ .cmd r.id) → s.noneStarts pre →
    s.heldBy pre (.cmd r.id) = false → s.rec? r.id = some r → r.state = .held → r.path = some .region →
    r.region = some v → r.winding = false → r.cut = none → r.result = none → 1 ≤ r.count →
    t = startRegion r.id s → t.examinedFrom s (pre ++ post) →
    (r.op = .read → (s.tag r.id).moved = 0 → ∀ plan,
      plan = buildPlan s (s.map.active.region v.index) r.first r.count (s.kindOf .read v) →
      ((∀ a, r.first ≤ a → a < r.first + r.count → s.kindOf .read v a ≠ .lost) →
        exec .heldClaimStart s = .next t ∧ t.adm.order = s.adm.order ∧ t.startedAs s r.id v plan) ∧
      (s.kindOf .read v r.first = .lost → s.answerable r.id →
        exec .heldClaimStart s = .next t ∧ t.endedWith s r.id [s.statusFor r.id .lostData 0 (some r.first) 0]) ∧
      (∀ k, 0 < k → k < r.count → s.kindOf .read v (r.first + k) = .lost →
        (∀ a, r.first ≤ a → a < r.first + k → s.kindOf .read v a ≠ .lost) →
        exec .heldClaimStart s = .next t ∧ t.adm.order = s.adm.order ∧ t.startedAs s r.id v plan ∧
          ∃ r', t.rec? r.id = some r' ∧ r'.cut = some (r.first + k) ∧ r'.result = some ⟨.lostData, some (r.first + k)⟩)) ∧
    (r.op = .write → v.policy.isOverlay = false →
      exec .heldClaimStart s = .next t ∧ t.adm.order = s.adm.order ∧ t.ov = s.ov ∧
        t.startedAs s r.id v (buildPlan s (s.map.active.region v.index) r.first r.count fun _ => .base)) ∧
    (r.op = .write → v.policy.isOverlay = true → s.ov.reservationsOk → ∀ back, back = s.comeBack r.id (s.boundGrains r) →
      (¬ s.roomFor (s.ov.ring.length + back.length) (s.neededBy r) → s.answerable r.id →
        exec .heldClaimStart s = .next t ∧ t.ov.table = s.ov.table ∧
          t.ov.ring = s.ov.ring ++ back ++ s.comeBack r.id ((s.ov.reservations.map (·.grain)).filter fun g =>
            !(s.boundGrains r).contains g) ∧
          t.endedWith s r.id [s.statusFor r.id .overlayFull 0 none 0]) ∧
      (s.roomFor (s.ov.ring.length + back.length) (s.neededBy r) →
        exec .heldClaimStart s = .next t ∧ t.adm.order = s.adm.order ∧ t.ov.table = s.ov.table ∧
          t.ov.ring = (s.ov.ring ++ back).drop (s.neededBy r).length ∧ t.settledFor s (s.ov.ring ++ back) r ∧
          t.startedAs s r.id v (buildPlan s (s.map.active.region v.index) r.first r.count
            fun a => .slot (t.writeSlot (grainOf a)))))

/-- The head buffer claim is met whole, or waits; a READ piece is requested, a WRITE piece filled (R66, R67, R68, R71). -/
def Obligations.BufferClaimIsMetWholeOrWaits : Prop :=
  ∀ (s : State) (o : BufOwner) (x : BufClaim) (rest : List BufClaim), s.te.link ≠ .down →
    s.pool.claims o = x :: rest →
    (quotaOf o < s.pool.charge o + x.count → exec (.bufferClaimMet o) s = .next s) ∧
    (s.pool.charge o + x.count ≤ quotaOf o → ∀ c i r q, o = .host c.port → x.who = .piece c i → s.rec? c = some r →
      r.plan[i]? = some q →
      (r.op = .read → ∃ t r', exec (.bufferClaimMet o) s = .next t ∧ t.pool.charge o = s.pool.charge o + x.count ∧
        t.rec? c = some r' ∧ r'.plan = r.plan.set i { q with held := x.count, state := .ready } ∧
        t.pool.claims o = rest ++ (match nextPlanned r'.plan with
          | some j => [⟨.piece c j, ((r'.plan[j]?).map (·.count)).getD 0⟩]
          | none => []) ∧
        t.te.queue (.host c.port) = s.te.queue (.host c.port) ++
          [newRequest (.host c.port) (.piece c i) .read q.target q.count false []]) ∧
      (r.op = .write → r.state = .active → r.winding = false → (s.tag c).isOpen = true → q.state = .planned →
        q.count ≤ 64 → ∃ t r', exec (.bufferClaimMet o) s = .next t ∧
          t.pool.charge o = s.pool.charge o + x.count ∧ t.rec? c = some r' ∧
          r'.plan = r.plan.set i { q with held := x.count, state := .filling } ∧
          t.pool.claims o = rest ++ (match nextPlanned r'.plan with
            | some j => [⟨.piece c j, ((r'.plan[j]?).map (·.count)).getD 0⟩]
            | none => []) ∧ t.te = s.te ∧
          ((s.tag c).granted = claimedBlocks r.plan → (s.tag c).moved = (s.tag c).granted →
            (t.tag c).granted = (s.tag c).granted + q.count ∧
            t.out c.port = s.out c.port ++ (List.range ((q.count + 15) / 16)).map fun k =>
              HostFrame.grant c.tag (Nat.min 16 (q.count - 16 * k))) ∧
          (48 < (s.tag c).granted - (s.tag c).moved → t.tag c = s.tag c ∧ t.out c.port = s.out c.port)))

/-- TARGET_TAG_GRANT issues the journal first and then the host port the pointer names (R70, R71, R72, R164). -/
def Obligations.ArbiterGrantsTheLowestFreeTag : Prop :=
  ∀ s : State, (s.te.link ≠ .up → exec .targetTagGrant s = .next s) ∧
    (s.te.link = .up → ∀ tag, tag < 32 → (∀ o ∈ s.te.ops, o.tag ≠ tag) → (∀ k, k < tag → ∃ o ∈ s.te.ops, o.tag = k) →
      ¬ ((s.oldest .background).isSome = true ∧ s.te.skip = 7) → ∀ r rest, s.withinCap r = true →
      (s.te.journalQ = r :: rest → r.owner = .journal → r.op = .write →
        ∃ t, exec .targetTagGrant s = .next t ∧ t.te.journalQ = rest ∧
          t.outT = s.outT ++ [.cmd tag .write r.first r.count r.durable] ∧
          t.te.ops = s.te.ops ++ [{ tag := tag, req := r, granted := 0, moved := 0, got := [], stop := none }]) ∧
      (s.te.journalQ = [] → s.te.recoveryQ = [] → s.te.queue (.host s.te.hostPtr) = r :: rest →
        ∃ t, exec .targetTagGrant s = .next t ∧ t.te.hostPtr = s.te.hostPtr.other ∧
          t.te.queue (.host s.te.hostPtr) = rest ∧ (∃ o ∈ t.te.ops, o.tag = tag ∧ o.req = r) ∧
          s.outT ++ [.cmd tag r.op r.first r.count r.durable] <+: t.outT))

/-- TARGET_STATUS: no record, NOT_READY, a slot out of service, media errors of host pieces, the ends of READ and WRITE
pieces (R32, R73, R74, R75, R76, R77, R83, R84, R85, R86, R87, R165). The model's own in it: log entries 11, 12. -/
def Obligations.TargetStatusEndsItsOperation : Prop :=
  ∀ (s : State) (tag done value : Nat) (detail : Option Nat), s.te.link = .up →
    (s.op? tag = none → ∀ result, exec (.targetStatus tag result done detail value) s = .next s) ∧
    ∀ o, s.op? tag = some o → o.stop = none →
      (o.req.notReady < 20 → s.deadWrite o.req = false →
        (∀ g r, s.reloc? g = some r → Owner.ofReloc g o.req.owner = true → r.cut = false) →
        (Owner.ofMerge o.req.owner = true → s.mrg.cause = none) →
        exec (.targetStatus tag 0x05 done detail value) s = .next { s with
          te := { s.te with
            ops := s.te.ops.filter fun x => decide (x.tag ≠ tag),
            intervals := s.te.intervals ++ [{ o.req with cls := .recovery, notReady := o.req.notReady + 1 }] } }) ∧
      (∀ c i r q n result, result = 0x05 ∨ result = 0x0E → o.req.owner = .piece c i → o.req.op = .write →
        s.rec? c = some r → r.op = .write → r.plan[i]? = some q → q.kind = .slot n → s.ov.condemned.contains n = true →
        s.slotOf (grainOf q.first) = some n → s.reloc? (grainOf q.first) = none →
        ∃ t x, exec (.targetStatus tag result done detail value) s = .next t ∧
          t.rec? c = some { r with plan := r.plan.set i { q with state := .handed } } ∧
          t.te.intervals = s.te.intervals ∧ t.te.recoveryQ = s.te.recoveryQ ∧
          t.reloc? (grainOf q.first) = some x ∧ x.cause = .writeFault ∧ x.dependants = [⟨c, i⟩]) ∧
      (∀ c i r q n g, o.req.owner = .piece c i → o.req.op = .write → s.rec? c = some r → r.op = .write →
        r.plan[i]? = some q → q.kind = .slot n → g = grainOf q.first → s.outOfService n = false → s.reloc? g = none →
        s.readyOn n = [] → s.te.tableOk → s.ov.reservationsOk →
        (s.slotOf g = some n ∨ (s.slotOf g = none ∧ (s.reservation? g).map (·.slot) = some n)) →
        ∃ t x, exec (.targetStatus tag 0x0C done detail value) s = .next t ∧
          t.rec? c = some { r with plan := r.plan.set i { q with state := .handed } } ∧
          t.reloc? g = some x ∧ x.cause = .writeFault ∧ x.dependants = [⟨c, i⟩] ∧ t.ov.table = s.ov.table ∧
          (s.slotOf g = some n → t.ov.condemned = s.ov.condemned ++ [n] ∧ t.ov.retired = s.ov.retired ∧
            t.ov.reservations = s.ov.reservations ∧ x.retired = []) ∧
          (s.slotOf g = none → t.ov.condemned = s.ov.condemned ∧ t.ov.retired = s.ov.retired ++ [n] ∧
            t.reservation? g = none ∧ x.retired = [n])) ∧
      (∀ c i r q, o.req.owner = .piece c i → o.req.op = .read → o.got.length = o.req.count → s.rec? c = some r →
        r.op = .read → r.state = .active → r.winding = false → r.cut = none → r.plan[i]? = some q → ∀ r',
        r' = { r with plan := r.plan.set i { q with state := .done, data := o.got } } →
        ((s.tag c).granted = (s.tag c).moved → (s.tag c).moved < r.count →
          ∃ t, exec (.targetStatus tag 0x00 done detail value) s = .next t ∧ t.rec? c = some r' ∧ t.pool = s.pool ∧
            t.outA = s.outA ∧ t.outB = s.outB) ∧
        (∀ b, r.result = none → s.answerable c → (s.tag c).isOpen = true → (s.tag c).granted = r.count →
          (s.tag c).moved + 1 = r.count → r'.readyBlock (s.tag c).moved = some b →
          ∃ t, exec (.targetStatus tag 0x00 done detail value) s = .next t ∧
            t.endedWith s c [.data c.tag (s.tag c).moved b, s.statusFor c .ok r.count none 0])) ∧
      (∀ c i r q n, o.req.owner = .piece c i → o.req.op = .read → s.rec? c = some r → r.plan[i]? = some q →
        q.kind = .slot n →
        (o.req.media = 0 → exec (.targetStatus tag 0x0C done detail value) s = .next { s with
          te := { s.te with
            ops := s.te.ops.filter fun x => decide (x.tag ≠ tag),
            recoveryQ := s.te.recoveryQ ++ [{ o.req with cls := .recovery, media := 1 }] } }) ∧
        (∀ k b e m, o.req.media = 1 → k < o.req.count → b = q.first + k → m = maskBit (b % 8) → r.op = .read →
          r.state = .active → r.winding = false → r.cut = none → r.result = none →
          (s.tag c).granted = (s.tag c).moved → r.first + (s.tag c).moved ≤ b → s.reloc? (grainOf b) = none →
          s.entry? (grainOf b) = some e → e.slot.isSome = true → s.journaled e.region = false → e.present &&& m ≠ 0 →
          maskLess e.present (e.present &&& m) ≠ 0 →
          ∃ t x, exec (.targetStatus tag 0x0C done (some (o.req.first + k)) value) s = .next t ∧
            t.entry? (grainOf b) = some { e with
              present := maskLess e.present (e.present &&& m), lost := e.lost ||| (e.present &&& m) } ∧
            t.reloc? (grainOf b) = some x ∧ x.cause = .readFault ∧ x.dependants = [] ∧ x.lost = m ∧
            (r.first + (s.tag c).moved < b → ∃ r', t.rec? c = some r' ∧ r'.cut = some b ∧
              r'.result = some ⟨.lostData, some b⟩ ∧ t.outA = s.outA ∧ t.outB = s.outB) ∧
            (r.first + (s.tag c).moved = b → s.answerable c →
              t.endedWith s c [s.statusFor c .lostData (s.tag c).moved (some b) 0]))) ∧
      (∀ c i r q, o.req.owner = .piece c i → o.req.op = .write → o.moved = o.req.count → s.rec? c = some r →
        r.op = .write → r.state = .active → r.winding = false → r.latest = none → r.plan[i]? = some q →
        q.kind = .base → (∀ j x, j ≠ i → r.plan[j]? = some x → x.state = .done) →
        s.handOffWaits (.piece c) = false → s.isDependant c = false → s.hasWork (Owner.ofFlush c) = false →
        s.answerable c → ∃ t, exec (.targetStatus tag 0x00 done detail value) s = .next t ∧
          t.endedWith s c [s.statusFor c .ok r.count none 0])

/-- A completed slot write creates its entry, and a lost marking keeps the masks apart (R21, R30, R31, R35). -/
def Obligations.SlotWritesBindAndFaultsMarkLost : Prop :=
  (∀ (s : State) (tag done value n i : Nat) (detail : Option Nat) (o : TargetOp) (c : CmdId) (r : Record) (q : Piece)
      (v : RegionView),
    s.te.link = .up → s.op? tag = some o → o.stop = none → o.req.owner = .piece c i → o.req.op = .write →
    o.moved = o.req.count → s.rec? c = some r → r.op = .write → r.state = .active → r.winding = false →
    r.latest = none → r.region = some v → r.plan[i]? = some q → q.kind = .slot n → s.outOfService n = false →
    (∀ j x, j ≠ i → r.plan[j]? = some x → x.state = .done) → s.handOffWaits (.piece c) = false →
    s.isDependant c = false → s.hasWork (Owner.ofFlush c) = false → s.entry? (grainOf q.first) = none →
    s.journaled v.index = false → s.ov.reservationsOk → (s.reservation? (grainOf q.first)).map (·.slot) = some n →
    grainPart (grainOf q.first) q.first q.count ≠ 0 → s.answerable c →
    ∃ t, exec (.targetStatus tag 0x00 done detail value) s = .next t ∧ t.reservation? (grainOf q.first) = none ∧
      t.endedWith s c [s.statusFor c .ok r.count none 0] ∧
      t.entry? (grainOf q.first) = some
        (⟨grainOf q.first, v.index, some n, grainPart (grainOf q.first) q.first q.count, 0, .resident⟩ : Entry)) ∧
  ∀ (s : State) (g : Nat) (m : Mask) (e : Entry), s.entry? g = some e →
    (e.present &&& m = 0 → markLost g m s = ((0, none), s)) ∧
    (e.present &&& m ≠ 0 → maskLess e.present (e.present &&& m) ≠ 0 →
      (markLost g m s).2.entry? g = some { e with
        present := maskLess e.present (e.present &&& m), lost := e.lost ||| (e.present &&& m) } ∧
      (markLost g m s).2.ov.retired = s.ov.retired) ∧
    (∀ n, e.present &&& m ≠ 0 → maskLess e.present (e.present &&& m) = 0 → e.slot = some n →
      (markLost g m s).2.entry? g = some { e with
        slot := none, present := 0, lost := e.lost ||| (e.present &&& m) } ∧
      (markLost g m s).2.ov.retired = if n ∈ s.ov.retired then s.ov.retired else s.ov.retired ++ [n])

/-- RELOCATION_PLACEMENT places the oldest queued relocation when fewer than four stand (R52, R88). -/
def Obligations.RelocationPlacementTakesTheOldestRequest : Prop :=
  (∀ s : State, 4 ≤ s.relocClaims → exec .relocationPlacement s = .next s) ∧
  (∀ s : State, (∀ r ∈ s.te.relocs, r.stage ≠ .queued) → exec .relocationPlacement s = .next s) ∧
  ∀ (s : State) (r : Reloc), s.relocClaims < 4 → (s.te.relocs.find? fun x => decide (x.stage = .queued)) = some r →
    (∀ x ∈ s.adm.order, s.placeHeld x = false) →
    ∃ g, exec .relocationPlacement s = .next { s with
        te := { s.te with relocs := s.te.relocs.map fun x => if x.grain = r.grain then { x with stage := .held } else x },
        adm := { s.adm with order := s.adm.order ++ [⟨.reloc r.grain, g⟩] } } ∧
      (s.adm.order = [] → g = true)

/-- RELOCATION_CLAIM_GRANT sets the entry MOVING, allocates a slot, and claims the copy buffers or requests the writes (R22,
R34, R90, R91). The model's own in it: log entry 35. -/
def Obligations.RelocationBeginsItsCopy : Prop :=
  (∀ (s : State) (g n m : Nat) (ring : List Nat) (r : Reloc) (e : Entry), s.te.link ≠ .down →
    s.reloc? g = some r → r.stage = .held → r.cut = false → s.claimGranted (.reloc g) = true →
    s.ov.ring = n :: ring → s.entry? g = some e → e.slot = some m →
    maskLess e.present (s.dependantMask r) ≠ 0 →
    ∃ t r' e', exec (.relocationClaimGrant g) s = .next t ∧ t.reloc? g = some r' ∧ r'.stage = .copying ∧
      r'.oldSlot = some m ∧ r'.newSlot = some n ∧ r'.attempts = r.attempts + 1 ∧
      r'.copySet = maskLess e.present (s.dependantMask r) ∧ r'.dependants = r.dependants ∧
      t.entry? g = some e' ∧ e' = { e with state := .moving } ∧ t.ov.ring = ring ∧
      t.pool.claimsI = s.pool.claimsI ++
        [⟨.reloc g, (maskList (maskLess e.present (s.dependantMask r))).length⟩]) ∧
  ∀ (s : State) (g n : Nat) (ring : List Nat) (r : Reloc) (e : Entry), s.te.link ≠ .down → s.reloc? g = some r →
    r.stage = .held → r.cut = false → r.copied = 0 → s.claimGranted (.reloc g) = true →
    s.hasWork (Owner.ofReloc g) = false → s.ov.ring = n :: ring → s.entry? g = some e → e.slot = none →
    s.dependantMask r ≠ 0 →
    ∃ t r' writes, exec (.relocationClaimGrant g) s = .next t ∧ t.reloc? g = some r' ∧ r'.stage = .writing ∧
      r'.oldSlot = none ∧ r'.newSlot = some n ∧ r'.attempts = r.attempts + 1 ∧ r'.dependants = r.dependants ∧
      t.entry? g = some { e with state := .moving } ∧ t.ov.ring = ring ∧ t.pool = s.pool ∧
      t.te.recoveryQ = s.te.recoveryQ ++ writes ∧
      writes.map (fun x => (x.owner, x.op, x.first, x.count)) = (maskRuns (s.dependantMask r)).map fun k =>
        (Owner.relocWrite g k.1, TOp.write, s.slotBase n + k.1, k.2)

/-- MERGE_GRAIN_CLAIM_GRANT sets the entry MERGING and claims the copy buffers (R105). -/
def Obligations.MergeTakesItsGrain : Prop :=
  ∀ (s : State) (x : MergeGrain) (e : Entry) (n : Nat), s.mrg.state = .running → s.mrg.grain = some x →
    x.stage = .waiting → s.claimGranted (.merge s.mrg.cursor) = true → s.entry? s.mrg.cursor = some e →
    e.slot = some n → (s.journaled e.region && decide (s.jrn.cond = .fault)) = false →
    exec .mergeGrainClaimGrant s = .next { s with
      ov := { s.ov with table := s.ov.table.map fun y => if y.grain = e.grain then { y with state := .merging } else y },
      mrg := { s.mrg with grain := some { x with stage := .reading, region := e.region, slot := n, copySet := e.present,
                                                 claiming := true } },
      pool := { s.pool with claimsI := s.pool.claimsI ++ [⟨.merge, (maskList e.present).length⟩] } }

/-- DISCARD_CLAIM_GRANT removes every entry of the region, and answers or waits for its record (R33, R35, R114, R115, R119).
-/
def Obligations.DiscardRemovesTheRegionsEntries : Prop :=
  ∀ (s : State) (d : Discard) (p : Port) (first count : Nat) (slots bad : List Nat), s.te.link ≠ .down →
    s.mrg.discard = some d → d.placed = true → d.record = none → d.owed = some p → s.handOffWaits .discard = false →
    (⟨.discard d.region first count, true⟩ : Placed) ∈ s.adm.order → s.slotsOk →
    bad = (s.regionSlots d.region).filter s.ov.condemned.contains →
    slots = (s.regionSlots d.region).filter (fun n => !s.ov.condemned.contains n) →
    (s.journaled d.region = false → (bad = [] ∨ s.jrn.cond = .fault ∨
        (s.jrn.waiting = [] ∧ s.jrn.live < s.journalLen ∧ s.jrn.openBuf.length + bad.length ≤ 30)) →
      ∃ t, exec .discardClaimGrant s = .next t ∧ t.discardedFrom s d.region bad ∧ t.ov.ring = s.ov.ring ++ slots ∧
        t.ov.pendingFree = s.ov.pendingFree ∧ t.mrg.discard = none ∧
        t.respondedWith p .doneOk 0 0 (s.entryCount d.region) 0) ∧
    (s.journaled d.region = true → s.jrn.cond = .normal → s.jrn.waiting = [] → s.jrn.live < s.journalLen →
        s.jrn.openBuf.length + 1 + bad.length ≤ 30 → (∀ f ∈ s.jrn.fates, f.1 ≠ s.jrn.nextId) →
      ∃ t, exec .discardClaimGrant s = .next t ∧ t.discardedFrom s d.region bad ∧ t.ov.ring = s.ov.ring ∧
        t.ov.pendingFree = s.ov.pendingFree ++ slots.map (fun n => ⟨n, s.jrn.nextId⟩) ∧
        t.mrg.discard = some { d with record := some s.jrn.nextId, removed := s.entryCount d.region } ∧
        t.jrn.openBuf.map (·.body) =
          s.jrn.openBuf.map (·.body) ++ RecordBody.discard d.region :: bad.map RecordBody.retire ∧
        (t.jrn.openBuf[s.jrn.openBuf.length]?).map (·.id) = some s.jrn.nextId ∧
        (t.mg p).inProgress = (s.mg p).inProgress ∧ (t.mg p).response = (s.mg p).response)

/-- JOURNAL_HANDOFF_TAKEN appends the records, or drops them under FAULT, and their producers go on (R75, R76, R95, R108,
R114, R119, R131). -/
def Obligations.HandOffsAreTakenOrDropped : Prop :=
  (∀ s : State, s.te.link ≠ .down → s.jrn.waiting = [] → exec .journalHandoffTaken s = .next s) ∧
  (∀ s : State, s.te.link ≠ .down → s.jrn.waiting ≠ [] → (∀ h ∈ s.jrn.waiting, h.by' = .none ∧ h.recs ≠ []) →
    (s.jrn.cond = .normal → s.jrn.live < s.journalLen →
      s.jrn.openBuf.length + (s.jrn.waiting.flatMap (·.recs)).length ≤ 30 →
      exec .journalHandoffTaken s = .next { s with jrn := { s.jrn with
        waiting := [], openBuf := s.jrn.openBuf ++ s.jrn.waiting.flatMap (·.recs),
        fates := s.jrn.fates ++ (s.jrn.waiting.flatMap (·.recs)).map fun r => (r.id, Fate.inBuffer) } }) ∧
    (s.jrn.cond = .fault → exec .journalHandoffTaken s = .next { s with jrn := { s.jrn with
        waiting := [], fates := s.jrn.fates ++ (s.jrn.waiting.flatMap (·.recs)).map fun r => (r.id, Fate.dropped),
        run := s.jrn.run.map fun r => { r with missed := true } } })) ∧
  ∀ (s : State) (by' : Producer) (recs : List JRecord), s.te.link ≠ .down → s.jrn.waiting = [⟨by', recs⟩] →
    s.jrn.cond = .normal → recs ≠ [] → s.jrn.live < s.journalLen → s.jrn.openBuf.length + recs.length ≤ 30 →
    (∀ c r id, by' = .piece c → s.rec? c = some r → r.op = .write → r.state = .active → r.winding = false →
      r.plan ≠ [] → (∀ x ∈ r.plan, x.state = .done) → s.hasWork (Owner.ofFlush c) = false → s.isDependant c = false →
      r.latest = some id → (∀ f ∈ s.jrn.fates, f.1 ≠ id) → (∃ x ∈ recs, x.id = id) →
      ∃ t, exec .journalHandoffTaken s = .next t ∧ t.jrn.openBuf = s.jrn.openBuf ++ recs ∧ t.jrn.waiting = [] ∧
        t.rec? c = some { r with state := .journalWait } ∧ t.jrn.waiters = s.jrn.waiters ++ [c]) ∧
    (∀ g r e, by' = .reloc g → s.reloc? g = some r → r.stage = .ending e → s.strandedOn g = [] →
      ∃ t, exec .journalHandoffTaken s = .next t ∧ t.jrn.openBuf = s.jrn.openBuf ++ recs ∧ t.jrn.waiting = [] ∧
        t.reloc? g = none ∧ ∀ x ∈ t.adm.order, x.ref ≠ .reloc g) ∧
    (∀ x, by' = .merge → s.mrg.grain = some x → x.stage = .ending → s.mrg.state = .halting →
      ∃ t, exec .journalHandoffTaken s = .next t ∧ t.jrn.openBuf = s.jrn.openBuf ++ recs ∧ t.jrn.waiting = [] ∧
        t.mrg.state = .none ∧ t.mrg.cause = some .halted ∧ t.mrg.grain = none ∧
        ∀ y ∈ t.adm.order, y.ref ≠ .merge s.mrg.cursor) ∧
    (∀ d id, by' = .discard → s.mrg.discard = some d → d.placed = true → d.record = some id →
      (∀ f ∈ s.jrn.fates, f.1 ≠ id) → (∃ x ∈ recs, x.id = id) →
      ∃ t, exec .journalHandoffTaken s = .next t ∧ t.jrn.openBuf = s.jrn.openBuf ++ recs ∧ t.jrn.waiting = [] ∧
        t.mrg.discard = some d ∧ ∀ y ∈ t.adm.order, ∀ i a n, y.ref ≠ .discard i a n)

/-- JOURNAL_BLOCK_CLOSE closes a waited-on buffer into one block write (R120, R123). -/
def Obligations.JournalBlockIsClosedAndWritten : Prop :=
  (∀ s : State, s.jrn.cond = .fault ∨ s.jrn.openBuf = [] → exec .journalBlockClose s = .next s) ∧
  (∀ (s : State) (l : Layout), s.te.link ≠ .down → s.jrn.waiting = [] → s.map.layout = some l → s.jrn.cond = .normal →
    s.jrn.inFlight = none → s.jrn.live < l.journalLen → s.jrn.openBuf ≠ [] →
    (s.jrn.openBuf.length = 30 ∨ ∃ r ∈ s.jrn.openBuf, s.waitedOn r.id = true) →
    ∃ t, exec .journalBlockClose s = .next t ∧ t.jrn.inFlight = some ⟨s.jrn.qNext, s.jrn.openBuf⟩ ∧
      t.jrn.openBuf = [] ∧ t.jrn.qNext = s.jrn.qNext + 1 ∧ t.jrn.sCk = s.jrn.sCk ∧
      t.te.journalQ = s.te.journalQ ++ [newRequest .journal .journal .write
        (l.journalBase + s.jrn.qNext % l.journalLen) 1 true
        [journalBlock s.map.formatId s.jrn.qNext (s.jrn.openBuf.map (·.body))]] ∧
      (s.jrn.run = none → (t.jrn.run.isSome = true ↔ l.journalLen ≤ s.jrn.qNext + 1 - s.jrn.sCk + 16))) ∧
  ∀ (s : State) (recs : List JRecord), s.te.link ≠ .down → s.jrn.waiting = [⟨.none, recs⟩] → s.jrn.cond = .normal →
    s.jrn.inFlight = none → s.jrn.live + 1 < s.journalLen → s.jrn.sCk ≤ s.jrn.qNext → s.jrn.openBuf ≠ [] →
    (s.jrn.openBuf.length = 30 ∨ ∃ r ∈ s.jrn.openBuf, s.waitedOn r.id = true) → recs ≠ [] → recs.length ≤ 30 →
    ∃ t, exec .journalBlockClose s = .next t ∧ t.jrn.inFlight = some ⟨s.jrn.qNext, s.jrn.openBuf⟩ ∧
      t.jrn.openBuf = recs ∧ t.jrn.waiting = []

/-- DRAIN_END starts the anchor write or fails the activation; the end of the write swaps the maps or leaves them (R15, R16,
R17, R18). The model's own in it: log entry 29. -/
def Obligations.ActivationEndsWithTheAnchorWrite : Prop :=
  (∀ (s : State) (a : Activation), s.map.activation = some a → a.draining = true →
    (a.remaining ≠ 0 → exec .drainEnd s = .next s) ∧
    (a.remaining = 0 → s.blockedIndex a.map = none → exec .drainEnd s = .next { s with
      map := { s.map with activation := some { a with draining := false } },
      pool := { s.pool with claimsI := s.pool.claimsI ++ [⟨.anchor, 3⟩] } }) ∧
    (a.remaining = 0 → ∀ i p, s.blockedIndex a.map = some i → a.owed = some p →
      ∃ t, exec .drainEnd s = .next t ∧ t.map = { s.map with activation := none } ∧ t.adm.pause = false ∧
        (t.mg p).inProgress = none ∧ (t.mg p).response.state = .done ∧
        (t.mg p).response.result = some .regionHasOverlay ∧
        (t.mg p).response.items = [padTo 16 (le 1 i ++ le 1 0)])) ∧
  ∀ (s : State) (tag done value : Nat) (detail : Option Nat) (o : TargetOp) (a : Activation) (p : Port),
    s.te.link = .up → s.op? tag = some o → o.stop = none → o.req.owner = .anchor → o.req.op = .write →
    s.map.activation = some a → a.owed = some p →
    (o.moved = o.req.count → ∃ t, exec (.targetStatus tag 0x00 done detail value) s = .next t ∧
      t.map.active = a.map ∧ t.map.anchorGen = s.map.anchorGen + 1 ∧
      t.map.anchorCopy = some (if s.map.anchorCopy = some 0 then 1 else 0) ∧ t.map.activation = none ∧
      t.adm.pause = false ∧ (s.mnt.dev = .blank → t.mnt.dev = .ready) ∧
      (t.mg p).inProgress = none ∧ (t.mg p).response.state = .done ∧ (t.mg p).response.result = some .doneOk ∧
      (t.mg p).response.n1 = s.map.anchorGen + 1) ∧
    ∃ t, exec (.targetStatus tag 0x0C done detail value) s = .next t ∧
      t.map = { s.map with activation := none } ∧ t.adm.pause = false ∧
      (t.mg p).inProgress = none ∧ (t.mg p).response.state = .done ∧ (t.mg p).response.result = some .anchorFault

/-- TARGET_GRANT sends the granted blocks, TARGET_DATA is placed in its buffer, and either is a violation out of its place
(R84, R164, R165). -/
def Obligations.TargetGrantAndDataAreTaken : Prop :=
  (∀ (s : State) (tag k : Nat), s.te.link = .up →
    (s.op? tag = none → exec (.targetGrant tag k) s = .next s) ∧
    ∀ o, s.op? tag = some o →
      (o.stop ≠ none → exec (.targetGrant tag k) s = .next s) ∧
      (o.stop = none → o.req.op = .write → 1 ≤ k → k ≤ 16 → o.granted + k ≤ o.req.count → o.moved = o.granted →
        exec (.targetGrant tag k) s = .next { s with
          outT := s.outT ++ (List.range k).map (fun j =>
            TargetFrame.data tag (o.granted + j) (o.req.data.getD (o.granted + j) [])),
          te := { s.te with ops := s.te.ops.map fun x =>
            if x.tag = tag then { x with granted := o.granted + k, moved := o.granted + k } else x } }) ∧
      (o.stop = none → (o.req.op ≠ .write ∨ k = 0 ∨ 16 < k ∨ o.req.count < o.granted + k) →
        exec (.targetGrant tag k) s = .next { s with
          outT := s.outT ++ [.stop tag],
          te := { s.te with ops := s.te.ops.map fun x =>
            if x.tag = tag then { x with stop := some .violation } else x } })) ∧
  ∀ (s : State) (tag index : Nat) (block : Block) (check : BitVec 32) (o : TargetOp), s.te.link = .up →
    s.op? tag = some o → o.stop = none →
    (o.req.op = .read → index = o.moved → index < o.granted → o.granted = o.req.count → blockCheck block = check →
      exec (.targetData tag index block check) s = .next { s with te := { s.te with ops := s.te.ops.map fun x =>
        if x.tag = tag then { x with moved := x.moved + 1, got := x.got ++ [block] } else x } }) ∧
    (o.req.op = .read → index = o.moved → index < o.granted → blockCheck block ≠ check →
      exec (.targetData tag index block check) s = .next { s with
        outT := s.outT ++ [.stop tag],
        te := { s.te with ops := s.te.ops.map fun x =>
          if x.tag = tag then { x with stop := some .payload } else x } }) ∧
    ((o.req.op ≠ .read ∨ index ≠ o.moved ∨ o.granted ≤ index) →
      exec (.targetData tag index block check) s = .next { s with
        outT := s.outT ++ [.stop tag],
        te := { s.te with ops := s.te.ops.map fun x =>
          if x.tag = tag then { x with stop := some .violation } else x } })

/-- TARGET_RESET_DONE issues SIZE; LINK_SIZE_COMPLETE with OK brings the link UP; a failed SIZE or no answer makes it DOWN
(R98, R99, R138, R178). The model's own in it: log entries 14, 29, 38, 44. -/
def Obligations.LinkComesUpOrGoesDown : Prop :=
  (∀ s : State, s.te.link = .up ∨ s.linkSize?.isSome = true → exec .targetResetDone s = .next s) ∧
  (∀ s : State, s.te.link ≠ .up → s.linkSize? = none → exec .targetResetDone s = .next { s with
    outT := s.outT ++ [.cmd 0 .size 0 0 false],
    te := { s.te with
      resetWait := false,
      ops := s.te.ops ++ [{ tag := 0, req := newRequest .recovery .link .size 0 0 false [], granted := 0, moved := 0,
                            got := [], stop := none }] } }) ∧
  (∀ (s : State) (value : Nat) (o : TargetOp), s.linkSize? = some o →
    (s.te.capacity = none → s.mnt.stage = .link → ∃ t, exec (.linkSizeComplete 0 value) s = .next t ∧
      t.te.link = .up ∧ t.te.capacity = some value ∧ t.mnt.dev = .mounting ∧ t.mnt.stage = .anchor 0 ∧
      t.te.ops = s.te.ops.filter (fun x => decide (x.tag ≠ o.tag)) ∧
      t.pool.claimsI = s.pool.claimsI ++ [⟨.mount, 3⟩] ∧ t.mgA = s.mgA ∧ t.mgB = s.mgB) ∧
    (s.te.capacity = some value → s.te.link = .resetting → s.mountWaits = false →
      exec (.linkSizeComplete 0 value) s = .next { s with te := { s.te with
        link := .up, resetDue := false, ops := s.te.ops.filter fun x => decide (x.tag ≠ o.tag) } })) ∧
  ∀ (s : State) (c : Nat), s.te.capacity = some c → s.te.link = .resetting → s.mountWaits = false →
    s.te.queued = 0 → s.te.resetDue = false →
    (∀ o value, s.linkSize? = some o → value ≠ c → ∃ t, exec (.linkSizeComplete 0 value) s = .next t ∧
      t.te.link = .down ∧ t.te.capacity = some c ∧ t.mgA = offer (.targetDown .capacityChanged) none s.mgA ∧
      t.mgB = offer (.targetDown .capacityChanged) none s.mgB) ∧
    (∀ o result value, s.linkSize? = some o → result ≠ 0 → ∃ t, exec (.linkSizeComplete result value) s = .next t ∧
      t.te.link = .down ∧ t.te.capacity = some c ∧ t.mgA = offer (.targetDown .sizeFailed) none s.mgA ∧
      t.mgB = offer (.targetDown .sizeFailed) none s.mgB) ∧
    (s.te.resetWait = true → ∃ t, exec .resetDoneWaitExpiry s = .next t ∧ t.te.link = .down ∧
      t.te.capacity = some c ∧ t.mgA = offer (.targetDown .noResetDone) none s.mgA ∧
      t.mgB = offer (.targetDown .noResetDone) none s.mgB) ∧
    (∀ o, s.linkSize? = some o → ∃ t, exec .sizeWaitExpiry s = .next t ∧ t.te.link = .down ∧
      t.te.capacity = some c ∧ t.mgA = offer (.targetDown .sizeFailed) none s.mgA ∧
      t.mgB = offer (.targetDown .sizeFailed) none s.mgB)

/-- Expiries of the target port: STOP, the reset of the link, a retry requested, LINKRESET repeated (R84, R96, R97, R99). The
model's own in it: log entry 4. -/
def Obligations.TargetTimeoutsRetriesAndRepeats : Prop :=
  (∀ (s : State) (tag : Nat) (o : TargetOp), s.te.link = .up → s.op? tag = some o →
    (o.stop = none → exec (.targetOperationTimeout tag) s = .next { s with
      outT := s.outT ++ [.stop tag],
      te := { s.te with ops := s.te.ops.map fun x => if x.tag = tag then { x with stop := some .timeout } else x } }) ∧
    (o.stop ≠ none → ∃ t, exec (.stopWaitExpiry tag) s = .next t ∧ t.te.link = .resetting ∧ t.te.ops = [] ∧
      t.te.resetWait = true ∧ t.te.capacity = s.te.capacity ∧ t.outT = s.outT ++ [.linkreset])) ∧
  (∀ s : State, s.te.intervals = [] → exec .notReadyRetryInterval s = .next s) ∧
  (∀ (s : State) (r : Request) (rest : List Request), s.te.link ≠ .down → s.te.intervals = r :: rest →
    exec .notReadyRetryInterval s = .next { s with
      te := TransferEngine.setQueue { s.te with intervals := rest } r.cls (s.te.queue r.cls ++ [r]) }) ∧
  ∀ s : State, (s.te.link ≠ .down → exec .linkresetRepeat s = .next s) ∧
    (s.te.link = .down → s.linkSize? = none → exec .linkresetRepeat s = .next { s with outT := s.outT ++ [.linkreset] }) ∧
    (s.te.link = .down → s.linkSize?.isSome = true →
      exec .linkresetRepeat s = .next { s with te := { s.te with resetDue := true } })

/-- TARGET_STATUS of a journal block: its records become durable, or the journal enters FAULT (R33, R76, R115, R120, R121,
R130, R159). -/
def Obligations.JournalBlockBecomesDurableOrFails : Prop :=
  ∀ (s : State) (tag done value : Nat) (detail : Option Nat) (o : TargetOp) (b : FlightBlock) (ids : List Nat),
    s.carriedOut tag o → o.req.owner = .journal → o.req.op = .write → s.jrn.inFlight = some b →
    ids = b.recs.map (·.id) →
    (s.waitersOn (fun id => ids.contains id) = [] → (∀ d id, s.mrg.discard = some d → d.record = some id → id ∉ ids) →
      ¬ s.bufferDue [] → ∃ t, exec (.targetStatus tag 0x00 done detail value) s = .next t ∧
        t.jrn = { s.jrn with
          inFlight := none,
          fates := s.jrn.fates.map fun x => if ids.contains x.1 then (x.1, Fate.durable) else x } ∧
        t.ov.pendingFree = s.ov.pendingFree.filter (fun x => !ids.contains x.record) ∧
        t.ov.ring = s.ov.ring ++ (s.ov.pendingFree.filter fun x => ids.contains x.record).map (·.slot) ∧
        t.ov.table = s.ov.table ∧ t.adm = s.adm ∧ t.outA = s.outA ∧ t.outB = s.outB) ∧
    (s.waitersOn (fun id => ids.contains id) = [] → (∀ d id, s.mrg.discard = some d → d.record = some id → id ∉ ids) →
      s.bufferDue ids → s.jrn.waiting = [] → ∀ l, s.map.layout = some l →
      ∃ t, exec (.targetStatus tag 0x00 done detail value) s = .next t ∧
        t.jrn.inFlight = some ⟨s.jrn.qNext, s.jrn.openBuf⟩ ∧ t.jrn.openBuf = [] ∧ t.jrn.qNext = s.jrn.qNext + 1 ∧
        t.ov.pendingFree = s.ov.pendingFree.filter (fun x => !ids.contains x.record) ∧
        t.te.journalQ = s.te.journalQ ++ [newRequest .journal .journal .write
          (l.journalBase + s.jrn.qNext % l.journalLen) 1 true
          [journalBlock s.map.formatId s.jrn.qNext (s.jrn.openBuf.map (·.body))]]) ∧
    (∀ r, s.waitersOn (fun id => ids.contains id) = [r] → s.answerable r.id → ¬ s.bufferDue [] →
      ∃ t, exec (.targetStatus tag 0x00 done detail value) s = .next t ∧ t.jrn.inFlight = none ∧
        t.endedWith s r.id [s.statusFor r.id (if r.stopNoted then .stopped else .ok) r.count none 0]) ∧
    (∀ d id p, s.mrg.discard = some d → d.record = some id → id ∈ ids → d.owed = some p → ¬ s.bufferDue [] →
      ∃ t, exec (.targetStatus tag 0x00 done detail value) s = .next t ∧ t.mrg.discard = none ∧
        t.respondedWith p .doneOk 0 0 d.removed 0) ∧
    (s.jrn.waiting = [] → ∀ lost : List Nat, lost = ids ++ s.jrn.openBuf.map (·.id) →
      ∃ t, exec (.targetStatus tag 0x0C done detail value) s = .next t ∧ t.jrn.cond = .fault ∧
        t.jrn.inFlight = none ∧ t.jrn.openBuf = [] ∧ t.jrn.waiting = [] ∧
        t.jrn.fates = s.jrn.fates.map (fun x => if lost.contains x.1 then (x.1, Fate.dropped) else x) ∧
        t.jrn.run = s.jrn.run.map (fun r => { r with missed := true }) ∧
        (∀ p, (t.mg p).notices = (offer (.journalFaultBlock b.seq) none (s.mg p)).notices) ∧
        ∀ r, s.waitersOn (fun id => lost.contains id) = [r] → s.answerable r.id →
          t.endedWith s r.id [.status r.id.tag .journalFault r.count none 0 true])

/-- TARGET_STATUS of a checkpoint write: the run goes on, completes, or fails (R9, R123, R126, R127, R128, R132). -/
def Obligations.CheckpointWritesEnd : Prop :=
  ∀ (s : State) (tag done value : Nat) (detail : Option Nat) (o : TargetOp) (r : CkRun), s.carriedOut tag o →
    s.jrn.run = some r →
    (o.req.owner = .ckBody r.serial → r.phase ≠ .header → 1 ≤ r.unwritten →
      (r.walkEnded = true → r.unwritten = 1 →
        ∃ t, exec (.targetStatus tag 0x00 done detail value) s = .next t ∧
          t.jrn.run = some { r with unwritten := 0, phase := .header, claiming := true } ∧
          t.pool = { s.pool with chargeI := s.pool.chargeI - 1,
                                 claimsI := s.pool.claimsI ++ [⟨.ckHeader r.serial, 1⟩] }) ∧
      (r.walkEnded = true → 1 < r.unwritten →
        ∃ t, exec (.targetStatus tag 0x00 done detail value) s = .next t ∧
          t.jrn.run = some { r with unwritten := r.unwritten - 1 } ∧
          t.pool = { s.pool with chargeI := s.pool.chargeI - 1 }) ∧
      (r.walkEnded = false → r.claiming = false → r.unwritten ≤ 4 →
        ∃ t, exec (.targetStatus tag 0x00 done detail value) s = .next t ∧
          t.jrn.run = some { r with unwritten := r.unwritten - 1, claiming := true } ∧
          t.pool = { s.pool with chargeI := s.pool.chargeI - 1,
                                 claimsI := s.pool.claimsI ++ [⟨.ckBody r.serial, 1⟩] })) ∧
    (o.req.owner = .ckHeader r.serial →
      (s.jrn.cond = .normal → s.jrn.waiting = [] → s.jrn.openBuf = [] →
        ∃ t, exec (.targetStatus tag 0x00 done detail value) s = .next t ∧ t.jrn.cond = .normal ∧
          t.jrn.sCk = r.start ∧ t.jrn.newest = some r.area ∧ t.jrn.newestGen = r.gen ∧ t.jrn.qNext = s.jrn.qNext ∧
          t.map.unavailable = s.map.unavailable.map (fun _ => false) ∧
          (t.jrn.run.isSome = true ↔ s.journalLen ≤ s.jrn.qNext - r.start + 16) ∧
          ∀ p, r.owed = some p → t.respondedWith p .doneOk r.start r.gen r.area.code 0) ∧
      (s.jrn.cond = .fault → r.missed = false →
        ∃ t, exec (.targetStatus tag 0x00 done detail value) s = .next t ∧ t.jrn.cond = .normal ∧
          t.jrn.sCk = r.start ∧ t.jrn.qNext = r.start ∧ t.jrn.newest = some r.area ∧ t.jrn.newestGen = r.gen ∧
          t.map.unavailable = s.map.unavailable.map (fun _ => false) ∧ t.ov.pendingFree = [] ∧
          t.ov.ring = s.ov.ring ++ s.ov.pendingFree.map (·.slot) ∧
          (∀ p, (t.mg p).notices = (offer (.journalCleared r.start) none (s.mg p)).notices) ∧
          ∀ p, r.owed = some p → t.respondedWith p .doneOk r.start r.gen r.area.code 0) ∧
      (s.jrn.cond = .fault → r.missed = true →
        ∃ t r', exec (.targetStatus tag 0x00 done detail value) s = .next t ∧ t.jrn.cond = .fault ∧
          t.jrn.run = some r' ∧ r'.origin = .automatic ∧ r'.owed = r.owed ∧ r'.phase = .bitmap ∧
          t.mgA = s.mgA ∧ t.mgB = s.mgB)) ∧
    (o.req.owner = .ckBody r.serial ∨ o.req.owner = .ckHeader r.serial → s.jrn.waiting = [] →
      ∃ t, exec (.targetStatus tag 0x0C done detail value) s = .next t ∧ t.jrn.cond = .fault ∧ t.jrn.run = none ∧
        (∀ x ∈ t.te.backQ, Owner.ofRun r.serial x.owner = false) ∧
        (∀ p, (t.mg p).notices = (offer (.journalFaultCheckpoint r.area) none (s.mg p)).notices) ∧
        ∀ p, r.owed = some p → t.respondedWith p .journalFault 0 0 0 0)

/-- TARGET_STATUS of the last write of a relocation: the move, a further attempt, the lost end, and the cut (R32, R91, R92,
R93, R94, R95). The model's own in it: log entry 39. -/
def Obligations.RelocationWritesEnd : Prop :=
  ∀ (s : State) (tag done value off g n : Nat) (detail : Option Nat) (o : TargetOp) (r : Reloc) (e : Entry),
    s.carriedOut tag o → o.req.owner = .relocWrite g off → o.req.op = .write → s.reloc? g = some r →
    r.stage = .writing → r.claiming = false → r.cut = false → r.failed = false → r.newSlot = some n →
    s.lastOf tag (Owner.ofReloc g) → s.entry? g = some e →
    (r.copied ||| s.dependantMask r ≠ 0 →
      ∃ t, exec (.targetStatus tag 0x00 done detail value) s = .next t ∧
        t.entry? g = some { e with
          slot := some n, present := r.copied ||| s.dependantMask r,
          lost := maskLess (e.lost ||| r.lost) (r.copied ||| s.dependantMask r), state := .resident } ∧
        (∀ m, e.slot = some m →
          t.ov.retired = if m ∈ s.ov.retired then s.ov.retired else s.ov.retired ++ [m]) ∧
        (r.dependants = [] → s.strandedOn g = [] → s.te.tableOk → (∀ m, e.slot = some m → s.readyOn m = []) →
          s.jrn.cond = .normal → s.jrn.waiting = [] → s.jrn.live < s.journalLen →
          s.jrn.openBuf.length + r.retired.length + 2 ≤ 30 →
          t.reloc? g = none ∧ ∀ x ∈ t.adm.order, x.ref ≠ .reloc g) ∧
        (∀ c i x q, r.dependants = [⟨c, i⟩] → s.journaled e.region = false → s.strandedOn g = [(c, i)] →
          s.te.tableOk → (∀ m, e.slot = some m → s.readyOn m = []) → s.rec? c = some x → x.plan[i]? = some q →
          (∃ j y, j ≠ i ∧ x.plan[j]? = some y ∧ y.isPending = true) →
          t.rec? c = some { x with plan := x.plan.set i { q with state := .done, held := 0, data := [] } } ∧
          t.pool.charge (.host c.port) = s.pool.charge (.host c.port) - q.held)) ∧
    (∀ a ring, r.attempts < 3 → s.ov.ring = a :: ring → r.copied ||| s.dependantMask r ≠ 0 →
      ∃ t r', exec (.targetStatus tag 0x0C done detail value) s = .next t ∧ t.reloc? g = some r' ∧
        r'.stage = .writing ∧ r'.newSlot = some a ∧ r'.attempts = r.attempts + 1 ∧ r'.failed = false ∧
        r'.retired = r.retired ++ [n] ∧ t.ov.ring = ring ∧ t.entry? g = some e ∧
        t.ov.retired = if n ∈ s.ov.retired then s.ov.retired else s.ov.retired ++ [n]) ∧
    (3 ≤ r.attempts → e.present ||| e.lost ≠ 0 →
      ∃ t, exec (.targetStatus tag 0x0C done detail value) s = .next t ∧ n ∈ t.ov.retired ∧
        (∀ m, e.slot = some m → m ∈ t.ov.retired) ∧
        t.entry? g = some { e with
          slot := none, present := 0, lost := e.present ||| e.lost ||| s.dependantMask r ||| r.lost,
          state := .resident }) ∧
    (maskLess e.present (e.present &&& maskLess r.copySet r.copied) ≠ 0 →
      ∃ t, exec (.targetStatus tag 0x06 done detail value) s = .next t ∧
        t.entry? g = some { e with
          present := maskLess e.present (e.present &&& maskLess r.copySet r.copied),
          lost := e.lost ||| (e.present &&& maskLess r.copySet r.copied), state := .resident } ∧
        (r.dependants = [] → t.ov.ring = s.ov.ring ++ [n]))

/-- TARGET_STATUS of the last base write of a merge grain: the grain is merged, or the run stops (R33, R35, R107, R108,
R111). -/
def Obligations.MergeGrainEndsOrStops : Prop :=
  ∀ (s : State) (tag done value off n : Nat) (detail : Option Nat) (o : TargetOp) (x : MergeGrain) (e : Entry),
    s.carriedOut tag o → o.req.owner = .mergeWrite off → o.req.op = .write → s.mrg.grain = some x →
    x.stage = .writing → x.claiming = false → s.mrg.cause = none → s.lastOf tag Owner.ofMerge →
    s.entry? s.mrg.cursor = some e → e.slot = some n → e.region = x.region →
    (∃ t, exec (.targetStatus tag 0x00 done detail value) s = .next t ∧ t.mrg.merged = s.mrg.merged + 1 ∧
      t.entry? s.mrg.cursor =
        (if e.lost = 0 then none else some { e with slot := none, present := 0, state := .resident }) ∧
      (s.ov.condemned.contains n = false → x.mediaMet = false → t.ov.retired = s.ov.retired ∧
        (s.journaled x.region = false → t.ov.ring = s.ov.ring ++ [n] ∧ t.ov.pendingFree = s.ov.pendingFree) ∧
        (s.journaled x.region = true → t.ov.ring = s.ov.ring ∧
          t.ov.pendingFree = s.ov.pendingFree ++ [⟨n, s.jrn.nextId⟩])) ∧
      (s.ov.condemned.contains n = true ∨ x.mediaMet = true → t.ov.ring = s.ov.ring ∧
        t.ov.pendingFree = s.ov.pendingFree ∧
        t.ov.retired = if n ∈ s.ov.retired then s.ov.retired else s.ov.retired ++ [n]) ∧
      (s.jrn.waiting = [] → s.jrn.cond = .fault ∨
          (s.jrn.live < s.journalLen ∧ s.jrn.openBuf.length + 2 ≤ 30) →
        ∀ y ∈ t.adm.order, y.ref ≠ .merge s.mrg.cursor)) ∧
    (∃ t, exec (.targetStatus tag 0x0C done detail value) s = .next t ∧
      t.entry? s.mrg.cursor = some { e with state := .resident } ∧ t.mrg.state = .none ∧
      t.mrg.cause = some .baseFault ∧ t.mrg.grain = none ∧ t.ov.ring = s.ov.ring ∧
      (∀ y ∈ t.adm.order, y.ref ≠ .merge s.mrg.cursor) ∧
      ∀ p, (t.mg p).notices =
        (offer (.mergeStopped .baseFault s.mrg.cursor) s.mrg.noticeRegion (s.mg p)).notices)

/-- TARGET_STATUS of a mount read: anchor copies, a header, replay and the end without a layout (R137, R139, R140, R141,
R142, R145). The model's own in it: log entries 14, 29, 51. -/
def Obligations.MountReadsEnd : Prop :=
  (∀ a b : AnchorImage, chooseCopy (some a) (some b) = (if a.gen < b.gen then some (1, b) else some (0, a)) ∧
    chooseCopy (some a) none = some (0, a) ∧ chooseCopy none (some b) = some (1, b) ∧ chooseCopy none none = none) ∧
  ∀ (s : State) (tag done value : Nat) (detail : Option Nat) (o : TargetOp) (bytes : List Byte),
    s.carriedOut tag o → o.req.owner = .mount → o.req.op = .read → bytes = o.got.flatten →
    (s.mnt.stage = .anchor 0 → ∃ t, exec (.targetStatus tag 0x00 done detail value) s = .next t ∧
      t.mnt.stage = .anchor 1 ∧ t.mnt.dev = s.mnt.dev ∧
      t.mnt.holding.copy0 = (parseAnchor bytes).filter (anchorValid s.capacity) ∧
      t.pool = { s.pool with chargeI := s.pool.chargeI - 3, claimsI := s.pool.claimsI ++ [⟨.mount, 3⟩] }) ∧
    (s.mnt.stage = .anchor 1 → ∀ b, b = (parseAnchor bytes).filter (anchorValid s.capacity) →
      (chooseCopy s.mnt.holding.copy0 b = none →
        ∃ t, exec (.targetStatus tag 0x00 done detail value) s = .next t ∧ t.mnt.dev = .blank ∧ t.mnt.stage = .idle ∧
          t.map.active = s.map.active ∧ t.map.layout = s.map.layout) ∧
      (∀ k a, chooseCopy s.mnt.holding.copy0 b = some (k, a) → a.layout.isSome = true →
        ∃ t, exec (.targetStatus tag 0x00 done detail value) s = .next t ∧ t.mnt.stage = .header .A ∧
          t.mnt.holding.chosen = some (k, a) ∧
          t.pool = { s.pool with chargeI := s.pool.chargeI - 3, claimsI := s.pool.claimsI ++ [⟨.mount, 1⟩] }) ∧
      (∀ k a, chooseCopy s.mnt.holding.copy0 b = some (k, a) → a.layout = none →
        ∃ t, exec (.targetStatus tag 0x00 done detail value) s = .next t ∧ t.mnt.dev = .ready ∧ t.mnt.stage = .idle ∧
          t.map.active = a.map ∧ t.map.layout = none ∧ t.map.anchorGen = a.gen ∧ t.map.anchorCopy = some k ∧
          t.ov.table = [] ∧ t.ov.ring = [] ∧ t.jrn.run = s.jrn.run ∧
          t.mgA = offer (.mountResult .clean none 0 0 0) none s.mgA ∧
          t.mgB = offer (.mountResult .clean none 0 0 0) none s.mgB)) ∧
    (s.mnt.stage = .header .A → ∃ t, exec (.targetStatus tag 0x0C done detail value) s = .next t ∧
      t.mnt.stage = .header .B ∧ t.mnt.holding = s.mnt.holding ∧
      t.pool = { s.pool with chargeI := s.pool.chargeI - 1, claimsI := s.pool.claimsI ++ [⟨.mount, 1⟩] }) ∧
    (s.mnt.stage = .replay → ∀ h, h = s.mnt.holding →
      (∀ b c k, parseJournal bytes = some b → b.formatId = h.formatId → b.seq = h.expected →
        b.recs.all (recordGood h.slots) = true → k = b.recs.foldl (fun x r => applyRecord r x) h →
        k.table.length ≤ 16384 → h.loaded = some c → h.expected + 1 - c.header.start < h.journalLen →
        ∃ t, exec (.targetStatus tag 0x00 done detail value) s = .next t ∧ t.mnt.stage = .replay ∧
          t.mnt.holding = { k with expected := h.expected + 1 }) ∧
      (replayBlock bytes h = none → 0 < h.scanCount →
        ∃ t, exec (.targetStatus tag 0x00 done detail value) s = .next t ∧ t.mnt.stage = .scan 0 ∧
          t.mnt.holding = h) ∧
      (∀ result, result = 0x06 ∨ result = 0x0C → 0 < h.scanCount →
        ∃ t, exec (.targetStatus tag result done detail value) s = .next t ∧ t.mnt.stage = .scan 0 ∧
          t.mnt.holding = h))

/-- TARGET_STATUS of a formatting write: the next write, the new layout in force, or the old state kept (R147, R148). The
model's own in it: log entry 29. -/
def Obligations.FormattingWritesEnd : Prop :=
  ∀ (s : State) (tag done value : Nat) (detail : Option Nat) (o : TargetOp) (f : Formatting), s.carriedOut tag o →
    o.req.owner = .format → o.req.op = .write → s.mnt.format = some f →
    (f.step < 6 → exec (.targetStatus tag 0x00 done detail value) s = .next { s with
      te := { s.te with ops := s.te.ops.filter fun x => decide (x.tag ≠ tag) },
      mnt := { s.mnt with format := some { f with step := f.step + 1 } },
      pool := { s.pool with
        chargeI := s.pool.chargeI - 1,
        claimsI := s.pool.claimsI ++ [⟨.format, if f.step + 1 = 6 then 3 else 1⟩] } }) ∧
    (f.step = 6 → s.jrn.waiting = [] →
      ∃ t, exec (.targetStatus tag 0x00 done detail value) s = .next t ∧ t.map.layout = some f.layout ∧
        t.map.formatId = f.formatId ∧ t.map.anchorGen = s.map.anchorGen + 1 ∧
        t.map.anchorCopy = some (if s.map.anchorCopy = some 0 then 1 else 0) ∧ t.map.active = s.map.active ∧
        t.mnt.format = none ∧ t.ov.table = [] ∧ t.ov.reservations = [] ∧ t.ov.retired = [] ∧
        t.ov.slots = f.layout.slots ∧ t.ov.ring = List.range f.layout.slots ∧ t.jrn.qNext = 0 ∧ t.jrn.sCk = 0 ∧
        t.jrn.openBuf = [] ∧ t.jrn.cond = .normal ∧ t.jrn.newest = some .A ∧ t.jrn.newestGen = 1 ∧
        (s.mnt.dev = .blank → t.mnt.dev = .ready) ∧
        ∀ p, f.owed = some p → t.respondedWith p .doneOk (s.map.anchorGen + 1) 0 f.formatId 0) ∧
    (∃ t, exec (.targetStatus tag 0x0C done detail value) s = .next t ∧ t.mnt.format = none ∧ t.map = s.map ∧
      t.ov = s.ov ∧ t.jrn = s.jrn ∧
      ∀ p, f.owed = some p → t.respondedWith p (if f.step = 6 then .anchorFault else .targetFault) 0 0 0 0)

/-- A request by its sequence, before the mount, and with an unknown code (R13, R169, R170). The model's own in it: log entry
3. -/
def Obligations.RequestsAreJudgedBeforeTheirOwner : Prop :=
  (∀ (i : Instr) (p : Port) (q : BitVec 16) (code : Nat) (s : State), i.request? = some (p, q, code) →
    ((s.mg p).inProgress ≠ none → exec i s = .next s) ∧
    ((s.mg p).inProgress = none → (s.mg p).lastSeq = some q → exec i s = .next s) ∧
    ((s.mg p).inProgress = none → ∀ l, (s.mg p).lastSeq = some l → q ≠ l → q ≠ l + 1 →
      exec i s = .next (s.setMg p { s.mg p with
        response := { state := .done, seq := some q, code := some code, result := some .sequenceError, n1 := 0, n2 := 0,
                      n3 := 0, n4 := 0, items := [] } }))) ∧
  (∀ (i : Instr) (p : Port) (q : BitVec 16) (code : Nat) (s : State), i.request? = some (p, q, code) →
    (s.mg p).canPost q → (s.mnt.dev = .mounting ∨ s.mnt.dev = .offline) →
    exec i s = .next (s.plainly p q code .notReady)) ∧
  ∀ (p : Port) (q : BitVec 16) (code : Nat) (s : State), s.accepts p q →
    exec (.unknownRequest p q code) s = .next (s.plainly p q code .unknownRequest)

/-- STAGE copies the active map, or is refused STAGE_HELD (R10). -/
def Obligations.StageTakesTheClaimOrIsRefused : Prop :=
  ∀ (p : Port) (q : BitVec 16) (s : State), s.accepts p q →
    ((∀ m, s.map.stage ≠ some (p.other, m)) → exec (.stage p q) s = .next
      (State.plainly { s with map := { s.map with stage := some (p, s.map.active) } } p q 0x01 .doneOk)) ∧
    (∀ m, s.map.stage = some (p.other, m) → exec (.stage p q) s = .next (s.plainly p q 0x01 .stageHeld))

/-- PUT_REGION checks the claim, the parameters, COUNT and ALIGN, and then writes the entry (R11). -/
def Obligations.PutRegionChecksInOrder : Prop :=
  ∀ (p : Port) (q : BitVec 16) (index policy : Nat) (rp wp : PortSet) (first count target : Nat) (s : State),
    s.accepts p q →
    ((∀ m, s.map.stage ≠ some (p, m)) →
      exec (.putRegion p q index policy rp wp first count target) s = .next (s.plainly p q 0x02 .noStage)) ∧
    ∀ m, s.map.stage = some (p, m) →
      ((31 < index ∨ 4 < policy) →
        exec (.putRegion p q index policy rp wp first count target) s = .next (s.plainly p q 0x02 .badParameter)) ∧
      ∀ pol, index ≤ 31 → Policy.ofCode policy = some pol →
        (count < 8 → exec (.putRegion p q index policy rp wp first count target) s = .next
          (s.answered p q 0x02 .mapInvalid 0 0 0 0 [padTo 16 (le 1 index ++ le 1 1)])) ∧
        (8 ≤ count → ¬ (first % 8 = 0 ∧ count % 8 = 0 ∧ target % 8 = 0) →
          exec (.putRegion p q index policy rp wp first count target) s = .next
            (s.answered p q 0x02 .mapInvalid 0 0 0 0 [padTo 16 (le 1 index ++ le 1 2)])) ∧
        (8 ≤ count → first % 8 = 0 → count % 8 = 0 → target % 8 = 0 →
          exec (.putRegion p q index policy rp wp first count target) s = .next
            (State.plainly { s with map := { s.map with stage := some (p, m.put index
              ⟨true, pol, rp, wp, first, count, target⟩) } } p q 0x02 .doneOk))

/-- CLEAR_REGION and SET_CAPACITY edit the staging map, UNSTAGE releases it, or they are refused (R12, R13). The model's own
in it: log entries 15, 17. -/
def Obligations.ClearRegionSetCapacityAndUnstage : Prop :=
  (∀ (p : Port) (q : BitVec 16) (index c : Nat) (s : State), s.accepts p q →
    ((∀ m, s.map.stage ≠ some (p, m)) →
      exec (.clearRegion p q index) s = .next (s.plainly p q 0x03 .noStage) ∧
      exec (.setCapacity p q c) s = .next (s.plainly p q 0x04 .noStage)) ∧
    ∀ m, s.map.stage = some (p, m) →
      (31 < index → exec (.clearRegion p q index) s = .next (s.plainly p q 0x03 .badParameter)) ∧
      (index ≤ 31 → exec (.clearRegion p q index) s = .next (State.plainly
        { s with map := { s.map with stage := some (p, m.put index Region.unused) } }
        p q 0x03 .doneOk)) ∧
      (c % 8 = 0 → c ≤ 2 ^ 40 - 8 → exec (.setCapacity p q c) s = .next (State.plainly
        { s with map := { s.map with stage := some (p, { m with cap := c }) } } p q 0x04 .doneOk)) ∧
      (¬ (c % 8 = 0 ∧ c ≤ 2 ^ 40 - 8) → exec (.setCapacity p q c) s = .next (s.plainly p q 0x04 .badParameter))) ∧
  ∀ (p : Port) (q : BitVec 16) (s : State), s.accepts p q →
    ((∀ m, s.map.stage ≠ some (p, m)) → exec (.unstage p q) s = .next (s.plainly p q 0x05 .noStage)) ∧
    (∀ m, s.map.stage = some (p, m) → s.map.activation = none →
      exec (.unstage p q) s = .next
        (State.plainly { s with map := { s.map with stage := none } } p q 0x05 .doneOk))

/-- ACTIVATE is refused by the first condition that applies, or sets the pause and counts the records of the drain (R14, R15,
R16, R56). The model's own in it: log entry 29. -/
def Obligations.ActivateIsRefusedOrStarts : Prop :=
  (∀ (p : Port) (q : BitVec 16) (s : State), s.accepts p q →
    ((∀ m, s.map.stage ≠ some (p, m)) → exec (.activate p q) s = .next (s.plainly p q 0x06 .noStage)) ∧
    ∀ m, s.map.stage = some (p, m) →
      (s.map.hold = true → exec (.activate p q) s = .next (s.plainly p q 0x06 .held)) ∧
      (s.map.hold = false →
        ((s.mrg.state ≠ .none ∨ s.mrg.discard.isSome = true ∨ s.map.activation.isSome = true ∨
            s.mnt.format.isSome = true) → exec (.activate p q) s = .next (s.plainly p q 0x06 .busy)) ∧
        (s.storeBusy = false →
          (∀ i why, mapFault m s.map.layout s.capacity = some (i, why) → exec (.activate p q) s = .next
            (s.answered p q 0x06 .mapInvalid 0 0 0 0 [padTo 16 (le 1 i ++ le 1 why.code)])) ∧
          (∀ i, mapFault m s.map.layout s.capacity = none → s.blockedIndex m = some i →
            exec (.activate p q) s = .next
              (s.answered p q 0x06 .regionHasOverlay 0 0 0 0 [padTo 16 (le 1 i ++ le 1 0)]))))) ∧
  ∀ (p : Port) (q : BitVec 16) (m : RegionMap) (s : State), s.accepts p q → s.map.stage = some (p, m) →
    s.map.hold = false → s.storeBusy = false → mapFault m s.map.layout s.capacity = none → s.blockedIndex m = none →
    ∃ t, exec (.activate p q) s = .next t ∧ t.adm.pause = true ∧
      t.adm.records = s.adm.records.map (fun r => { r with
        counted := decide (r.path = some .region) || decide (r.path = some .plain) }) ∧
      t.map.activation = some
        { map := m, port := p, owed := some p, claimKept := true,
          remaining := (s.adm.records.filter Record.drains).length,
          draining := decide (0 < (s.adm.records.filter Record.drains).length) } ∧
      t.map.active = s.map.active ∧ t.map.stage = s.map.stage ∧ t.mg p = (s.inProgressFor p q 0x06).mg p ∧
      t.pool.claimsI = s.pool.claimsI ++
        (if (s.adm.records.filter Record.drains).length = 0 then [⟨.anchor, 3⟩] else []) ∧
      t.te = s.te ∧ t.ov = s.ov ∧ t.adm.order = s.adm.order

/-- SET_LAYOUT is refused in order, or starts the formatting writes (R103, R146, R147). The model's own in it: log entries
29, and 40 (the place of BUSY). -/
def Obligations.SetLayoutStartsFormattingOrIsRefused : Prop :=
  ∀ (p : Port) (q : BitVec 16) (l : Layout) (s : State), s.accepts p q →
    (s.map.hold = true → exec (.setLayout p q l) s = .next (s.plainly p q 0x10 .held)) ∧
    (s.map.hold = false →
      (layoutValid l s.capacity = false ∨ (layoutValid l s.capacity = true ∧ ∃ i, i < 32 ∧
          (s.map.active.region i).inUse = true ∧
          targetRangeOk (s.map.active.region i) (some l) s.capacity = false) →
        exec (.setLayout p q l) s = .next (s.plainly p q 0x10 .badParameter)) ∧
      (layoutValid l s.capacity = true → (∀ i, i < 32 → (s.map.active.region i).inUse = true →
          targetRangeOk (s.map.active.region i) (some l) s.capacity = true) →
        (s.layoutInUse p = true → exec (.setLayout p q l) s = .next (s.plainly p q 0x10 .layoutInUse)) ∧
        (s.layoutInUse p = false → s.mrg.state ≠ .none →
          exec (.setLayout p q l) s = .next (s.plainly p q 0x10 .busy)) ∧
        (s.mrg.state = .none → s.layoutInUse p = false → exec (.setLayout p q l) s = .next { s.inProgressFor p q 0x10 with
          mnt := { s.mnt with
            format := some { layout := l, formatId := s.map.formatId + 1, owed := some p, step := 0 } },
          pool := { s.pool with claimsI := s.pool.claimsI ++ [⟨.format, 1⟩] } })))

/-- MERGE is refused in order, or starts its run at the lowest entry with a slot (R103, R104). -/
def Obligations.MergeStartsOrIsRefused : Prop :=
  ∀ (p : Port) (q : BitVec 16) (index : Nat) (s : State), s.accepts p q →
    (31 < index → index ≠ 0xFF → exec (.merge p q index) s = .next (s.plainly p q 0x20 .badParameter)) ∧
    (index ≤ 31 ∨ index = 0xFF →
      (s.map.hold = true → exec (.merge p q index) s = .next (s.plainly p q 0x20 .held)) ∧
      (s.map.hold = false →
        (s.map.layout = none → exec (.merge p q index) s = .next (s.plainly p q 0x20 .noLayout)) ∧
        (s.map.layout.isSome = true →
          (s.storeBusy = true → exec (.merge p q index) s = .next (s.plainly p q 0x20 .busy)) ∧
          (s.storeBusy = false →
            (s.mergeSelection index = none →
              exec (.merge p q index) s = .next (s.plainly p q 0x20 .badParameter)) ∧
            ∀ sel, s.mergeSelection index = some sel →
              (sel.any s.journaled = true → s.jrn.cond = .fault →
                exec (.merge p q index) s = .next (s.plainly p q 0x20 .journalFault)) ∧
              ((sel.any s.journaled && decide (s.jrn.cond = .fault)) = false →
                ((s.ov.table.find? fun e => sel.contains e.region && e.slot.isSome) = none →
                  ∃ t, exec (.merge p q index) s = .next t ∧ t.mrg.state = .none ∧ t.mrg.merged = 0 ∧
                    (t.mg p).response.result = some .doneOk ∧ (t.mg p).response.n3 = sel.length ∧
                    t.adm.order = s.adm.order) ∧
                (∀ e, (s.ov.table.find? fun e => sel.contains e.region && e.slot.isSome) = some e →
                  ∃ t g, exec (.merge p q index) s = .next t ∧ t.mrg.state = .running ∧ t.mrg.selection = sel ∧
                    t.mrg.cursor = e.grain ∧ t.mrg.merged = 0 ∧ t.mrg.left = 0 ∧
                    t.mrg.grain.map (·.stage) = some .waiting ∧
                    t.adm.order = s.adm.order ++ [⟨.merge e.grain, g⟩] ∧
                    (t.mg p).response.result = some .doneOk ∧ (t.mg p).response.n3 = sel.length ∧
                    t.ov = s.ov))))))

/-- HALT_MERGE is answered at once, or waits for the grain under way (R110). -/
def Obligations.HaltMergeEndsOrWaits : Prop :=
  ∀ (p : Port) (q : BitVec 16) (s : State), s.accepts p q →
    (s.mrg.state = .none → exec (.haltMerge p q) s = .next (s.plainly p q 0x21 .doneOk)) ∧
    (∀ x, s.mrg.state = .running → s.mrg.grain = some x →
      (x.stage = .waiting → s.claimGranted (.merge s.mrg.cursor) = false → s.mrg.haltOwed = [] →
        ∃ t, exec (.haltMerge p q) s = .next t ∧ t.mrg.state = .none ∧ t.mrg.cause = some .halted ∧
          t.mrg.grain = none ∧ (∀ y ∈ t.adm.order, y.ref ≠ .merge s.mrg.cursor) ∧
          (t.mg p).response.state = .done ∧ (t.mg p).response.result = some .doneOk ∧ t.ov = s.ov) ∧
      (x.stage ≠ .waiting → exec (.haltMerge p q) s = .next { s.inProgressFor p q 0x21 with
        mrg := { s.mrg with state := .halting, haltOwed := s.mrg.haltOwed ++ [p] } }))

/-- DISCARD is refused in order, or places its claim over the region (R113). The model's own in it: log entry 26. -/
def Obligations.DiscardIsPlacedOrRefused : Prop :=
  ∀ (p : Port) (q : BitVec 16) (index : Nat) (s : State), s.accepts p q →
    (31 < index → exec (.discard p q index) s = .next (s.plainly p q 0x22 .badParameter)) ∧
    (index ≤ 31 →
      (s.map.hold = true → exec (.discard p q index) s = .next (s.plainly p q 0x22 .held)) ∧
      (s.map.hold = false →
        (s.map.layout = none → exec (.discard p q index) s = .next (s.plainly p q 0x22 .noLayout)) ∧
        (s.map.layout.isSome = true →
          (s.storeBusy = true → exec (.discard p q index) s = .next (s.plainly p q 0x22 .busy)) ∧
          (s.storeBusy = false →
            (((s.map.active.region index).inUse && (s.policyOf index).isOverlay) = false →
              exec (.discard p q index) s = .next (s.plainly p q 0x22 .badParameter)) ∧
            (((s.map.active.region index).inUse && (s.policyOf index).isOverlay) = true →
              ((∀ x ∈ s.adm.order, ∀ i a n, x.ref ≠ .discard i a n) → ∃ g,
                exec (.discard p q index) s = .next { s.inProgressFor p q 0x22 with
                  mrg := { s.mrg with
                    discard := some ⟨index, true, some p, none, 0⟩ },
                  adm := { s.adm with order := s.adm.order ++
                    [⟨.discard index (s.map.active.region index).first (s.map.active.region index).count, g⟩] } }) ∧
              ((∃ x ∈ s.adm.order, ∃ i a n, x.ref = .discard i a n) →
                exec (.discard p q index) s = .next { s.inProgressFor p q 0x22 with
                  mrg := { s.mrg with discard := some ⟨index, false, some p, none, 0⟩ } }))))))

/-- CHECKPOINT is refused in order, or starts a run (R125, R129). -/
def Obligations.CheckpointStartsARunOrIsRefused : Prop :=
  ∀ (p : Port) (q : BitVec 16) (s : State), s.accepts p q →
    (s.map.layout = none → exec (.checkpoint p q) s = .next (s.plainly p q 0x23 .noLayout)) ∧
    (s.map.layout.isSome = true →
      (s.jrn.run.isSome = true ∨ s.mnt.format.isSome = true →
        exec (.checkpoint p q) s = .next (s.plainly p q 0x23 .busy)) ∧
      (s.jrn.run = none → s.mnt.format = none → exec (.checkpoint p q) s = .next { s.inProgressFor p q 0x23 with
        jrn := { s.jrn with
          nextRun := s.jrn.nextRun + 1,
          run := some
            { serial := s.jrn.nextRun, origin := .request p, owed := some p,
              area := if s.jrn.newest = some .A then .B else .A, gen := s.jrn.newestGen + 1, start := s.jrn.qNext,
              phase := .bitmap, formedMaps := 0, cursor := none, entryBlocks := 0, entries := 0, missed := false,
              walkEnded := false, unwritten := 0, claiming := true, image := 0xFFFFFFFF } },
        pool := { s.pool with claimsI := s.pool.claimsI ++ [⟨.ckBody s.jrn.nextRun, 1⟩] } }))

/-- The five queries answer from the state and change nothing else (R172, R173, R174, R175, R176, R185). The model's own in
it: log entries 19, 47. -/
def Obligations.QueriesAnswerAndChangeNothingElse : Prop :=
  ∀ (p : Port) (q : BitVec 16) (s : State), s.accepts p q →
    (∀ index map, 31 < index ∨ 1 < map → exec (.queryRegion p q index map) s = .next (s.plainly p q 0x30 .badParameter)) ∧
    (∀ index, index ≤ 31 → exec (.queryRegion p q index 0) s = .next (s.answered p q 0x30 .doneOk s.map.active.cap 0
      (boolCode s.map.hold + 2 * boolCode s.map.activation.isSome) s.holderCode
      [regionImage (s.map.active.region index), s.runtimeItem index])) ∧
    (∀ index, index ≤ 31 → (∀ m, s.map.stage ≠ some (p, m)) →
      exec (.queryRegion p q index 1) s = .next (s.plainly p q 0x30 .noStage)) ∧
    (∀ index m, index ≤ 31 → s.map.stage = some (p, m) →
      exec (.queryRegion p q index 1) s = .next (s.answered p q 0x30 .doneOk m.cap 0
        (boolCode s.map.hold + 2 * boolCode s.map.activation.isSome) s.holderCode
        [regionImage (m.region index), s.runtimeItem index])) ∧
    (∀ grain, 2 ^ 37 ≤ grain → exec (.queryOverlay p q grain) s = .next (s.plainly p q 0x31 .badParameter)) ∧
    (∀ grain, grain < 2 ^ 37 → ∃ n1, exec (.queryOverlay p q grain) s = .next (s.answered p q 0x31 .doneOk n1 0
      s.ov.table.length (boolCode (decide (30 < (s.ov.table.filter fun e => decide (grain ≤ e.grain)).length)))
      (((s.ov.table.filter fun e => decide (grain ≤ e.grain)).take 30).map fun e =>
        entryImage e.state.code e.region e.grain e.present e.lost e.slot))) ∧
    exec (.querySlots p q) s = .next (s.answered p q 0x32 .doneOk 0 0 0 0 [s.slotsItem]) ∧
    (∀ start, 16384 < start → exec (.queryRetired p q start) s = .next (s.plainly p q 0x33 .badParameter)) ∧
    (∀ start, start ≤ 16384 → ∃ n1, exec (.queryRetired p q start) s = .next (s.answered p q 0x33 .doneOk n1 0
      s.ov.retired.length (boolCode (decide (start + 30 < s.ov.retired.length)))
      (((s.ov.retired.drop start).take 30).map fun n => padTo 16 (le 2 n)))) ∧
    ∃ n1 n2, exec (.queryJournal p q) s = .next (s.answered p q 0x34 .doneOk n1 n2
      (boolCode (decide (s.jrn.cond = .fault))) s.mrg.state.code [s.journalItem, s.mergeItem])

/-- ACK_NOTICES removes the entries at or before its number from the posting port's queue (R180). -/
def Obligations.AckNoticesTrimsOneQueue : Prop :=
  ∀ (p : Port) (q : BitVec 16) (n : BitVec 32) (s : State), s.accepts p q →
    exec (.ackNotices p q n) s = .next (State.answered
      (s.setMg p { s.mg p with
        notices := (s.mg p).notices.filter (fun e => decide (¬ (n - e.number).toNat < 2 ^ 31)),
        incomplete := (s.mg p).incomplete &&
          !((s.mg p).notices.filter fun e => decide (¬ (n - e.number).toNat < 2 ^ 31)).isEmpty })
      p q 0x40 .doneOk 0 0
      ((s.mg p).notices.length - ((s.mg p).notices.filter fun e => decide (¬ (n - e.number).toNat < 2 ^ 31)).length)
      ((s.mg p).notices.filter fun e => decide (¬ (n - e.number).toNat < 2 ^ 31)).length [])

/-- The effective policies and the order of the access decision (R5, R6, R7). -/
def Obligations.AccessDecisionTakesTheFirstCondition : Prop :=
  (∀ pol layout, effPolicy false layout pol = pol) ∧
  (∀ layout, effPolicy true layout .pass = (if layout then .overlay else .readonly) ∧
    readSource true layout .pass = (if layout then .overlay else .base) ∧
    effPolicy true layout .keep = .readonly ∧ readSource true layout .keep = .overlay ∧
    effPolicy true layout .readonly = .readonly ∧ readSource true layout .readonly = .base ∧
    effPolicy true layout .overlay = .overlay ∧ readSource true layout .overlay = .overlay ∧
    effPolicy true layout .deny = .deny) ∧
  ∀ (eff : Policy) (write : Bool) (p : Port) (r : Region) (unavailable : Bool) (cond : JCondition),
    (eff = .deny → accessDecision eff write p r unavailable cond = some .denied) ∧
    (eff ≠ .deny →
      (write = false → r.readPorts.has p = false → accessDecision eff write p r unavailable cond = some .denied) ∧
      (write = true → r.writePorts.has p = false →
        accessDecision eff write p r unavailable cond = some .writeProtected) ∧
      ((if write then r.writePorts else r.readPorts).has p = true →
        (write = true → eff = .readonly → accessDecision eff write p r unavailable cond = some .writeProtected) ∧
        (¬ (write = true ∧ eff = .readonly) →
          (unavailable = true → accessDecision eff write p r unavailable cond = some .unavailable) ∧
          (unavailable = false →
            (write = true → eff = .keep → cond = .fault →
              accessDecision eff write p r unavailable cond = some .journalFault) ∧
            (¬ (write = true ∧ eff = .keep ∧ cond = .fault) →
              accessDecision eff write p r unavailable cond = none)))))

/-- In a valid map two regions share no logical block and no target block (R3, R4). -/
def Obligations.RegionsOfAValidMapDoNotOverlap : Prop :=
  ∀ (m : RegionMap) (layout : Option Layout) (capacity : Nat), mapFault m layout capacity = none →
    (∀ i j b, i < 32 → j < 32 → i ≠ j → (m.region i).holds b = true → (m.region j).holds b = false) ∧
    (∀ i j b c, i < 32 → j < 32 → i ≠ j → (m.region i).holds b = true → (m.region j).holds c = true →
      (m.region i).base b ≠ (m.region j).base c) ∧
    (∀ i b, i < 32 → (m.region i).holds b = true →
      b < m.cap ∧ (m.region i).base b < capacity ∧ 8 ≤ (m.region i).base b)

/-- Every command that is a frame reads back from the bytes of its frame (R183, R184, R150). -/
def Obligations.HostFramesReadBackAsSent : Prop :=
  (∀ (i : Instr) (p : Port) (bytes : List Byte), i.wellFormed = true → i.hostPort? = some p →
    encodeHostFrame i = some bytes → decodeHostFrame p bytes = i) ∧
  ∀ (i : Instr) (bytes : List Byte), i.wellFormed = true → encodeTargetFrame i = some bytes →
    decodeTargetFrame bytes = i

/-- Every management request reads back from its request block (R172, R183). -/
def Obligations.RequestBlocksReadBackAsWritten : Prop :=
  ∀ (q : BitVec 16) (r : MReq), r.fits = true → parseRequest (requestBlock q r) = (q, r)

/-- Notice queues, buffer charges and the tags of the ports stay within their bounds (R66, R152, R178). -/
def Obligations.QueuesAndChargesStayBounded : Prop :=
  ∀ s t : State, s.noticesOk ∧ s.pool.withinQuota ∧ s.portsOk → step s = .next t →
    t.noticesOk ∧ t.pool.withinQuota ∧ t.portsOk

/-- The target operation table stays well formed (R70, R71, R97, R98). -/
def Obligations.TargetTableStaysWithinCaps : Prop :=
  ∀ s t : State, s.te.tableOk ∧ s.te.queuesOk → step s = .next t → t.te.tableOk ∧ t.te.queuesOk

/-- The Overlay Table, its masks, the slot pool and the reservations stay well formed (R20, R21, R25, R27, R88, R140, R141).
-/
def Obligations.OverlayStoreStaysWellFormed : Prop :=
  ∀ s t : State, s.storeOk → step s = .next t → t.storeOk

/-- The state after reset meets every invariant (R134). -/
def Obligations.ResetMeetsTheInvariants : Prop :=
  State.reset.noticesOk ∧ State.reset.pool.withinQuota ∧ State.reset.portsOk ∧ State.reset.te.tableOk ∧
    State.reset.te.queuesOk ∧ State.reset.storeOk
end

