-- ==== Sys2Proof/Laws/State.lean ====
section
/-! SUPPORT. What each shared update does to each field of State: one rewriting rule per field and update. -/

namespace Sys2Proof.Machine

/-! ### setHp -/

@[simp] theorem setHp_map (s : State) (p : Port) (u : HostPortUnit) : (s.setHp p u).map = s.map := by
  cases p <;> rfl
@[simp] theorem setHp_ov (s : State) (p : Port) (u : HostPortUnit) : (s.setHp p u).ov = s.ov := by
  cases p <;> rfl
@[simp] theorem setHp_adm (s : State) (p : Port) (u : HostPortUnit) : (s.setHp p u).adm = s.adm := by
  cases p <;> rfl
@[simp] theorem setHp_te (s : State) (p : Port) (u : HostPortUnit) : (s.setHp p u).te = s.te := by
  cases p <;> rfl
@[simp] theorem setHp_pool (s : State) (p : Port) (u : HostPortUnit) : (s.setHp p u).pool = s.pool := by
  cases p <;> rfl
@[simp] theorem setHp_mrg (s : State) (p : Port) (u : HostPortUnit) : (s.setHp p u).mrg = s.mrg := by
  cases p <;> rfl
@[simp] theorem setHp_jrn (s : State) (p : Port) (u : HostPortUnit) : (s.setHp p u).jrn = s.jrn := by
  cases p <;> rfl
@[simp] theorem setHp_mnt (s : State) (p : Port) (u : HostPortUnit) : (s.setHp p u).mnt = s.mnt := by
  cases p <;> rfl
@[simp] theorem setHp_mgA (s : State) (p : Port) (u : HostPortUnit) : (s.setHp p u).mgA = s.mgA := by
  cases p <;> rfl
@[simp] theorem setHp_mgB (s : State) (p : Port) (u : HostPortUnit) : (s.setHp p u).mgB = s.mgB := by
  cases p <;> rfl
@[simp] theorem setHp_outA (s : State) (p : Port) (u : HostPortUnit) : (s.setHp p u).outA = s.outA := by
  cases p <;> rfl
@[simp] theorem setHp_outB (s : State) (p : Port) (u : HostPortUnit) : (s.setHp p u).outB = s.outB := by
  cases p <;> rfl
@[simp] theorem setHp_outT (s : State) (p : Port) (u : HostPortUnit) : (s.setHp p u).outT = s.outT := by
  cases p <;> rfl
@[simp] theorem setHp_free (s : State) (p : Port) (u : HostPortUnit) : (s.setHp p u).free = s.free := by
  cases p <;> rfl
@[simp] theorem setHp_pending (s : State) (p : Port) (u : HostPortUnit) : (s.setHp p u).pending = s.pending := by
  cases p <;> rfl

/-! ### setMg -/

@[simp] theorem setMg_map (s : State) (p : Port) (m : PortMgmt) : (s.setMg p m).map = s.map := by
  cases p <;> rfl
@[simp] theorem setMg_ov (s : State) (p : Port) (m : PortMgmt) : (s.setMg p m).ov = s.ov := by
  cases p <;> rfl
@[simp] theorem setMg_adm (s : State) (p : Port) (m : PortMgmt) : (s.setMg p m).adm = s.adm := by
  cases p <;> rfl
@[simp] theorem setMg_hpA (s : State) (p : Port) (m : PortMgmt) : (s.setMg p m).hpA = s.hpA := by
  cases p <;> rfl
@[simp] theorem setMg_hpB (s : State) (p : Port) (m : PortMgmt) : (s.setMg p m).hpB = s.hpB := by
  cases p <;> rfl
@[simp] theorem setMg_te (s : State) (p : Port) (m : PortMgmt) : (s.setMg p m).te = s.te := by
  cases p <;> rfl
@[simp] theorem setMg_pool (s : State) (p : Port) (m : PortMgmt) : (s.setMg p m).pool = s.pool := by
  cases p <;> rfl
@[simp] theorem setMg_mrg (s : State) (p : Port) (m : PortMgmt) : (s.setMg p m).mrg = s.mrg := by
  cases p <;> rfl
@[simp] theorem setMg_jrn (s : State) (p : Port) (m : PortMgmt) : (s.setMg p m).jrn = s.jrn := by
  cases p <;> rfl
@[simp] theorem setMg_mnt (s : State) (p : Port) (m : PortMgmt) : (s.setMg p m).mnt = s.mnt := by
  cases p <;> rfl
@[simp] theorem setMg_outA (s : State) (p : Port) (m : PortMgmt) : (s.setMg p m).outA = s.outA := by
  cases p <;> rfl
@[simp] theorem setMg_outB (s : State) (p : Port) (m : PortMgmt) : (s.setMg p m).outB = s.outB := by
  cases p <;> rfl
@[simp] theorem setMg_outT (s : State) (p : Port) (m : PortMgmt) : (s.setMg p m).outT = s.outT := by
  cases p <;> rfl
@[simp] theorem setMg_free (s : State) (p : Port) (m : PortMgmt) : (s.setMg p m).free = s.free := by
  cases p <;> rfl
@[simp] theorem setMg_pending (s : State) (p : Port) (m : PortMgmt) : (s.setMg p m).pending = s.pending := by
  cases p <;> rfl

/-! ### send -/

@[simp] theorem send_map (s : State) (p : Port) (f : HostFrame) : (s.send p f).map = s.map := by
  cases p <;> rfl
@[simp] theorem send_ov (s : State) (p : Port) (f : HostFrame) : (s.send p f).ov = s.ov := by
  cases p <;> rfl
@[simp] theorem send_adm (s : State) (p : Port) (f : HostFrame) : (s.send p f).adm = s.adm := by
  cases p <;> rfl
@[simp] theorem send_hpA (s : State) (p : Port) (f : HostFrame) : (s.send p f).hpA = s.hpA := by
  cases p <;> rfl
@[simp] theorem send_hpB (s : State) (p : Port) (f : HostFrame) : (s.send p f).hpB = s.hpB := by
  cases p <;> rfl
@[simp] theorem send_te (s : State) (p : Port) (f : HostFrame) : (s.send p f).te = s.te := by
  cases p <;> rfl
@[simp] theorem send_pool (s : State) (p : Port) (f : HostFrame) : (s.send p f).pool = s.pool := by
  cases p <;> rfl
@[simp] theorem send_mrg (s : State) (p : Port) (f : HostFrame) : (s.send p f).mrg = s.mrg := by
  cases p <;> rfl
@[simp] theorem send_jrn (s : State) (p : Port) (f : HostFrame) : (s.send p f).jrn = s.jrn := by
  cases p <;> rfl
@[simp] theorem send_mnt (s : State) (p : Port) (f : HostFrame) : (s.send p f).mnt = s.mnt := by
  cases p <;> rfl
@[simp] theorem send_mgA (s : State) (p : Port) (f : HostFrame) : (s.send p f).mgA = s.mgA := by
  cases p <;> rfl
@[simp] theorem send_mgB (s : State) (p : Port) (f : HostFrame) : (s.send p f).mgB = s.mgB := by
  cases p <;> rfl
@[simp] theorem send_outT (s : State) (p : Port) (f : HostFrame) : (s.send p f).outT = s.outT := by
  cases p <;> rfl
@[simp] theorem send_free (s : State) (p : Port) (f : HostFrame) : (s.send p f).free = s.free := by
  cases p <;> rfl
@[simp] theorem send_pending (s : State) (p : Port) (f : HostFrame) : (s.send p f).pending = s.pending := by
  cases p <;> rfl

/-! ### sendT -/

@[simp] theorem sendT_map (s : State) (f : TargetFrame) : (s.sendT f).map = s.map := rfl
@[simp] theorem sendT_ov (s : State) (f : TargetFrame) : (s.sendT f).ov = s.ov := rfl
@[simp] theorem sendT_adm (s : State) (f : TargetFrame) : (s.sendT f).adm = s.adm := rfl
@[simp] theorem sendT_hpA (s : State) (f : TargetFrame) : (s.sendT f).hpA = s.hpA := rfl
@[simp] theorem sendT_hpB (s : State) (f : TargetFrame) : (s.sendT f).hpB = s.hpB := rfl
@[simp] theorem sendT_te (s : State) (f : TargetFrame) : (s.sendT f).te = s.te := rfl
@[simp] theorem sendT_pool (s : State) (f : TargetFrame) : (s.sendT f).pool = s.pool := rfl
@[simp] theorem sendT_mrg (s : State) (f : TargetFrame) : (s.sendT f).mrg = s.mrg := rfl
@[simp] theorem sendT_jrn (s : State) (f : TargetFrame) : (s.sendT f).jrn = s.jrn := rfl
@[simp] theorem sendT_mnt (s : State) (f : TargetFrame) : (s.sendT f).mnt = s.mnt := rfl
@[simp] theorem sendT_mgA (s : State) (f : TargetFrame) : (s.sendT f).mgA = s.mgA := rfl
@[simp] theorem sendT_mgB (s : State) (f : TargetFrame) : (s.sendT f).mgB = s.mgB := rfl
@[simp] theorem sendT_outA (s : State) (f : TargetFrame) : (s.sendT f).outA = s.outA := rfl
@[simp] theorem sendT_outB (s : State) (f : TargetFrame) : (s.sendT f).outB = s.outB := rfl
@[simp] theorem sendT_outT (s : State) (f : TargetFrame) : (s.sendT f).outT = s.outT ++ [f] := rfl
@[simp] theorem sendT_free (s : State) (f : TargetFrame) : (s.sendT f).free = s.free := rfl
@[simp] theorem sendT_pending (s : State) (f : TargetFrame) : (s.sendT f).pending = s.pending := rfl

/-! ### setTag -/

@[simp] theorem setTag_map (s : State) (c : CmdId) (t : Tag) : (s.setTag c t).map = s.map := by
  unfold State.setTag State.setHp; cases c.port <;> rfl
@[simp] theorem setTag_ov (s : State) (c : CmdId) (t : Tag) : (s.setTag c t).ov = s.ov := by
  unfold State.setTag State.setHp; cases c.port <;> rfl
@[simp] theorem setTag_adm (s : State) (c : CmdId) (t : Tag) : (s.setTag c t).adm = s.adm := by
  unfold State.setTag State.setHp; cases c.port <;> rfl
@[simp] theorem setTag_te (s : State) (c : CmdId) (t : Tag) : (s.setTag c t).te = s.te := by
  unfold State.setTag State.setHp; cases c.port <;> rfl
@[simp] theorem setTag_pool (s : State) (c : CmdId) (t : Tag) : (s.setTag c t).pool = s.pool := by
  unfold State.setTag State.setHp; cases c.port <;> rfl
@[simp] theorem setTag_mrg (s : State) (c : CmdId) (t : Tag) : (s.setTag c t).mrg = s.mrg := by
  unfold State.setTag State.setHp; cases c.port <;> rfl
@[simp] theorem setTag_jrn (s : State) (c : CmdId) (t : Tag) : (s.setTag c t).jrn = s.jrn := by
  unfold State.setTag State.setHp; cases c.port <;> rfl
@[simp] theorem setTag_mnt (s : State) (c : CmdId) (t : Tag) : (s.setTag c t).mnt = s.mnt := by
  unfold State.setTag State.setHp; cases c.port <;> rfl
@[simp] theorem setTag_mgA (s : State) (c : CmdId) (t : Tag) : (s.setTag c t).mgA = s.mgA := by
  unfold State.setTag State.setHp; cases c.port <;> rfl
@[simp] theorem setTag_mgB (s : State) (c : CmdId) (t : Tag) : (s.setTag c t).mgB = s.mgB := by
  unfold State.setTag State.setHp; cases c.port <;> rfl
@[simp] theorem setTag_outA (s : State) (c : CmdId) (t : Tag) : (s.setTag c t).outA = s.outA := by
  unfold State.setTag State.setHp; cases c.port <;> rfl
@[simp] theorem setTag_outB (s : State) (c : CmdId) (t : Tag) : (s.setTag c t).outB = s.outB := by
  unfold State.setTag State.setHp; cases c.port <;> rfl
@[simp] theorem setTag_outT (s : State) (c : CmdId) (t : Tag) : (s.setTag c t).outT = s.outT := by
  unfold State.setTag State.setHp; cases c.port <;> rfl
@[simp] theorem setTag_free (s : State) (c : CmdId) (t : Tag) : (s.setTag c t).free = s.free := by
  unfold State.setTag State.setHp; cases c.port <;> rfl
@[simp] theorem setTag_pending (s : State) (c : CmdId) (t : Tag) : (s.setTag c t).pending = s.pending := by
  unfold State.setTag State.setHp; cases c.port <;> rfl

/-! ### sendStatus -/

@[simp] theorem sendStatus_map (s : State) (c : CmdId) (res : Result) (done : Nat) (d : Option Nat) (v : Nat) : (sendStatus c res done d v s).map = s.map := by
  unfold sendStatus State.setTag State.setHp State.send; cases c.port <;> rfl
@[simp] theorem sendStatus_ov (s : State) (c : CmdId) (res : Result) (done : Nat) (d : Option Nat) (v : Nat) : (sendStatus c res done d v s).ov = s.ov := by
  unfold sendStatus State.setTag State.setHp State.send; cases c.port <;> rfl
@[simp] theorem sendStatus_adm (s : State) (c : CmdId) (res : Result) (done : Nat) (d : Option Nat) (v : Nat) : (sendStatus c res done d v s).adm = s.adm := by
  unfold sendStatus State.setTag State.setHp State.send; cases c.port <;> rfl
@[simp] theorem sendStatus_te (s : State) (c : CmdId) (res : Result) (done : Nat) (d : Option Nat) (v : Nat) : (sendStatus c res done d v s).te = s.te := by
  unfold sendStatus State.setTag State.setHp State.send; cases c.port <;> rfl
@[simp] theorem sendStatus_pool (s : State) (c : CmdId) (res : Result) (done : Nat) (d : Option Nat) (v : Nat) : (sendStatus c res done d v s).pool = s.pool := by
  unfold sendStatus State.setTag State.setHp State.send; cases c.port <;> rfl
@[simp] theorem sendStatus_mrg (s : State) (c : CmdId) (res : Result) (done : Nat) (d : Option Nat) (v : Nat) : (sendStatus c res done d v s).mrg = s.mrg := by
  unfold sendStatus State.setTag State.setHp State.send; cases c.port <;> rfl
@[simp] theorem sendStatus_jrn (s : State) (c : CmdId) (res : Result) (done : Nat) (d : Option Nat) (v : Nat) : (sendStatus c res done d v s).jrn = s.jrn := by
  unfold sendStatus State.setTag State.setHp State.send; cases c.port <;> rfl
@[simp] theorem sendStatus_mnt (s : State) (c : CmdId) (res : Result) (done : Nat) (d : Option Nat) (v : Nat) : (sendStatus c res done d v s).mnt = s.mnt := by
  unfold sendStatus State.setTag State.setHp State.send; cases c.port <;> rfl
@[simp] theorem sendStatus_mgA (s : State) (c : CmdId) (res : Result) (done : Nat) (d : Option Nat) (v : Nat) : (sendStatus c res done d v s).mgA = s.mgA := by
  unfold sendStatus State.setTag State.setHp State.send; cases c.port <;> rfl
@[simp] theorem sendStatus_mgB (s : State) (c : CmdId) (res : Result) (done : Nat) (d : Option Nat) (v : Nat) : (sendStatus c res done d v s).mgB = s.mgB := by
  unfold sendStatus State.setTag State.setHp State.send; cases c.port <;> rfl
@[simp] theorem sendStatus_outT (s : State) (c : CmdId) (res : Result) (done : Nat) (d : Option Nat) (v : Nat) : (sendStatus c res done d v s).outT = s.outT := by
  unfold sendStatus State.setTag State.setHp State.send; cases c.port <;> rfl
@[simp] theorem sendStatus_free (s : State) (c : CmdId) (res : Result) (done : Nat) (d : Option Nat) (v : Nat) : (sendStatus c res done d v s).free = s.free := by
  unfold sendStatus State.setTag State.setHp State.send; cases c.port <;> rfl
@[simp] theorem sendStatus_pending (s : State) (c : CmdId) (res : Result) (done : Nat) (d : Option Nat) (v : Nat) : (sendStatus c res done d v s).pending = s.pending := by
  unfold sendStatus State.setTag State.setHp State.send; cases c.port <;> rfl

/-! ### raise -/

@[simp] theorem raise_map (s : State) (b : NoticeBody) (r : Option Nat) : (raise b r s).map = s.map := rfl
@[simp] theorem raise_ov (s : State) (b : NoticeBody) (r : Option Nat) : (raise b r s).ov = s.ov := rfl
@[simp] theorem raise_adm (s : State) (b : NoticeBody) (r : Option Nat) : (raise b r s).adm = s.adm := rfl
@[simp] theorem raise_hpA (s : State) (b : NoticeBody) (r : Option Nat) : (raise b r s).hpA = s.hpA := rfl
@[simp] theorem raise_hpB (s : State) (b : NoticeBody) (r : Option Nat) : (raise b r s).hpB = s.hpB := rfl
@[simp] theorem raise_te (s : State) (b : NoticeBody) (r : Option Nat) : (raise b r s).te = s.te := rfl
@[simp] theorem raise_pool (s : State) (b : NoticeBody) (r : Option Nat) : (raise b r s).pool = s.pool := rfl
@[simp] theorem raise_mrg (s : State) (b : NoticeBody) (r : Option Nat) : (raise b r s).mrg = s.mrg := rfl
@[simp] theorem raise_jrn (s : State) (b : NoticeBody) (r : Option Nat) : (raise b r s).jrn = s.jrn := rfl
@[simp] theorem raise_mnt (s : State) (b : NoticeBody) (r : Option Nat) : (raise b r s).mnt = s.mnt := rfl
@[simp] theorem raise_mgA (s : State) (b : NoticeBody) (r : Option Nat) : (raise b r s).mgA = offer b r s.mgA := rfl
@[simp] theorem raise_mgB (s : State) (b : NoticeBody) (r : Option Nat) : (raise b r s).mgB = offer b r s.mgB := rfl
@[simp] theorem raise_outA (s : State) (b : NoticeBody) (r : Option Nat) : (raise b r s).outA = s.outA := rfl
@[simp] theorem raise_outB (s : State) (b : NoticeBody) (r : Option Nat) : (raise b r s).outB = s.outB := rfl
@[simp] theorem raise_outT (s : State) (b : NoticeBody) (r : Option Nat) : (raise b r s).outT = s.outT := rfl
@[simp] theorem raise_free (s : State) (b : NoticeBody) (r : Option Nat) : (raise b r s).free = s.free := rfl
@[simp] theorem raise_pending (s : State) (b : NoticeBody) (r : Option Nat) : (raise b r s).pending = s.pending := rfl

/-! ### placeClaim -/

@[simp] theorem placeClaim_map (s : State) (o : BufOwner) (w : ClaimFor) (n : Nat) : (placeClaim o w n s).map = s.map := rfl
@[simp] theorem placeClaim_ov (s : State) (o : BufOwner) (w : ClaimFor) (n : Nat) : (placeClaim o w n s).ov = s.ov := rfl
@[simp] theorem placeClaim_adm (s : State) (o : BufOwner) (w : ClaimFor) (n : Nat) : (placeClaim o w n s).adm = s.adm := rfl
@[simp] theorem placeClaim_hpA (s : State) (o : BufOwner) (w : ClaimFor) (n : Nat) : (placeClaim o w n s).hpA = s.hpA := rfl
@[simp] theorem placeClaim_hpB (s : State) (o : BufOwner) (w : ClaimFor) (n : Nat) : (placeClaim o w n s).hpB = s.hpB := rfl
@[simp] theorem placeClaim_te (s : State) (o : BufOwner) (w : ClaimFor) (n : Nat) : (placeClaim o w n s).te = s.te := rfl
@[simp] theorem placeClaim_pool (s : State) (o : BufOwner) (w : ClaimFor) (n : Nat) : (placeClaim o w n s).pool = s.pool.setClaims o (s.pool.claims o ++ [{ who := w, count := n }]) := rfl
@[simp] theorem placeClaim_mrg (s : State) (o : BufOwner) (w : ClaimFor) (n : Nat) : (placeClaim o w n s).mrg = s.mrg := rfl
@[simp] theorem placeClaim_jrn (s : State) (o : BufOwner) (w : ClaimFor) (n : Nat) : (placeClaim o w n s).jrn = s.jrn := rfl
@[simp] theorem placeClaim_mnt (s : State) (o : BufOwner) (w : ClaimFor) (n : Nat) : (placeClaim o w n s).mnt = s.mnt := rfl
@[simp] theorem placeClaim_mgA (s : State) (o : BufOwner) (w : ClaimFor) (n : Nat) : (placeClaim o w n s).mgA = s.mgA := rfl
@[simp] theorem placeClaim_mgB (s : State) (o : BufOwner) (w : ClaimFor) (n : Nat) : (placeClaim o w n s).mgB = s.mgB := rfl
@[simp] theorem placeClaim_outA (s : State) (o : BufOwner) (w : ClaimFor) (n : Nat) : (placeClaim o w n s).outA = s.outA := rfl
@[simp] theorem placeClaim_outB (s : State) (o : BufOwner) (w : ClaimFor) (n : Nat) : (placeClaim o w n s).outB = s.outB := rfl
@[simp] theorem placeClaim_outT (s : State) (o : BufOwner) (w : ClaimFor) (n : Nat) : (placeClaim o w n s).outT = s.outT := rfl
@[simp] theorem placeClaim_free (s : State) (o : BufOwner) (w : ClaimFor) (n : Nat) : (placeClaim o w n s).free = s.free := rfl
@[simp] theorem placeClaim_pending (s : State) (o : BufOwner) (w : ClaimFor) (n : Nat) : (placeClaim o w n s).pending = s.pending := rfl

/-! ### dropClaims -/

@[simp] theorem dropClaims_map (s : State) (o : BufOwner) (gone : ClaimFor → Bool) : (dropClaims o gone s).map = s.map := rfl
@[simp] theorem dropClaims_ov (s : State) (o : BufOwner) (gone : ClaimFor → Bool) : (dropClaims o gone s).ov = s.ov := rfl
@[simp] theorem dropClaims_adm (s : State) (o : BufOwner) (gone : ClaimFor → Bool) : (dropClaims o gone s).adm = s.adm := rfl
@[simp] theorem dropClaims_hpA (s : State) (o : BufOwner) (gone : ClaimFor → Bool) : (dropClaims o gone s).hpA = s.hpA := rfl
@[simp] theorem dropClaims_hpB (s : State) (o : BufOwner) (gone : ClaimFor → Bool) : (dropClaims o gone s).hpB = s.hpB := rfl
@[simp] theorem dropClaims_te (s : State) (o : BufOwner) (gone : ClaimFor → Bool) : (dropClaims o gone s).te = s.te := rfl
@[simp] theorem dropClaims_mrg (s : State) (o : BufOwner) (gone : ClaimFor → Bool) : (dropClaims o gone s).mrg = s.mrg := rfl
@[simp] theorem dropClaims_jrn (s : State) (o : BufOwner) (gone : ClaimFor → Bool) : (dropClaims o gone s).jrn = s.jrn := rfl
@[simp] theorem dropClaims_mnt (s : State) (o : BufOwner) (gone : ClaimFor → Bool) : (dropClaims o gone s).mnt = s.mnt := rfl
@[simp] theorem dropClaims_mgA (s : State) (o : BufOwner) (gone : ClaimFor → Bool) : (dropClaims o gone s).mgA = s.mgA := rfl
@[simp] theorem dropClaims_mgB (s : State) (o : BufOwner) (gone : ClaimFor → Bool) : (dropClaims o gone s).mgB = s.mgB := rfl
@[simp] theorem dropClaims_outA (s : State) (o : BufOwner) (gone : ClaimFor → Bool) : (dropClaims o gone s).outA = s.outA := rfl
@[simp] theorem dropClaims_outB (s : State) (o : BufOwner) (gone : ClaimFor → Bool) : (dropClaims o gone s).outB = s.outB := rfl
@[simp] theorem dropClaims_outT (s : State) (o : BufOwner) (gone : ClaimFor → Bool) : (dropClaims o gone s).outT = s.outT := rfl
@[simp] theorem dropClaims_free (s : State) (o : BufOwner) (gone : ClaimFor → Bool) : (dropClaims o gone s).free = s.free := rfl
@[simp] theorem dropClaims_pending (s : State) (o : BufOwner) (gone : ClaimFor → Bool) : (dropClaims o gone s).pending = s.pending := rfl

/-! ### release -/

@[simp] theorem release_map (s : State) (o : BufOwner) (n : Nat) : (release o n s).map = s.map := rfl
@[simp] theorem release_ov (s : State) (o : BufOwner) (n : Nat) : (release o n s).ov = s.ov := rfl
@[simp] theorem release_adm (s : State) (o : BufOwner) (n : Nat) : (release o n s).adm = s.adm := rfl
@[simp] theorem release_hpA (s : State) (o : BufOwner) (n : Nat) : (release o n s).hpA = s.hpA := rfl
@[simp] theorem release_hpB (s : State) (o : BufOwner) (n : Nat) : (release o n s).hpB = s.hpB := rfl
@[simp] theorem release_te (s : State) (o : BufOwner) (n : Nat) : (release o n s).te = s.te := rfl
@[simp] theorem release_pool (s : State) (o : BufOwner) (n : Nat) : (release o n s).pool = s.pool.setCharge o (s.pool.charge o - n) := rfl
@[simp] theorem release_mrg (s : State) (o : BufOwner) (n : Nat) : (release o n s).mrg = s.mrg := rfl
@[simp] theorem release_jrn (s : State) (o : BufOwner) (n : Nat) : (release o n s).jrn = s.jrn := rfl
@[simp] theorem release_mnt (s : State) (o : BufOwner) (n : Nat) : (release o n s).mnt = s.mnt := rfl
@[simp] theorem release_mgA (s : State) (o : BufOwner) (n : Nat) : (release o n s).mgA = s.mgA := rfl
@[simp] theorem release_mgB (s : State) (o : BufOwner) (n : Nat) : (release o n s).mgB = s.mgB := rfl
@[simp] theorem release_outA (s : State) (o : BufOwner) (n : Nat) : (release o n s).outA = s.outA := rfl
@[simp] theorem release_outB (s : State) (o : BufOwner) (n : Nat) : (release o n s).outB = s.outB := rfl
@[simp] theorem release_outT (s : State) (o : BufOwner) (n : Nat) : (release o n s).outT = s.outT := rfl
@[simp] theorem release_free (s : State) (o : BufOwner) (n : Nat) : (release o n s).free = s.free := rfl
@[simp] theorem release_pending (s : State) (o : BufOwner) (n : Nat) : (release o n s).pending = s.pending := rfl

/-! ### enqueue -/

@[simp] theorem enqueue_map (s : State) (r : Request) : (enqueue r s).map = s.map := rfl
@[simp] theorem enqueue_ov (s : State) (r : Request) : (enqueue r s).ov = s.ov := rfl
@[simp] theorem enqueue_adm (s : State) (r : Request) : (enqueue r s).adm = s.adm := rfl
@[simp] theorem enqueue_hpA (s : State) (r : Request) : (enqueue r s).hpA = s.hpA := rfl
@[simp] theorem enqueue_hpB (s : State) (r : Request) : (enqueue r s).hpB = s.hpB := rfl
@[simp] theorem enqueue_te (s : State) (r : Request) : (enqueue r s).te = s.te.setQueue r.cls (s.te.queue r.cls ++ [r]) := rfl
@[simp] theorem enqueue_pool (s : State) (r : Request) : (enqueue r s).pool = s.pool := rfl
@[simp] theorem enqueue_mrg (s : State) (r : Request) : (enqueue r s).mrg = s.mrg := rfl
@[simp] theorem enqueue_jrn (s : State) (r : Request) : (enqueue r s).jrn = s.jrn := rfl
@[simp] theorem enqueue_mnt (s : State) (r : Request) : (enqueue r s).mnt = s.mnt := rfl
@[simp] theorem enqueue_mgA (s : State) (r : Request) : (enqueue r s).mgA = s.mgA := rfl
@[simp] theorem enqueue_mgB (s : State) (r : Request) : (enqueue r s).mgB = s.mgB := rfl
@[simp] theorem enqueue_outA (s : State) (r : Request) : (enqueue r s).outA = s.outA := rfl
@[simp] theorem enqueue_outB (s : State) (r : Request) : (enqueue r s).outB = s.outB := rfl
@[simp] theorem enqueue_outT (s : State) (r : Request) : (enqueue r s).outT = s.outT := rfl
@[simp] theorem enqueue_free (s : State) (r : Request) : (enqueue r s).free = s.free := rfl
@[simp] theorem enqueue_pending (s : State) (r : Request) : (enqueue r s).pending = s.pending := rfl

/-! ### withdrawRequests -/

@[simp] theorem withdrawRequests_map (s : State) (gone : Owner → Bool) : (withdrawRequests gone s).map = s.map := rfl
@[simp] theorem withdrawRequests_ov (s : State) (gone : Owner → Bool) : (withdrawRequests gone s).ov = s.ov := rfl
@[simp] theorem withdrawRequests_adm (s : State) (gone : Owner → Bool) : (withdrawRequests gone s).adm = s.adm := rfl
@[simp] theorem withdrawRequests_hpA (s : State) (gone : Owner → Bool) : (withdrawRequests gone s).hpA = s.hpA := rfl
@[simp] theorem withdrawRequests_hpB (s : State) (gone : Owner → Bool) : (withdrawRequests gone s).hpB = s.hpB := rfl
@[simp] theorem withdrawRequests_pool (s : State) (gone : Owner → Bool) : (withdrawRequests gone s).pool = s.pool := rfl
@[simp] theorem withdrawRequests_mrg (s : State) (gone : Owner → Bool) : (withdrawRequests gone s).mrg = s.mrg := rfl
@[simp] theorem withdrawRequests_jrn (s : State) (gone : Owner → Bool) : (withdrawRequests gone s).jrn = s.jrn := rfl
@[simp] theorem withdrawRequests_mnt (s : State) (gone : Owner → Bool) : (withdrawRequests gone s).mnt = s.mnt := rfl
@[simp] theorem withdrawRequests_mgA (s : State) (gone : Owner → Bool) : (withdrawRequests gone s).mgA = s.mgA := rfl
@[simp] theorem withdrawRequests_mgB (s : State) (gone : Owner → Bool) : (withdrawRequests gone s).mgB = s.mgB := rfl
@[simp] theorem withdrawRequests_outA (s : State) (gone : Owner → Bool) : (withdrawRequests gone s).outA = s.outA := rfl
@[simp] theorem withdrawRequests_outB (s : State) (gone : Owner → Bool) : (withdrawRequests gone s).outB = s.outB := rfl
@[simp] theorem withdrawRequests_outT (s : State) (gone : Owner → Bool) : (withdrawRequests gone s).outT = s.outT := rfl
@[simp] theorem withdrawRequests_free (s : State) (gone : Owner → Bool) : (withdrawRequests gone s).free = s.free := rfl
@[simp] theorem withdrawRequests_pending (s : State) (gone : Owner → Bool) : (withdrawRequests gone s).pending = s.pending := rfl

/-! ### withdrawHost -/

@[simp] theorem withdrawHost_map (s : State) (gone : Owner → Bool) : (withdrawHost gone s).map = s.map := rfl
@[simp] theorem withdrawHost_ov (s : State) (gone : Owner → Bool) : (withdrawHost gone s).ov = s.ov := rfl
@[simp] theorem withdrawHost_adm (s : State) (gone : Owner → Bool) : (withdrawHost gone s).adm = s.adm := rfl
@[simp] theorem withdrawHost_hpA (s : State) (gone : Owner → Bool) : (withdrawHost gone s).hpA = s.hpA := rfl
@[simp] theorem withdrawHost_hpB (s : State) (gone : Owner → Bool) : (withdrawHost gone s).hpB = s.hpB := rfl
@[simp] theorem withdrawHost_pool (s : State) (gone : Owner → Bool) : (withdrawHost gone s).pool = s.pool := rfl
@[simp] theorem withdrawHost_mrg (s : State) (gone : Owner → Bool) : (withdrawHost gone s).mrg = s.mrg := rfl
@[simp] theorem withdrawHost_jrn (s : State) (gone : Owner → Bool) : (withdrawHost gone s).jrn = s.jrn := rfl
@[simp] theorem withdrawHost_mnt (s : State) (gone : Owner → Bool) : (withdrawHost gone s).mnt = s.mnt := rfl
@[simp] theorem withdrawHost_mgA (s : State) (gone : Owner → Bool) : (withdrawHost gone s).mgA = s.mgA := rfl
@[simp] theorem withdrawHost_mgB (s : State) (gone : Owner → Bool) : (withdrawHost gone s).mgB = s.mgB := rfl
@[simp] theorem withdrawHost_outA (s : State) (gone : Owner → Bool) : (withdrawHost gone s).outA = s.outA := rfl
@[simp] theorem withdrawHost_outB (s : State) (gone : Owner → Bool) : (withdrawHost gone s).outB = s.outB := rfl
@[simp] theorem withdrawHost_outT (s : State) (gone : Owner → Bool) : (withdrawHost gone s).outT = s.outT := rfl
@[simp] theorem withdrawHost_free (s : State) (gone : Owner → Bool) : (withdrawHost gone s).free = s.free := rfl
@[simp] theorem withdrawHost_pending (s : State) (gone : Owner → Bool) : (withdrawHost gone s).pending = s.pending := rfl

/-! ### disown -/

@[simp] theorem disown_map (s : State) (f : Owner → Owner) : (disown f s).map = s.map := rfl
@[simp] theorem disown_ov (s : State) (f : Owner → Owner) : (disown f s).ov = s.ov := rfl
@[simp] theorem disown_adm (s : State) (f : Owner → Owner) : (disown f s).adm = s.adm := rfl
@[simp] theorem disown_hpA (s : State) (f : Owner → Owner) : (disown f s).hpA = s.hpA := rfl
@[simp] theorem disown_hpB (s : State) (f : Owner → Owner) : (disown f s).hpB = s.hpB := rfl
@[simp] theorem disown_pool (s : State) (f : Owner → Owner) : (disown f s).pool = s.pool := rfl
@[simp] theorem disown_mrg (s : State) (f : Owner → Owner) : (disown f s).mrg = s.mrg := rfl
@[simp] theorem disown_jrn (s : State) (f : Owner → Owner) : (disown f s).jrn = s.jrn := rfl
@[simp] theorem disown_mnt (s : State) (f : Owner → Owner) : (disown f s).mnt = s.mnt := rfl
@[simp] theorem disown_mgA (s : State) (f : Owner → Owner) : (disown f s).mgA = s.mgA := rfl
@[simp] theorem disown_mgB (s : State) (f : Owner → Owner) : (disown f s).mgB = s.mgB := rfl
@[simp] theorem disown_outA (s : State) (f : Owner → Owner) : (disown f s).outA = s.outA := rfl
@[simp] theorem disown_outB (s : State) (f : Owner → Owner) : (disown f s).outB = s.outB := rfl
@[simp] theorem disown_outT (s : State) (f : Owner → Owner) : (disown f s).outT = s.outT := rfl
@[simp] theorem disown_free (s : State) (f : Owner → Owner) : (disown f s).free = s.free := rfl
@[simp] theorem disown_pending (s : State) (f : Owner → Owner) : (disown f s).pending = s.pending := rfl

/-! ### mapRec -/

@[simp] theorem mapRec_map (s : State) (c : CmdId) (f : Record → Record) : (mapRec c f s).map = s.map := rfl
@[simp] theorem mapRec_ov (s : State) (c : CmdId) (f : Record → Record) : (mapRec c f s).ov = s.ov := rfl
@[simp] theorem mapRec_hpA (s : State) (c : CmdId) (f : Record → Record) : (mapRec c f s).hpA = s.hpA := rfl
@[simp] theorem mapRec_hpB (s : State) (c : CmdId) (f : Record → Record) : (mapRec c f s).hpB = s.hpB := rfl
@[simp] theorem mapRec_te (s : State) (c : CmdId) (f : Record → Record) : (mapRec c f s).te = s.te := rfl
@[simp] theorem mapRec_pool (s : State) (c : CmdId) (f : Record → Record) : (mapRec c f s).pool = s.pool := rfl
@[simp] theorem mapRec_mrg (s : State) (c : CmdId) (f : Record → Record) : (mapRec c f s).mrg = s.mrg := rfl
@[simp] theorem mapRec_jrn (s : State) (c : CmdId) (f : Record → Record) : (mapRec c f s).jrn = s.jrn := rfl
@[simp] theorem mapRec_mnt (s : State) (c : CmdId) (f : Record → Record) : (mapRec c f s).mnt = s.mnt := rfl
@[simp] theorem mapRec_mgA (s : State) (c : CmdId) (f : Record → Record) : (mapRec c f s).mgA = s.mgA := rfl
@[simp] theorem mapRec_mgB (s : State) (c : CmdId) (f : Record → Record) : (mapRec c f s).mgB = s.mgB := rfl
@[simp] theorem mapRec_outA (s : State) (c : CmdId) (f : Record → Record) : (mapRec c f s).outA = s.outA := rfl
@[simp] theorem mapRec_outB (s : State) (c : CmdId) (f : Record → Record) : (mapRec c f s).outB = s.outB := rfl
@[simp] theorem mapRec_outT (s : State) (c : CmdId) (f : Record → Record) : (mapRec c f s).outT = s.outT := rfl
@[simp] theorem mapRec_free (s : State) (c : CmdId) (f : Record → Record) : (mapRec c f s).free = s.free := rfl
@[simp] theorem mapRec_pending (s : State) (c : CmdId) (f : Record → Record) : (mapRec c f s).pending = s.pending := rfl

/-! ### unqueue -/

@[simp] theorem unqueue_map (s : State) (c : CmdId) : (unqueue c s).map = s.map := rfl
@[simp] theorem unqueue_ov (s : State) (c : CmdId) : (unqueue c s).ov = s.ov := rfl
@[simp] theorem unqueue_hpA (s : State) (c : CmdId) : (unqueue c s).hpA = s.hpA := rfl
@[simp] theorem unqueue_hpB (s : State) (c : CmdId) : (unqueue c s).hpB = s.hpB := rfl
@[simp] theorem unqueue_te (s : State) (c : CmdId) : (unqueue c s).te = s.te := rfl
@[simp] theorem unqueue_pool (s : State) (c : CmdId) : (unqueue c s).pool = s.pool := rfl
@[simp] theorem unqueue_mrg (s : State) (c : CmdId) : (unqueue c s).mrg = s.mrg := rfl
@[simp] theorem unqueue_jrn (s : State) (c : CmdId) : (unqueue c s).jrn = s.jrn := rfl
@[simp] theorem unqueue_mnt (s : State) (c : CmdId) : (unqueue c s).mnt = s.mnt := rfl
@[simp] theorem unqueue_mgA (s : State) (c : CmdId) : (unqueue c s).mgA = s.mgA := rfl
@[simp] theorem unqueue_mgB (s : State) (c : CmdId) : (unqueue c s).mgB = s.mgB := rfl
@[simp] theorem unqueue_outA (s : State) (c : CmdId) : (unqueue c s).outA = s.outA := rfl
@[simp] theorem unqueue_outB (s : State) (c : CmdId) : (unqueue c s).outB = s.outB := rfl
@[simp] theorem unqueue_outT (s : State) (c : CmdId) : (unqueue c s).outT = s.outT := rfl
@[simp] theorem unqueue_free (s : State) (c : CmdId) : (unqueue c s).free = s.free := rfl
@[simp] theorem unqueue_pending (s : State) (c : CmdId) : (unqueue c s).pending = s.pending := rfl

/-! ### mapPiece -/

@[simp] theorem mapPiece_map (s : State) (c : CmdId) (i : Nat) (f : Piece → Piece) : (mapPiece c i f s).map = s.map := rfl
@[simp] theorem mapPiece_ov (s : State) (c : CmdId) (i : Nat) (f : Piece → Piece) : (mapPiece c i f s).ov = s.ov := rfl
@[simp] theorem mapPiece_hpA (s : State) (c : CmdId) (i : Nat) (f : Piece → Piece) : (mapPiece c i f s).hpA = s.hpA := rfl
@[simp] theorem mapPiece_hpB (s : State) (c : CmdId) (i : Nat) (f : Piece → Piece) : (mapPiece c i f s).hpB = s.hpB := rfl
@[simp] theorem mapPiece_te (s : State) (c : CmdId) (i : Nat) (f : Piece → Piece) : (mapPiece c i f s).te = s.te := rfl
@[simp] theorem mapPiece_pool (s : State) (c : CmdId) (i : Nat) (f : Piece → Piece) : (mapPiece c i f s).pool = s.pool := rfl
@[simp] theorem mapPiece_mrg (s : State) (c : CmdId) (i : Nat) (f : Piece → Piece) : (mapPiece c i f s).mrg = s.mrg := rfl
@[simp] theorem mapPiece_jrn (s : State) (c : CmdId) (i : Nat) (f : Piece → Piece) : (mapPiece c i f s).jrn = s.jrn := rfl
@[simp] theorem mapPiece_mnt (s : State) (c : CmdId) (i : Nat) (f : Piece → Piece) : (mapPiece c i f s).mnt = s.mnt := rfl
@[simp] theorem mapPiece_mgA (s : State) (c : CmdId) (i : Nat) (f : Piece → Piece) : (mapPiece c i f s).mgA = s.mgA := rfl
@[simp] theorem mapPiece_mgB (s : State) (c : CmdId) (i : Nat) (f : Piece → Piece) : (mapPiece c i f s).mgB = s.mgB := rfl
@[simp] theorem mapPiece_outA (s : State) (c : CmdId) (i : Nat) (f : Piece → Piece) : (mapPiece c i f s).outA = s.outA := rfl
@[simp] theorem mapPiece_outB (s : State) (c : CmdId) (i : Nat) (f : Piece → Piece) : (mapPiece c i f s).outB = s.outB := rfl
@[simp] theorem mapPiece_outT (s : State) (c : CmdId) (i : Nat) (f : Piece → Piece) : (mapPiece c i f s).outT = s.outT := rfl
@[simp] theorem mapPiece_free (s : State) (c : CmdId) (i : Nat) (f : Piece → Piece) : (mapPiece c i f s).free = s.free := rfl
@[simp] theorem mapPiece_pending (s : State) (c : CmdId) (i : Nat) (f : Piece → Piece) : (mapPiece c i f s).pending = s.pending := rfl

/-! ### putEntry -/

@[simp] theorem putEntry_map (s : State) (e : Entry) : (putEntry e s).map = s.map := rfl
@[simp] theorem putEntry_adm (s : State) (e : Entry) : (putEntry e s).adm = s.adm := rfl
@[simp] theorem putEntry_hpA (s : State) (e : Entry) : (putEntry e s).hpA = s.hpA := rfl
@[simp] theorem putEntry_hpB (s : State) (e : Entry) : (putEntry e s).hpB = s.hpB := rfl
@[simp] theorem putEntry_te (s : State) (e : Entry) : (putEntry e s).te = s.te := rfl
@[simp] theorem putEntry_pool (s : State) (e : Entry) : (putEntry e s).pool = s.pool := rfl
@[simp] theorem putEntry_mrg (s : State) (e : Entry) : (putEntry e s).mrg = s.mrg := rfl
@[simp] theorem putEntry_jrn (s : State) (e : Entry) : (putEntry e s).jrn = s.jrn := rfl
@[simp] theorem putEntry_mnt (s : State) (e : Entry) : (putEntry e s).mnt = s.mnt := rfl
@[simp] theorem putEntry_mgA (s : State) (e : Entry) : (putEntry e s).mgA = s.mgA := rfl
@[simp] theorem putEntry_mgB (s : State) (e : Entry) : (putEntry e s).mgB = s.mgB := rfl
@[simp] theorem putEntry_outA (s : State) (e : Entry) : (putEntry e s).outA = s.outA := rfl
@[simp] theorem putEntry_outB (s : State) (e : Entry) : (putEntry e s).outB = s.outB := rfl
@[simp] theorem putEntry_outT (s : State) (e : Entry) : (putEntry e s).outT = s.outT := rfl
@[simp] theorem putEntry_free (s : State) (e : Entry) : (putEntry e s).free = s.free := rfl
@[simp] theorem putEntry_pending (s : State) (e : Entry) : (putEntry e s).pending = s.pending := rfl

/-! ### removeEntry -/

@[simp] theorem removeEntry_map (s : State) (g : Nat) : (removeEntry g s).map = s.map := rfl
@[simp] theorem removeEntry_adm (s : State) (g : Nat) : (removeEntry g s).adm = s.adm := rfl
@[simp] theorem removeEntry_hpA (s : State) (g : Nat) : (removeEntry g s).hpA = s.hpA := rfl
@[simp] theorem removeEntry_hpB (s : State) (g : Nat) : (removeEntry g s).hpB = s.hpB := rfl
@[simp] theorem removeEntry_te (s : State) (g : Nat) : (removeEntry g s).te = s.te := rfl
@[simp] theorem removeEntry_pool (s : State) (g : Nat) : (removeEntry g s).pool = s.pool := rfl
@[simp] theorem removeEntry_mrg (s : State) (g : Nat) : (removeEntry g s).mrg = s.mrg := rfl
@[simp] theorem removeEntry_jrn (s : State) (g : Nat) : (removeEntry g s).jrn = s.jrn := rfl
@[simp] theorem removeEntry_mnt (s : State) (g : Nat) : (removeEntry g s).mnt = s.mnt := rfl
@[simp] theorem removeEntry_mgA (s : State) (g : Nat) : (removeEntry g s).mgA = s.mgA := rfl
@[simp] theorem removeEntry_mgB (s : State) (g : Nat) : (removeEntry g s).mgB = s.mgB := rfl
@[simp] theorem removeEntry_outA (s : State) (g : Nat) : (removeEntry g s).outA = s.outA := rfl
@[simp] theorem removeEntry_outB (s : State) (g : Nat) : (removeEntry g s).outB = s.outB := rfl
@[simp] theorem removeEntry_outT (s : State) (g : Nat) : (removeEntry g s).outT = s.outT := rfl
@[simp] theorem removeEntry_free (s : State) (g : Nat) : (removeEntry g s).free = s.free := rfl
@[simp] theorem removeEntry_pending (s : State) (g : Nat) : (removeEntry g s).pending = s.pending := rfl

/-! ### setEntryState -/

@[simp] theorem setEntryState_map (s : State) (g : Nat) (st : EntryState) : (setEntryState g st s).map = s.map := rfl
@[simp] theorem setEntryState_adm (s : State) (g : Nat) (st : EntryState) : (setEntryState g st s).adm = s.adm := rfl
@[simp] theorem setEntryState_hpA (s : State) (g : Nat) (st : EntryState) : (setEntryState g st s).hpA = s.hpA := rfl
@[simp] theorem setEntryState_hpB (s : State) (g : Nat) (st : EntryState) : (setEntryState g st s).hpB = s.hpB := rfl
@[simp] theorem setEntryState_te (s : State) (g : Nat) (st : EntryState) : (setEntryState g st s).te = s.te := rfl
@[simp] theorem setEntryState_pool (s : State) (g : Nat) (st : EntryState) : (setEntryState g st s).pool = s.pool := rfl
@[simp] theorem setEntryState_mrg (s : State) (g : Nat) (st : EntryState) : (setEntryState g st s).mrg = s.mrg := rfl
@[simp] theorem setEntryState_jrn (s : State) (g : Nat) (st : EntryState) : (setEntryState g st s).jrn = s.jrn := rfl
@[simp] theorem setEntryState_mnt (s : State) (g : Nat) (st : EntryState) : (setEntryState g st s).mnt = s.mnt := rfl
@[simp] theorem setEntryState_mgA (s : State) (g : Nat) (st : EntryState) : (setEntryState g st s).mgA = s.mgA := rfl
@[simp] theorem setEntryState_mgB (s : State) (g : Nat) (st : EntryState) : (setEntryState g st s).mgB = s.mgB := rfl
@[simp] theorem setEntryState_outA (s : State) (g : Nat) (st : EntryState) : (setEntryState g st s).outA = s.outA := rfl
@[simp] theorem setEntryState_outB (s : State) (g : Nat) (st : EntryState) : (setEntryState g st s).outB = s.outB := rfl
@[simp] theorem setEntryState_outT (s : State) (g : Nat) (st : EntryState) : (setEntryState g st s).outT = s.outT := rfl
@[simp] theorem setEntryState_free (s : State) (g : Nat) (st : EntryState) : (setEntryState g st s).free = s.free := rfl
@[simp] theorem setEntryState_pending (s : State) (g : Nat) (st : EntryState) : (setEntryState g st s).pending = s.pending := rfl

/-! ### joinRing -/

@[simp] theorem joinRing_map (s : State) (n : Nat) : (joinRing n s).map = s.map := rfl
@[simp] theorem joinRing_adm (s : State) (n : Nat) : (joinRing n s).adm = s.adm := rfl
@[simp] theorem joinRing_hpA (s : State) (n : Nat) : (joinRing n s).hpA = s.hpA := rfl
@[simp] theorem joinRing_hpB (s : State) (n : Nat) : (joinRing n s).hpB = s.hpB := rfl
@[simp] theorem joinRing_te (s : State) (n : Nat) : (joinRing n s).te = s.te := rfl
@[simp] theorem joinRing_pool (s : State) (n : Nat) : (joinRing n s).pool = s.pool := rfl
@[simp] theorem joinRing_mrg (s : State) (n : Nat) : (joinRing n s).mrg = s.mrg := rfl
@[simp] theorem joinRing_jrn (s : State) (n : Nat) : (joinRing n s).jrn = s.jrn := rfl
@[simp] theorem joinRing_mnt (s : State) (n : Nat) : (joinRing n s).mnt = s.mnt := rfl
@[simp] theorem joinRing_mgA (s : State) (n : Nat) : (joinRing n s).mgA = s.mgA := rfl
@[simp] theorem joinRing_mgB (s : State) (n : Nat) : (joinRing n s).mgB = s.mgB := rfl
@[simp] theorem joinRing_outA (s : State) (n : Nat) : (joinRing n s).outA = s.outA := rfl
@[simp] theorem joinRing_outB (s : State) (n : Nat) : (joinRing n s).outB = s.outB := rfl
@[simp] theorem joinRing_outT (s : State) (n : Nat) : (joinRing n s).outT = s.outT := rfl
@[simp] theorem joinRing_free (s : State) (n : Nat) : (joinRing n s).free = s.free := rfl
@[simp] theorem joinRing_pending (s : State) (n : Nat) : (joinRing n s).pending = s.pending := rfl

/-! ### retire -/

@[simp] theorem retire_map (s : State) (n : Nat) : (retire n s).map = s.map := rfl
@[simp] theorem retire_adm (s : State) (n : Nat) : (retire n s).adm = s.adm := rfl
@[simp] theorem retire_hpA (s : State) (n : Nat) : (retire n s).hpA = s.hpA := rfl
@[simp] theorem retire_hpB (s : State) (n : Nat) : (retire n s).hpB = s.hpB := rfl
@[simp] theorem retire_te (s : State) (n : Nat) : (retire n s).te = s.te := rfl
@[simp] theorem retire_pool (s : State) (n : Nat) : (retire n s).pool = s.pool := rfl
@[simp] theorem retire_mrg (s : State) (n : Nat) : (retire n s).mrg = s.mrg := rfl
@[simp] theorem retire_jrn (s : State) (n : Nat) : (retire n s).jrn = s.jrn := rfl
@[simp] theorem retire_mnt (s : State) (n : Nat) : (retire n s).mnt = s.mnt := rfl
@[simp] theorem retire_mgA (s : State) (n : Nat) : (retire n s).mgA = s.mgA := rfl
@[simp] theorem retire_mgB (s : State) (n : Nat) : (retire n s).mgB = s.mgB := rfl
@[simp] theorem retire_outA (s : State) (n : Nat) : (retire n s).outA = s.outA := rfl
@[simp] theorem retire_outB (s : State) (n : Nat) : (retire n s).outB = s.outB := rfl
@[simp] theorem retire_outT (s : State) (n : Nat) : (retire n s).outT = s.outT := rfl
@[simp] theorem retire_free (s : State) (n : Nat) : (retire n s).free = s.free := rfl
@[simp] theorem retire_pending (s : State) (n : Nat) : (retire n s).pending = s.pending := rfl

/-! ### setReservations -/

@[simp] theorem setReservations_map (s : State) (f : List Reservation → List Reservation) : (setReservations f s).map = s.map := rfl
@[simp] theorem setReservations_ov (s : State) (f : List Reservation → List Reservation) : (setReservations f s).ov = { s.ov with reservations := f s.ov.reservations } := rfl
@[simp] theorem setReservations_adm (s : State) (f : List Reservation → List Reservation) : (setReservations f s).adm = s.adm := rfl
@[simp] theorem setReservations_hpA (s : State) (f : List Reservation → List Reservation) : (setReservations f s).hpA = s.hpA := rfl
@[simp] theorem setReservations_hpB (s : State) (f : List Reservation → List Reservation) : (setReservations f s).hpB = s.hpB := rfl
@[simp] theorem setReservations_te (s : State) (f : List Reservation → List Reservation) : (setReservations f s).te = s.te := rfl
@[simp] theorem setReservations_pool (s : State) (f : List Reservation → List Reservation) : (setReservations f s).pool = s.pool := rfl
@[simp] theorem setReservations_mrg (s : State) (f : List Reservation → List Reservation) : (setReservations f s).mrg = s.mrg := rfl
@[simp] theorem setReservations_jrn (s : State) (f : List Reservation → List Reservation) : (setReservations f s).jrn = s.jrn := rfl
@[simp] theorem setReservations_mnt (s : State) (f : List Reservation → List Reservation) : (setReservations f s).mnt = s.mnt := rfl
@[simp] theorem setReservations_mgA (s : State) (f : List Reservation → List Reservation) : (setReservations f s).mgA = s.mgA := rfl
@[simp] theorem setReservations_mgB (s : State) (f : List Reservation → List Reservation) : (setReservations f s).mgB = s.mgB := rfl
@[simp] theorem setReservations_outA (s : State) (f : List Reservation → List Reservation) : (setReservations f s).outA = s.outA := rfl
@[simp] theorem setReservations_outB (s : State) (f : List Reservation → List Reservation) : (setReservations f s).outB = s.outB := rfl
@[simp] theorem setReservations_outT (s : State) (f : List Reservation → List Reservation) : (setReservations f s).outT = s.outT := rfl
@[simp] theorem setReservations_free (s : State) (f : List Reservation → List Reservation) : (setReservations f s).free = s.free := rfl
@[simp] theorem setReservations_pending (s : State) (f : List Reservation → List Reservation) : (setReservations f s).pending = s.pending := rfl

/-! ### setOrder -/

@[simp] theorem setOrder_map (s : State) (f : List Placed → List Placed) : (setOrder f s).map = s.map := rfl
@[simp] theorem setOrder_ov (s : State) (f : List Placed → List Placed) : (setOrder f s).ov = s.ov := rfl
@[simp] theorem setOrder_adm (s : State) (f : List Placed → List Placed) : (setOrder f s).adm = { s.adm with order := f s.adm.order } := rfl
@[simp] theorem setOrder_hpA (s : State) (f : List Placed → List Placed) : (setOrder f s).hpA = s.hpA := rfl
@[simp] theorem setOrder_hpB (s : State) (f : List Placed → List Placed) : (setOrder f s).hpB = s.hpB := rfl
@[simp] theorem setOrder_te (s : State) (f : List Placed → List Placed) : (setOrder f s).te = s.te := rfl
@[simp] theorem setOrder_pool (s : State) (f : List Placed → List Placed) : (setOrder f s).pool = s.pool := rfl
@[simp] theorem setOrder_mrg (s : State) (f : List Placed → List Placed) : (setOrder f s).mrg = s.mrg := rfl
@[simp] theorem setOrder_jrn (s : State) (f : List Placed → List Placed) : (setOrder f s).jrn = s.jrn := rfl
@[simp] theorem setOrder_mnt (s : State) (f : List Placed → List Placed) : (setOrder f s).mnt = s.mnt := rfl
@[simp] theorem setOrder_mgA (s : State) (f : List Placed → List Placed) : (setOrder f s).mgA = s.mgA := rfl
@[simp] theorem setOrder_mgB (s : State) (f : List Placed → List Placed) : (setOrder f s).mgB = s.mgB := rfl
@[simp] theorem setOrder_outA (s : State) (f : List Placed → List Placed) : (setOrder f s).outA = s.outA := rfl
@[simp] theorem setOrder_outB (s : State) (f : List Placed → List Placed) : (setOrder f s).outB = s.outB := rfl
@[simp] theorem setOrder_outT (s : State) (f : List Placed → List Placed) : (setOrder f s).outT = s.outT := rfl
@[simp] theorem setOrder_free (s : State) (f : List Placed → List Placed) : (setOrder f s).free = s.free := rfl
@[simp] theorem setOrder_pending (s : State) (f : List Placed → List Placed) : (setOrder f s).pending = s.pending := rfl

/-! ### unplace -/

@[simp] theorem unplace_map (s : State) (r : ClaimRef) : (unplace r s).map = s.map := rfl
@[simp] theorem unplace_ov (s : State) (r : ClaimRef) : (unplace r s).ov = s.ov := rfl
@[simp] theorem unplace_hpA (s : State) (r : ClaimRef) : (unplace r s).hpA = s.hpA := rfl
@[simp] theorem unplace_hpB (s : State) (r : ClaimRef) : (unplace r s).hpB = s.hpB := rfl
@[simp] theorem unplace_te (s : State) (r : ClaimRef) : (unplace r s).te = s.te := rfl
@[simp] theorem unplace_pool (s : State) (r : ClaimRef) : (unplace r s).pool = s.pool := rfl
@[simp] theorem unplace_mrg (s : State) (r : ClaimRef) : (unplace r s).mrg = s.mrg := rfl
@[simp] theorem unplace_jrn (s : State) (r : ClaimRef) : (unplace r s).jrn = s.jrn := rfl
@[simp] theorem unplace_mnt (s : State) (r : ClaimRef) : (unplace r s).mnt = s.mnt := rfl
@[simp] theorem unplace_mgA (s : State) (r : ClaimRef) : (unplace r s).mgA = s.mgA := rfl
@[simp] theorem unplace_mgB (s : State) (r : ClaimRef) : (unplace r s).mgB = s.mgB := rfl
@[simp] theorem unplace_outA (s : State) (r : ClaimRef) : (unplace r s).outA = s.outA := rfl
@[simp] theorem unplace_outB (s : State) (r : ClaimRef) : (unplace r s).outB = s.outB := rfl
@[simp] theorem unplace_outT (s : State) (r : ClaimRef) : (unplace r s).outT = s.outT := rfl
@[simp] theorem unplace_free (s : State) (r : ClaimRef) : (unplace r s).free = s.free := rfl
@[simp] theorem unplace_pending (s : State) (r : ClaimRef) : (unplace r s).pending = s.pending := rfl

/-! ### placeAtEnd -/

@[simp] theorem placeAtEnd_map (s : State) (r : ClaimRef) : (placeAtEnd r s).map = s.map := rfl
@[simp] theorem placeAtEnd_ov (s : State) (r : ClaimRef) : (placeAtEnd r s).ov = s.ov := rfl
@[simp] theorem placeAtEnd_hpA (s : State) (r : ClaimRef) : (placeAtEnd r s).hpA = s.hpA := rfl
@[simp] theorem placeAtEnd_hpB (s : State) (r : ClaimRef) : (placeAtEnd r s).hpB = s.hpB := rfl
@[simp] theorem placeAtEnd_te (s : State) (r : ClaimRef) : (placeAtEnd r s).te = s.te := rfl
@[simp] theorem placeAtEnd_pool (s : State) (r : ClaimRef) : (placeAtEnd r s).pool = s.pool := rfl
@[simp] theorem placeAtEnd_mrg (s : State) (r : ClaimRef) : (placeAtEnd r s).mrg = s.mrg := rfl
@[simp] theorem placeAtEnd_jrn (s : State) (r : ClaimRef) : (placeAtEnd r s).jrn = s.jrn := rfl
@[simp] theorem placeAtEnd_mnt (s : State) (r : ClaimRef) : (placeAtEnd r s).mnt = s.mnt := rfl
@[simp] theorem placeAtEnd_mgA (s : State) (r : ClaimRef) : (placeAtEnd r s).mgA = s.mgA := rfl
@[simp] theorem placeAtEnd_mgB (s : State) (r : ClaimRef) : (placeAtEnd r s).mgB = s.mgB := rfl
@[simp] theorem placeAtEnd_outA (s : State) (r : ClaimRef) : (placeAtEnd r s).outA = s.outA := rfl
@[simp] theorem placeAtEnd_outB (s : State) (r : ClaimRef) : (placeAtEnd r s).outB = s.outB := rfl
@[simp] theorem placeAtEnd_outT (s : State) (r : ClaimRef) : (placeAtEnd r s).outT = s.outT := rfl
@[simp] theorem placeAtEnd_free (s : State) (r : ClaimRef) : (placeAtEnd r s).free = s.free := rfl
@[simp] theorem placeAtEnd_pending (s : State) (r : ClaimRef) : (placeAtEnd r s).pending = s.pending := rfl

/-! ### setRelocs -/

@[simp] theorem setRelocs_map (s : State) (f : List Reloc → List Reloc) : (setRelocs f s).map = s.map := rfl
@[simp] theorem setRelocs_ov (s : State) (f : List Reloc → List Reloc) : (setRelocs f s).ov = s.ov := rfl
@[simp] theorem setRelocs_adm (s : State) (f : List Reloc → List Reloc) : (setRelocs f s).adm = s.adm := rfl
@[simp] theorem setRelocs_hpA (s : State) (f : List Reloc → List Reloc) : (setRelocs f s).hpA = s.hpA := rfl
@[simp] theorem setRelocs_hpB (s : State) (f : List Reloc → List Reloc) : (setRelocs f s).hpB = s.hpB := rfl
@[simp] theorem setRelocs_te (s : State) (f : List Reloc → List Reloc) : (setRelocs f s).te = { s.te with relocs := f s.te.relocs } := rfl
@[simp] theorem setRelocs_pool (s : State) (f : List Reloc → List Reloc) : (setRelocs f s).pool = s.pool := rfl
@[simp] theorem setRelocs_mrg (s : State) (f : List Reloc → List Reloc) : (setRelocs f s).mrg = s.mrg := rfl
@[simp] theorem setRelocs_jrn (s : State) (f : List Reloc → List Reloc) : (setRelocs f s).jrn = s.jrn := rfl
@[simp] theorem setRelocs_mnt (s : State) (f : List Reloc → List Reloc) : (setRelocs f s).mnt = s.mnt := rfl
@[simp] theorem setRelocs_mgA (s : State) (f : List Reloc → List Reloc) : (setRelocs f s).mgA = s.mgA := rfl
@[simp] theorem setRelocs_mgB (s : State) (f : List Reloc → List Reloc) : (setRelocs f s).mgB = s.mgB := rfl
@[simp] theorem setRelocs_outA (s : State) (f : List Reloc → List Reloc) : (setRelocs f s).outA = s.outA := rfl
@[simp] theorem setRelocs_outB (s : State) (f : List Reloc → List Reloc) : (setRelocs f s).outB = s.outB := rfl
@[simp] theorem setRelocs_outT (s : State) (f : List Reloc → List Reloc) : (setRelocs f s).outT = s.outT := rfl
@[simp] theorem setRelocs_free (s : State) (f : List Reloc → List Reloc) : (setRelocs f s).free = s.free := rfl
@[simp] theorem setRelocs_pending (s : State) (f : List Reloc → List Reloc) : (setRelocs f s).pending = s.pending := rfl

/-! ### mapReloc -/

@[simp] theorem mapReloc_map (s : State) (g : Nat) (f : Reloc → Reloc) : (mapReloc g f s).map = s.map := rfl
@[simp] theorem mapReloc_ov (s : State) (g : Nat) (f : Reloc → Reloc) : (mapReloc g f s).ov = s.ov := rfl
@[simp] theorem mapReloc_adm (s : State) (g : Nat) (f : Reloc → Reloc) : (mapReloc g f s).adm = s.adm := rfl
@[simp] theorem mapReloc_hpA (s : State) (g : Nat) (f : Reloc → Reloc) : (mapReloc g f s).hpA = s.hpA := rfl
@[simp] theorem mapReloc_hpB (s : State) (g : Nat) (f : Reloc → Reloc) : (mapReloc g f s).hpB = s.hpB := rfl
@[simp] theorem mapReloc_pool (s : State) (g : Nat) (f : Reloc → Reloc) : (mapReloc g f s).pool = s.pool := rfl
@[simp] theorem mapReloc_mrg (s : State) (g : Nat) (f : Reloc → Reloc) : (mapReloc g f s).mrg = s.mrg := rfl
@[simp] theorem mapReloc_jrn (s : State) (g : Nat) (f : Reloc → Reloc) : (mapReloc g f s).jrn = s.jrn := rfl
@[simp] theorem mapReloc_mnt (s : State) (g : Nat) (f : Reloc → Reloc) : (mapReloc g f s).mnt = s.mnt := rfl
@[simp] theorem mapReloc_mgA (s : State) (g : Nat) (f : Reloc → Reloc) : (mapReloc g f s).mgA = s.mgA := rfl
@[simp] theorem mapReloc_mgB (s : State) (g : Nat) (f : Reloc → Reloc) : (mapReloc g f s).mgB = s.mgB := rfl
@[simp] theorem mapReloc_outA (s : State) (g : Nat) (f : Reloc → Reloc) : (mapReloc g f s).outA = s.outA := rfl
@[simp] theorem mapReloc_outB (s : State) (g : Nat) (f : Reloc → Reloc) : (mapReloc g f s).outB = s.outB := rfl
@[simp] theorem mapReloc_outT (s : State) (g : Nat) (f : Reloc → Reloc) : (mapReloc g f s).outT = s.outT := rfl
@[simp] theorem mapReloc_free (s : State) (g : Nat) (f : Reloc → Reloc) : (mapReloc g f s).free = s.free := rfl
@[simp] theorem mapReloc_pending (s : State) (g : Nat) (f : Reloc → Reloc) : (mapReloc g f s).pending = s.pending := rfl

/-! ### setJrn -/

@[simp] theorem setJrn_map (s : State) (f : JournalUnit → JournalUnit) : (setJrn f s).map = s.map := rfl
@[simp] theorem setJrn_ov (s : State) (f : JournalUnit → JournalUnit) : (setJrn f s).ov = s.ov := rfl
@[simp] theorem setJrn_adm (s : State) (f : JournalUnit → JournalUnit) : (setJrn f s).adm = s.adm := rfl
@[simp] theorem setJrn_hpA (s : State) (f : JournalUnit → JournalUnit) : (setJrn f s).hpA = s.hpA := rfl
@[simp] theorem setJrn_hpB (s : State) (f : JournalUnit → JournalUnit) : (setJrn f s).hpB = s.hpB := rfl
@[simp] theorem setJrn_te (s : State) (f : JournalUnit → JournalUnit) : (setJrn f s).te = s.te := rfl
@[simp] theorem setJrn_pool (s : State) (f : JournalUnit → JournalUnit) : (setJrn f s).pool = s.pool := rfl
@[simp] theorem setJrn_mrg (s : State) (f : JournalUnit → JournalUnit) : (setJrn f s).mrg = s.mrg := rfl
@[simp] theorem setJrn_jrn (s : State) (f : JournalUnit → JournalUnit) : (setJrn f s).jrn = f s.jrn := rfl
@[simp] theorem setJrn_mnt (s : State) (f : JournalUnit → JournalUnit) : (setJrn f s).mnt = s.mnt := rfl
@[simp] theorem setJrn_mgA (s : State) (f : JournalUnit → JournalUnit) : (setJrn f s).mgA = s.mgA := rfl
@[simp] theorem setJrn_mgB (s : State) (f : JournalUnit → JournalUnit) : (setJrn f s).mgB = s.mgB := rfl
@[simp] theorem setJrn_outA (s : State) (f : JournalUnit → JournalUnit) : (setJrn f s).outA = s.outA := rfl
@[simp] theorem setJrn_outB (s : State) (f : JournalUnit → JournalUnit) : (setJrn f s).outB = s.outB := rfl
@[simp] theorem setJrn_outT (s : State) (f : JournalUnit → JournalUnit) : (setJrn f s).outT = s.outT := rfl
@[simp] theorem setJrn_free (s : State) (f : JournalUnit → JournalUnit) : (setJrn f s).free = s.free := rfl
@[simp] theorem setJrn_pending (s : State) (f : JournalUnit → JournalUnit) : (setJrn f s).pending = s.pending := rfl

/-! ### setMrg -/

@[simp] theorem setMrg_map (s : State) (f : MergeUnit → MergeUnit) : (setMrg f s).map = s.map := rfl
@[simp] theorem setMrg_ov (s : State) (f : MergeUnit → MergeUnit) : (setMrg f s).ov = s.ov := rfl
@[simp] theorem setMrg_adm (s : State) (f : MergeUnit → MergeUnit) : (setMrg f s).adm = s.adm := rfl
@[simp] theorem setMrg_hpA (s : State) (f : MergeUnit → MergeUnit) : (setMrg f s).hpA = s.hpA := rfl
@[simp] theorem setMrg_hpB (s : State) (f : MergeUnit → MergeUnit) : (setMrg f s).hpB = s.hpB := rfl
@[simp] theorem setMrg_te (s : State) (f : MergeUnit → MergeUnit) : (setMrg f s).te = s.te := rfl
@[simp] theorem setMrg_pool (s : State) (f : MergeUnit → MergeUnit) : (setMrg f s).pool = s.pool := rfl
@[simp] theorem setMrg_mrg (s : State) (f : MergeUnit → MergeUnit) : (setMrg f s).mrg = f s.mrg := rfl
@[simp] theorem setMrg_jrn (s : State) (f : MergeUnit → MergeUnit) : (setMrg f s).jrn = s.jrn := rfl
@[simp] theorem setMrg_mnt (s : State) (f : MergeUnit → MergeUnit) : (setMrg f s).mnt = s.mnt := rfl
@[simp] theorem setMrg_mgA (s : State) (f : MergeUnit → MergeUnit) : (setMrg f s).mgA = s.mgA := rfl
@[simp] theorem setMrg_mgB (s : State) (f : MergeUnit → MergeUnit) : (setMrg f s).mgB = s.mgB := rfl
@[simp] theorem setMrg_outA (s : State) (f : MergeUnit → MergeUnit) : (setMrg f s).outA = s.outA := rfl
@[simp] theorem setMrg_outB (s : State) (f : MergeUnit → MergeUnit) : (setMrg f s).outB = s.outB := rfl
@[simp] theorem setMrg_outT (s : State) (f : MergeUnit → MergeUnit) : (setMrg f s).outT = s.outT := rfl
@[simp] theorem setMrg_free (s : State) (f : MergeUnit → MergeUnit) : (setMrg f s).free = s.free := rfl
@[simp] theorem setMrg_pending (s : State) (f : MergeUnit → MergeUnit) : (setMrg f s).pending = s.pending := rfl

/-! ### mapGrain -/

@[simp] theorem mapGrain_map (s : State) (f : MergeGrain → MergeGrain) : (mapGrain f s).map = s.map := rfl
@[simp] theorem mapGrain_ov (s : State) (f : MergeGrain → MergeGrain) : (mapGrain f s).ov = s.ov := rfl
@[simp] theorem mapGrain_adm (s : State) (f : MergeGrain → MergeGrain) : (mapGrain f s).adm = s.adm := rfl
@[simp] theorem mapGrain_hpA (s : State) (f : MergeGrain → MergeGrain) : (mapGrain f s).hpA = s.hpA := rfl
@[simp] theorem mapGrain_hpB (s : State) (f : MergeGrain → MergeGrain) : (mapGrain f s).hpB = s.hpB := rfl
@[simp] theorem mapGrain_te (s : State) (f : MergeGrain → MergeGrain) : (mapGrain f s).te = s.te := rfl
@[simp] theorem mapGrain_pool (s : State) (f : MergeGrain → MergeGrain) : (mapGrain f s).pool = s.pool := rfl
@[simp] theorem mapGrain_mrg (s : State) (f : MergeGrain → MergeGrain) : (mapGrain f s).mrg = { s.mrg with grain := s.mrg.grain.map f } := rfl
@[simp] theorem mapGrain_jrn (s : State) (f : MergeGrain → MergeGrain) : (mapGrain f s).jrn = s.jrn := rfl
@[simp] theorem mapGrain_mnt (s : State) (f : MergeGrain → MergeGrain) : (mapGrain f s).mnt = s.mnt := rfl
@[simp] theorem mapGrain_mgA (s : State) (f : MergeGrain → MergeGrain) : (mapGrain f s).mgA = s.mgA := rfl
@[simp] theorem mapGrain_mgB (s : State) (f : MergeGrain → MergeGrain) : (mapGrain f s).mgB = s.mgB := rfl
@[simp] theorem mapGrain_outA (s : State) (f : MergeGrain → MergeGrain) : (mapGrain f s).outA = s.outA := rfl
@[simp] theorem mapGrain_outB (s : State) (f : MergeGrain → MergeGrain) : (mapGrain f s).outB = s.outB := rfl
@[simp] theorem mapGrain_outT (s : State) (f : MergeGrain → MergeGrain) : (mapGrain f s).outT = s.outT := rfl
@[simp] theorem mapGrain_free (s : State) (f : MergeGrain → MergeGrain) : (mapGrain f s).free = s.free := rfl
@[simp] theorem mapGrain_pending (s : State) (f : MergeGrain → MergeGrain) : (mapGrain f s).pending = s.pending := rfl

/-! ### setMap -/

@[simp] theorem setMap_map (s : State) (f : MapUnit → MapUnit) : (setMap f s).map = f s.map := rfl
@[simp] theorem setMap_ov (s : State) (f : MapUnit → MapUnit) : (setMap f s).ov = s.ov := rfl
@[simp] theorem setMap_adm (s : State) (f : MapUnit → MapUnit) : (setMap f s).adm = s.adm := rfl
@[simp] theorem setMap_hpA (s : State) (f : MapUnit → MapUnit) : (setMap f s).hpA = s.hpA := rfl
@[simp] theorem setMap_hpB (s : State) (f : MapUnit → MapUnit) : (setMap f s).hpB = s.hpB := rfl
@[simp] theorem setMap_te (s : State) (f : MapUnit → MapUnit) : (setMap f s).te = s.te := rfl
@[simp] theorem setMap_pool (s : State) (f : MapUnit → MapUnit) : (setMap f s).pool = s.pool := rfl
@[simp] theorem setMap_mrg (s : State) (f : MapUnit → MapUnit) : (setMap f s).mrg = s.mrg := rfl
@[simp] theorem setMap_jrn (s : State) (f : MapUnit → MapUnit) : (setMap f s).jrn = s.jrn := rfl
@[simp] theorem setMap_mnt (s : State) (f : MapUnit → MapUnit) : (setMap f s).mnt = s.mnt := rfl
@[simp] theorem setMap_mgA (s : State) (f : MapUnit → MapUnit) : (setMap f s).mgA = s.mgA := rfl
@[simp] theorem setMap_mgB (s : State) (f : MapUnit → MapUnit) : (setMap f s).mgB = s.mgB := rfl
@[simp] theorem setMap_outA (s : State) (f : MapUnit → MapUnit) : (setMap f s).outA = s.outA := rfl
@[simp] theorem setMap_outB (s : State) (f : MapUnit → MapUnit) : (setMap f s).outB = s.outB := rfl
@[simp] theorem setMap_outT (s : State) (f : MapUnit → MapUnit) : (setMap f s).outT = s.outT := rfl
@[simp] theorem setMap_free (s : State) (f : MapUnit → MapUnit) : (setMap f s).free = s.free := rfl
@[simp] theorem setMap_pending (s : State) (f : MapUnit → MapUnit) : (setMap f s).pending = s.pending := rfl

/-! ### setPause -/

@[simp] theorem setPause_map (s : State) (b : Bool) : (setPause b s).map = s.map := rfl
@[simp] theorem setPause_ov (s : State) (b : Bool) : (setPause b s).ov = s.ov := rfl
@[simp] theorem setPause_adm (s : State) (b : Bool) : (setPause b s).adm = { s.adm with pause := b } := rfl
@[simp] theorem setPause_hpA (s : State) (b : Bool) : (setPause b s).hpA = s.hpA := rfl
@[simp] theorem setPause_hpB (s : State) (b : Bool) : (setPause b s).hpB = s.hpB := rfl
@[simp] theorem setPause_te (s : State) (b : Bool) : (setPause b s).te = s.te := rfl
@[simp] theorem setPause_pool (s : State) (b : Bool) : (setPause b s).pool = s.pool := rfl
@[simp] theorem setPause_mrg (s : State) (b : Bool) : (setPause b s).mrg = s.mrg := rfl
@[simp] theorem setPause_jrn (s : State) (b : Bool) : (setPause b s).jrn = s.jrn := rfl
@[simp] theorem setPause_mnt (s : State) (b : Bool) : (setPause b s).mnt = s.mnt := rfl
@[simp] theorem setPause_mgA (s : State) (b : Bool) : (setPause b s).mgA = s.mgA := rfl
@[simp] theorem setPause_mgB (s : State) (b : Bool) : (setPause b s).mgB = s.mgB := rfl
@[simp] theorem setPause_outA (s : State) (b : Bool) : (setPause b s).outA = s.outA := rfl
@[simp] theorem setPause_outB (s : State) (b : Bool) : (setPause b s).outB = s.outB := rfl
@[simp] theorem setPause_outT (s : State) (b : Bool) : (setPause b s).outT = s.outT := rfl
@[simp] theorem setPause_free (s : State) (b : Bool) : (setPause b s).free = s.free := rfl
@[simp] theorem setPause_pending (s : State) (b : Bool) : (setPause b s).pending = s.pending := rfl

/-! ### setFormat -/

@[simp] theorem setFormat_map (s : State) (f : Option Formatting → Option Formatting) : (setFormat f s).map = s.map := rfl
@[simp] theorem setFormat_ov (s : State) (f : Option Formatting → Option Formatting) : (setFormat f s).ov = s.ov := rfl
@[simp] theorem setFormat_adm (s : State) (f : Option Formatting → Option Formatting) : (setFormat f s).adm = s.adm := rfl
@[simp] theorem setFormat_hpA (s : State) (f : Option Formatting → Option Formatting) : (setFormat f s).hpA = s.hpA := rfl
@[simp] theorem setFormat_hpB (s : State) (f : Option Formatting → Option Formatting) : (setFormat f s).hpB = s.hpB := rfl
@[simp] theorem setFormat_te (s : State) (f : Option Formatting → Option Formatting) : (setFormat f s).te = s.te := rfl
@[simp] theorem setFormat_pool (s : State) (f : Option Formatting → Option Formatting) : (setFormat f s).pool = s.pool := rfl
@[simp] theorem setFormat_mrg (s : State) (f : Option Formatting → Option Formatting) : (setFormat f s).mrg = s.mrg := rfl
@[simp] theorem setFormat_jrn (s : State) (f : Option Formatting → Option Formatting) : (setFormat f s).jrn = s.jrn := rfl
@[simp] theorem setFormat_mnt (s : State) (f : Option Formatting → Option Formatting) : (setFormat f s).mnt = { s.mnt with format := f s.mnt.format } := rfl
@[simp] theorem setFormat_mgA (s : State) (f : Option Formatting → Option Formatting) : (setFormat f s).mgA = s.mgA := rfl
@[simp] theorem setFormat_mgB (s : State) (f : Option Formatting → Option Formatting) : (setFormat f s).mgB = s.mgB := rfl
@[simp] theorem setFormat_outA (s : State) (f : Option Formatting → Option Formatting) : (setFormat f s).outA = s.outA := rfl
@[simp] theorem setFormat_outB (s : State) (f : Option Formatting → Option Formatting) : (setFormat f s).outB = s.outB := rfl
@[simp] theorem setFormat_outT (s : State) (f : Option Formatting → Option Formatting) : (setFormat f s).outT = s.outT := rfl
@[simp] theorem setFormat_free (s : State) (f : Option Formatting → Option Formatting) : (setFormat f s).free = s.free := rfl
@[simp] theorem setFormat_pending (s : State) (f : Option Formatting → Option Formatting) : (setFormat f s).pending = s.pending := rfl

/-! ### setMnt -/

@[simp] theorem setMnt_map (s : State) (f : MountUnit → MountUnit) : (setMnt f s).map = s.map := rfl
@[simp] theorem setMnt_ov (s : State) (f : MountUnit → MountUnit) : (setMnt f s).ov = s.ov := rfl
@[simp] theorem setMnt_adm (s : State) (f : MountUnit → MountUnit) : (setMnt f s).adm = s.adm := rfl
@[simp] theorem setMnt_hpA (s : State) (f : MountUnit → MountUnit) : (setMnt f s).hpA = s.hpA := rfl
@[simp] theorem setMnt_hpB (s : State) (f : MountUnit → MountUnit) : (setMnt f s).hpB = s.hpB := rfl
@[simp] theorem setMnt_te (s : State) (f : MountUnit → MountUnit) : (setMnt f s).te = s.te := rfl
@[simp] theorem setMnt_pool (s : State) (f : MountUnit → MountUnit) : (setMnt f s).pool = s.pool := rfl
@[simp] theorem setMnt_mrg (s : State) (f : MountUnit → MountUnit) : (setMnt f s).mrg = s.mrg := rfl
@[simp] theorem setMnt_jrn (s : State) (f : MountUnit → MountUnit) : (setMnt f s).jrn = s.jrn := rfl
@[simp] theorem setMnt_mnt (s : State) (f : MountUnit → MountUnit) : (setMnt f s).mnt = f s.mnt := rfl
@[simp] theorem setMnt_mgA (s : State) (f : MountUnit → MountUnit) : (setMnt f s).mgA = s.mgA := rfl
@[simp] theorem setMnt_mgB (s : State) (f : MountUnit → MountUnit) : (setMnt f s).mgB = s.mgB := rfl
@[simp] theorem setMnt_outA (s : State) (f : MountUnit → MountUnit) : (setMnt f s).outA = s.outA := rfl
@[simp] theorem setMnt_outB (s : State) (f : MountUnit → MountUnit) : (setMnt f s).outB = s.outB := rfl
@[simp] theorem setMnt_outT (s : State) (f : MountUnit → MountUnit) : (setMnt f s).outT = s.outT := rfl
@[simp] theorem setMnt_free (s : State) (f : MountUnit → MountUnit) : (setMnt f s).free = s.free := rfl
@[simp] theorem setMnt_pending (s : State) (f : MountUnit → MountUnit) : (setMnt f s).pending = s.pending := rfl

/-! ### setHolding -/

@[simp] theorem setHolding_map (s : State) (f : Holding → Holding) : (setHolding f s).map = s.map := rfl
@[simp] theorem setHolding_ov (s : State) (f : Holding → Holding) : (setHolding f s).ov = s.ov := rfl
@[simp] theorem setHolding_adm (s : State) (f : Holding → Holding) : (setHolding f s).adm = s.adm := rfl
@[simp] theorem setHolding_hpA (s : State) (f : Holding → Holding) : (setHolding f s).hpA = s.hpA := rfl
@[simp] theorem setHolding_hpB (s : State) (f : Holding → Holding) : (setHolding f s).hpB = s.hpB := rfl
@[simp] theorem setHolding_te (s : State) (f : Holding → Holding) : (setHolding f s).te = s.te := rfl
@[simp] theorem setHolding_pool (s : State) (f : Holding → Holding) : (setHolding f s).pool = s.pool := rfl
@[simp] theorem setHolding_mrg (s : State) (f : Holding → Holding) : (setHolding f s).mrg = s.mrg := rfl
@[simp] theorem setHolding_jrn (s : State) (f : Holding → Holding) : (setHolding f s).jrn = s.jrn := rfl
@[simp] theorem setHolding_mnt (s : State) (f : Holding → Holding) : (setHolding f s).mnt = { s.mnt with holding := f s.mnt.holding } := rfl
@[simp] theorem setHolding_mgA (s : State) (f : Holding → Holding) : (setHolding f s).mgA = s.mgA := rfl
@[simp] theorem setHolding_mgB (s : State) (f : Holding → Holding) : (setHolding f s).mgB = s.mgB := rfl
@[simp] theorem setHolding_outA (s : State) (f : Holding → Holding) : (setHolding f s).outA = s.outA := rfl
@[simp] theorem setHolding_outB (s : State) (f : Holding → Holding) : (setHolding f s).outB = s.outB := rfl
@[simp] theorem setHolding_outT (s : State) (f : Holding → Holding) : (setHolding f s).outT = s.outT := rfl
@[simp] theorem setHolding_free (s : State) (f : Holding → Holding) : (setHolding f s).free = s.free := rfl
@[simp] theorem setHolding_pending (s : State) (f : Holding → Holding) : (setHolding f s).pending = s.pending := rfl

/-! ### mapOp -/

@[simp] theorem mapOp_map (s : State) (tag : Nat) (f : TargetOp → TargetOp) : (mapOp tag f s).map = s.map := rfl
@[simp] theorem mapOp_ov (s : State) (tag : Nat) (f : TargetOp → TargetOp) : (mapOp tag f s).ov = s.ov := rfl
@[simp] theorem mapOp_adm (s : State) (tag : Nat) (f : TargetOp → TargetOp) : (mapOp tag f s).adm = s.adm := rfl
@[simp] theorem mapOp_hpA (s : State) (tag : Nat) (f : TargetOp → TargetOp) : (mapOp tag f s).hpA = s.hpA := rfl
@[simp] theorem mapOp_hpB (s : State) (tag : Nat) (f : TargetOp → TargetOp) : (mapOp tag f s).hpB = s.hpB := rfl
@[simp] theorem mapOp_pool (s : State) (tag : Nat) (f : TargetOp → TargetOp) : (mapOp tag f s).pool = s.pool := rfl
@[simp] theorem mapOp_mrg (s : State) (tag : Nat) (f : TargetOp → TargetOp) : (mapOp tag f s).mrg = s.mrg := rfl
@[simp] theorem mapOp_jrn (s : State) (tag : Nat) (f : TargetOp → TargetOp) : (mapOp tag f s).jrn = s.jrn := rfl
@[simp] theorem mapOp_mnt (s : State) (tag : Nat) (f : TargetOp → TargetOp) : (mapOp tag f s).mnt = s.mnt := rfl
@[simp] theorem mapOp_mgA (s : State) (tag : Nat) (f : TargetOp → TargetOp) : (mapOp tag f s).mgA = s.mgA := rfl
@[simp] theorem mapOp_mgB (s : State) (tag : Nat) (f : TargetOp → TargetOp) : (mapOp tag f s).mgB = s.mgB := rfl
@[simp] theorem mapOp_outA (s : State) (tag : Nat) (f : TargetOp → TargetOp) : (mapOp tag f s).outA = s.outA := rfl
@[simp] theorem mapOp_outB (s : State) (tag : Nat) (f : TargetOp → TargetOp) : (mapOp tag f s).outB = s.outB := rfl
@[simp] theorem mapOp_outT (s : State) (tag : Nat) (f : TargetOp → TargetOp) : (mapOp tag f s).outT = s.outT := rfl
@[simp] theorem mapOp_free (s : State) (tag : Nat) (f : TargetOp → TargetOp) : (mapOp tag f s).free = s.free := rfl
@[simp] theorem mapOp_pending (s : State) (tag : Nat) (f : TargetOp → TargetOp) : (mapOp tag f s).pending = s.pending := rfl

/-! ### removeOp -/

@[simp] theorem removeOp_map (s : State) (tag : Nat) : (removeOp tag s).map = s.map := rfl
@[simp] theorem removeOp_ov (s : State) (tag : Nat) : (removeOp tag s).ov = s.ov := rfl
@[simp] theorem removeOp_adm (s : State) (tag : Nat) : (removeOp tag s).adm = s.adm := rfl
@[simp] theorem removeOp_hpA (s : State) (tag : Nat) : (removeOp tag s).hpA = s.hpA := rfl
@[simp] theorem removeOp_hpB (s : State) (tag : Nat) : (removeOp tag s).hpB = s.hpB := rfl
@[simp] theorem removeOp_pool (s : State) (tag : Nat) : (removeOp tag s).pool = s.pool := rfl
@[simp] theorem removeOp_mrg (s : State) (tag : Nat) : (removeOp tag s).mrg = s.mrg := rfl
@[simp] theorem removeOp_jrn (s : State) (tag : Nat) : (removeOp tag s).jrn = s.jrn := rfl
@[simp] theorem removeOp_mnt (s : State) (tag : Nat) : (removeOp tag s).mnt = s.mnt := rfl
@[simp] theorem removeOp_mgA (s : State) (tag : Nat) : (removeOp tag s).mgA = s.mgA := rfl
@[simp] theorem removeOp_mgB (s : State) (tag : Nat) : (removeOp tag s).mgB = s.mgB := rfl
@[simp] theorem removeOp_outA (s : State) (tag : Nat) : (removeOp tag s).outA = s.outA := rfl
@[simp] theorem removeOp_outB (s : State) (tag : Nat) : (removeOp tag s).outB = s.outB := rfl
@[simp] theorem removeOp_outT (s : State) (tag : Nat) : (removeOp tag s).outT = s.outT := rfl
@[simp] theorem removeOp_free (s : State) (tag : Nat) : (removeOp tag s).free = s.free := rfl
@[simp] theorem removeOp_pending (s : State) (tag : Nat) : (removeOp tag s).pending = s.pending := rfl

/-! ### dropDeferred -/

@[simp] theorem dropDeferred_map (s : State) (c : CmdId) : (dropDeferred c s).map = s.map := rfl
@[simp] theorem dropDeferred_ov (s : State) (c : CmdId) : (dropDeferred c s).ov = s.ov := rfl
@[simp] theorem dropDeferred_hpA (s : State) (c : CmdId) : (dropDeferred c s).hpA = s.hpA := rfl
@[simp] theorem dropDeferred_hpB (s : State) (c : CmdId) : (dropDeferred c s).hpB = s.hpB := rfl
@[simp] theorem dropDeferred_te (s : State) (c : CmdId) : (dropDeferred c s).te = s.te := rfl
@[simp] theorem dropDeferred_pool (s : State) (c : CmdId) : (dropDeferred c s).pool = s.pool := rfl
@[simp] theorem dropDeferred_mrg (s : State) (c : CmdId) : (dropDeferred c s).mrg = s.mrg := rfl
@[simp] theorem dropDeferred_jrn (s : State) (c : CmdId) : (dropDeferred c s).jrn = s.jrn := rfl
@[simp] theorem dropDeferred_mnt (s : State) (c : CmdId) : (dropDeferred c s).mnt = s.mnt := rfl
@[simp] theorem dropDeferred_mgA (s : State) (c : CmdId) : (dropDeferred c s).mgA = s.mgA := rfl
@[simp] theorem dropDeferred_mgB (s : State) (c : CmdId) : (dropDeferred c s).mgB = s.mgB := rfl
@[simp] theorem dropDeferred_outA (s : State) (c : CmdId) : (dropDeferred c s).outA = s.outA := rfl
@[simp] theorem dropDeferred_outB (s : State) (c : CmdId) : (dropDeferred c s).outB = s.outB := rfl
@[simp] theorem dropDeferred_outT (s : State) (c : CmdId) : (dropDeferred c s).outT = s.outT := rfl
@[simp] theorem dropDeferred_free (s : State) (c : CmdId) : (dropDeferred c s).free = s.free := rfl
@[simp] theorem dropDeferred_pending (s : State) (c : CmdId) : (dropDeferred c s).pending = s.pending := rfl

/-! ### clearUnavailable -/

@[simp] theorem clearUnavailable_ov (s : State) : (clearUnavailable s).ov = s.ov := rfl
@[simp] theorem clearUnavailable_adm (s : State) : (clearUnavailable s).adm = s.adm := rfl
@[simp] theorem clearUnavailable_hpA (s : State) : (clearUnavailable s).hpA = s.hpA := rfl
@[simp] theorem clearUnavailable_hpB (s : State) : (clearUnavailable s).hpB = s.hpB := rfl
@[simp] theorem clearUnavailable_te (s : State) : (clearUnavailable s).te = s.te := rfl
@[simp] theorem clearUnavailable_pool (s : State) : (clearUnavailable s).pool = s.pool := rfl
@[simp] theorem clearUnavailable_mrg (s : State) : (clearUnavailable s).mrg = s.mrg := rfl
@[simp] theorem clearUnavailable_jrn (s : State) : (clearUnavailable s).jrn = s.jrn := rfl
@[simp] theorem clearUnavailable_mnt (s : State) : (clearUnavailable s).mnt = s.mnt := rfl
@[simp] theorem clearUnavailable_mgA (s : State) : (clearUnavailable s).mgA = s.mgA := rfl
@[simp] theorem clearUnavailable_mgB (s : State) : (clearUnavailable s).mgB = s.mgB := rfl
@[simp] theorem clearUnavailable_outA (s : State) : (clearUnavailable s).outA = s.outA := rfl
@[simp] theorem clearUnavailable_outB (s : State) : (clearUnavailable s).outB = s.outB := rfl
@[simp] theorem clearUnavailable_outT (s : State) : (clearUnavailable s).outT = s.outT := rfl
@[simp] theorem clearUnavailable_free (s : State) : (clearUnavailable s).free = s.free := rfl
@[simp] theorem clearUnavailable_pending (s : State) : (clearUnavailable s).pending = s.pending := rfl

/-! ### Parts of a unit that an update of the unit leaves -/

@[simp] theorem placeClaim_pool_chargeA (s : State) (o : BufOwner) (w : ClaimFor) (n : Nat) : (placeClaim o w n s).pool.chargeA = s.pool.chargeA := by
  unfold placeClaim BufferPool.setClaims; (repeat' split) <;> rfl
@[simp] theorem placeClaim_pool_chargeB (s : State) (o : BufOwner) (w : ClaimFor) (n : Nat) : (placeClaim o w n s).pool.chargeB = s.pool.chargeB := by
  unfold placeClaim BufferPool.setClaims; (repeat' split) <;> rfl
@[simp] theorem placeClaim_pool_chargeI (s : State) (o : BufOwner) (w : ClaimFor) (n : Nat) : (placeClaim o w n s).pool.chargeI = s.pool.chargeI := by
  unfold placeClaim BufferPool.setClaims; (repeat' split) <;> rfl
@[simp] theorem dropClaims_pool_chargeA (s : State) (o : BufOwner) (gone : ClaimFor → Bool) : (dropClaims o gone s).pool.chargeA = s.pool.chargeA := by
  unfold dropClaims BufferPool.setClaims; (repeat' split) <;> rfl
@[simp] theorem dropClaims_pool_chargeB (s : State) (o : BufOwner) (gone : ClaimFor → Bool) : (dropClaims o gone s).pool.chargeB = s.pool.chargeB := by
  unfold dropClaims BufferPool.setClaims; (repeat' split) <;> rfl
@[simp] theorem dropClaims_pool_chargeI (s : State) (o : BufOwner) (gone : ClaimFor → Bool) : (dropClaims o gone s).pool.chargeI = s.pool.chargeI := by
  unfold dropClaims BufferPool.setClaims; (repeat' split) <;> rfl
@[simp] theorem release_pool_claimsA (s : State) (o : BufOwner) (n : Nat) : (release o n s).pool.claimsA = s.pool.claimsA := by
  unfold release BufferPool.setCharge; (repeat' split) <;> rfl
@[simp] theorem release_pool_claimsB (s : State) (o : BufOwner) (n : Nat) : (release o n s).pool.claimsB = s.pool.claimsB := by
  unfold release BufferPool.setCharge; (repeat' split) <;> rfl
@[simp] theorem release_pool_claimsI (s : State) (o : BufOwner) (n : Nat) : (release o n s).pool.claimsI = s.pool.claimsI := by
  unfold release BufferPool.setCharge; (repeat' split) <;> rfl
@[simp] theorem enqueue_te_link (s : State) (r : Request) : (enqueue r s).te.link = s.te.link := by
  unfold enqueue TransferEngine.setQueue; (repeat' split) <;> rfl
@[simp] theorem enqueue_te_capacity (s : State) (r : Request) : (enqueue r s).te.capacity = s.te.capacity := by
  unfold enqueue TransferEngine.setQueue; (repeat' split) <;> rfl
@[simp] theorem enqueue_te_resetWait (s : State) (r : Request) : (enqueue r s).te.resetWait = s.te.resetWait := by
  unfold enqueue TransferEngine.setQueue; (repeat' split) <;> rfl
@[simp] theorem enqueue_te_resetDue (s : State) (r : Request) : (enqueue r s).te.resetDue = s.te.resetDue := by
  unfold enqueue TransferEngine.setQueue; (repeat' split) <;> rfl
@[simp] theorem enqueue_te_ops (s : State) (r : Request) : (enqueue r s).te.ops = s.te.ops := by
  unfold enqueue TransferEngine.setQueue; (repeat' split) <;> rfl
@[simp] theorem enqueue_te_relocs (s : State) (r : Request) : (enqueue r s).te.relocs = s.te.relocs := by
  unfold enqueue TransferEngine.setQueue; (repeat' split) <;> rfl
@[simp] theorem enqueue_te_intervals (s : State) (r : Request) : (enqueue r s).te.intervals = s.te.intervals := by
  unfold enqueue TransferEngine.setQueue; (repeat' split) <;> rfl
@[simp] theorem enqueue_te_hostPtr (s : State) (r : Request) : (enqueue r s).te.hostPtr = s.te.hostPtr := by
  unfold enqueue TransferEngine.setQueue; (repeat' split) <;> rfl
@[simp] theorem enqueue_te_skip (s : State) (r : Request) : (enqueue r s).te.skip = s.te.skip := by
  unfold enqueue TransferEngine.setQueue; (repeat' split) <;> rfl
@[simp] theorem withdrawRequests_te_link (s : State) (gone : Owner → Bool) : (withdrawRequests gone s).te.link = s.te.link := rfl
@[simp] theorem withdrawRequests_te_capacity (s : State) (gone : Owner → Bool) : (withdrawRequests gone s).te.capacity = s.te.capacity := rfl
@[simp] theorem withdrawRequests_te_resetWait (s : State) (gone : Owner → Bool) : (withdrawRequests gone s).te.resetWait = s.te.resetWait := rfl
@[simp] theorem withdrawRequests_te_resetDue (s : State) (gone : Owner → Bool) : (withdrawRequests gone s).te.resetDue = s.te.resetDue := rfl
@[simp] theorem withdrawRequests_te_ops (s : State) (gone : Owner → Bool) : (withdrawRequests gone s).te.ops = s.te.ops := rfl
@[simp] theorem withdrawRequests_te_relocs (s : State) (gone : Owner → Bool) : (withdrawRequests gone s).te.relocs = s.te.relocs := rfl
@[simp] theorem withdrawRequests_te_hostPtr (s : State) (gone : Owner → Bool) : (withdrawRequests gone s).te.hostPtr = s.te.hostPtr := rfl
@[simp] theorem withdrawRequests_te_skip (s : State) (gone : Owner → Bool) : (withdrawRequests gone s).te.skip = s.te.skip := rfl
@[simp] theorem withdrawHost_te_link (s : State) (gone : Owner → Bool) : (withdrawHost gone s).te.link = s.te.link := rfl
@[simp] theorem withdrawHost_te_capacity (s : State) (gone : Owner → Bool) : (withdrawHost gone s).te.capacity = s.te.capacity := rfl
@[simp] theorem withdrawHost_te_resetWait (s : State) (gone : Owner → Bool) : (withdrawHost gone s).te.resetWait = s.te.resetWait := rfl
@[simp] theorem withdrawHost_te_resetDue (s : State) (gone : Owner → Bool) : (withdrawHost gone s).te.resetDue = s.te.resetDue := rfl
@[simp] theorem withdrawHost_te_ops (s : State) (gone : Owner → Bool) : (withdrawHost gone s).te.ops = s.te.ops := rfl
@[simp] theorem withdrawHost_te_relocs (s : State) (gone : Owner → Bool) : (withdrawHost gone s).te.relocs = s.te.relocs := rfl
@[simp] theorem withdrawHost_te_intervals (s : State) (gone : Owner → Bool) : (withdrawHost gone s).te.intervals = s.te.intervals := rfl
@[simp] theorem withdrawHost_te_hostPtr (s : State) (gone : Owner → Bool) : (withdrawHost gone s).te.hostPtr = s.te.hostPtr := rfl
@[simp] theorem withdrawHost_te_skip (s : State) (gone : Owner → Bool) : (withdrawHost gone s).te.skip = s.te.skip := rfl
@[simp] theorem withdrawHost_te_recoveryQ (s : State) (gone : Owner → Bool) : (withdrawHost gone s).te.recoveryQ = s.te.recoveryQ := rfl
@[simp] theorem withdrawHost_te_journalQ (s : State) (gone : Owner → Bool) : (withdrawHost gone s).te.journalQ = s.te.journalQ := rfl
@[simp] theorem withdrawHost_te_backQ (s : State) (gone : Owner → Bool) : (withdrawHost gone s).te.backQ = s.te.backQ := rfl
@[simp] theorem disown_te_link (s : State) (f : Owner → Owner) : (disown f s).te.link = s.te.link := rfl
@[simp] theorem disown_te_capacity (s : State) (f : Owner → Owner) : (disown f s).te.capacity = s.te.capacity := rfl
@[simp] theorem disown_te_resetWait (s : State) (f : Owner → Owner) : (disown f s).te.resetWait = s.te.resetWait := rfl
@[simp] theorem disown_te_resetDue (s : State) (f : Owner → Owner) : (disown f s).te.resetDue = s.te.resetDue := rfl
@[simp] theorem disown_te_relocs (s : State) (f : Owner → Owner) : (disown f s).te.relocs = s.te.relocs := rfl
@[simp] theorem disown_te_hostPtr (s : State) (f : Owner → Owner) : (disown f s).te.hostPtr = s.te.hostPtr := rfl
@[simp] theorem disown_te_skip (s : State) (f : Owner → Owner) : (disown f s).te.skip = s.te.skip := rfl
@[simp] theorem disown_te_journalQ (s : State) (f : Owner → Owner) : (disown f s).te.journalQ = s.te.journalQ := rfl
@[simp] theorem disown_te_hostAQ (s : State) (f : Owner → Owner) : (disown f s).te.hostAQ = s.te.hostAQ := rfl
@[simp] theorem disown_te_hostBQ (s : State) (f : Owner → Owner) : (disown f s).te.hostBQ = s.te.hostBQ := rfl
@[simp] theorem disown_te_backQ (s : State) (f : Owner → Owner) : (disown f s).te.backQ = s.te.backQ := rfl
@[simp] theorem mapRec_adm_next (s : State) (c : CmdId) (f : Record → Record) : (mapRec c f s).adm.next = s.adm.next := rfl
@[simp] theorem mapRec_adm_pause (s : State) (c : CmdId) (f : Record → Record) : (mapRec c f s).adm.pause = s.adm.pause := rfl
@[simp] theorem mapRec_adm_deferred (s : State) (c : CmdId) (f : Record → Record) : (mapRec c f s).adm.deferred = s.adm.deferred := rfl
@[simp] theorem mapRec_adm_order (s : State) (c : CmdId) (f : Record → Record) : (mapRec c f s).adm.order = s.adm.order := rfl
@[simp] theorem mapRec_adm_queueA (s : State) (c : CmdId) (f : Record → Record) : (mapRec c f s).adm.queueA = s.adm.queueA := rfl
@[simp] theorem mapRec_adm_queueB (s : State) (c : CmdId) (f : Record → Record) : (mapRec c f s).adm.queueB = s.adm.queueB := rfl
@[simp] theorem unqueue_adm_next (s : State) (c : CmdId) : (unqueue c s).adm.next = s.adm.next := by
  unfold unqueue AdmissionUnit.setQueue; split <;> rfl
@[simp] theorem unqueue_adm_pause (s : State) (c : CmdId) : (unqueue c s).adm.pause = s.adm.pause := by
  unfold unqueue AdmissionUnit.setQueue; split <;> rfl
@[simp] theorem unqueue_adm_deferred (s : State) (c : CmdId) : (unqueue c s).adm.deferred = s.adm.deferred := by
  unfold unqueue AdmissionUnit.setQueue; split <;> rfl
@[simp] theorem unqueue_adm_order (s : State) (c : CmdId) : (unqueue c s).adm.order = s.adm.order := by
  unfold unqueue AdmissionUnit.setQueue; split <;> rfl
@[simp] theorem unqueue_adm_records (s : State) (c : CmdId) : (unqueue c s).adm.records = s.adm.records := by
  unfold unqueue AdmissionUnit.setQueue; split <;> rfl
@[simp] theorem mapPiece_adm_next (s : State) (c : CmdId) (i : Nat) (f : Piece → Piece) : (mapPiece c i f s).adm.next = s.adm.next := rfl
@[simp] theorem mapPiece_adm_pause (s : State) (c : CmdId) (i : Nat) (f : Piece → Piece) : (mapPiece c i f s).adm.pause = s.adm.pause := rfl
@[simp] theorem mapPiece_adm_deferred (s : State) (c : CmdId) (i : Nat) (f : Piece → Piece) : (mapPiece c i f s).adm.deferred = s.adm.deferred := rfl
@[simp] theorem mapPiece_adm_order (s : State) (c : CmdId) (i : Nat) (f : Piece → Piece) : (mapPiece c i f s).adm.order = s.adm.order := rfl
@[simp] theorem mapPiece_adm_queueA (s : State) (c : CmdId) (i : Nat) (f : Piece → Piece) : (mapPiece c i f s).adm.queueA = s.adm.queueA := rfl
@[simp] theorem mapPiece_adm_queueB (s : State) (c : CmdId) (i : Nat) (f : Piece → Piece) : (mapPiece c i f s).adm.queueB = s.adm.queueB := rfl
@[simp] theorem putEntry_ov_ring (s : State) (e : Entry) : (putEntry e s).ov.ring = s.ov.ring := rfl
@[simp] theorem putEntry_ov_retired (s : State) (e : Entry) : (putEntry e s).ov.retired = s.ov.retired := rfl
@[simp] theorem putEntry_ov_reservations (s : State) (e : Entry) : (putEntry e s).ov.reservations = s.ov.reservations := rfl
@[simp] theorem putEntry_ov_slots (s : State) (e : Entry) : (putEntry e s).ov.slots = s.ov.slots := rfl
@[simp] theorem putEntry_ov_condemned (s : State) (e : Entry) : (putEntry e s).ov.condemned = s.ov.condemned := rfl
@[simp] theorem putEntry_ov_pendingFree (s : State) (e : Entry) : (putEntry e s).ov.pendingFree = s.ov.pendingFree := rfl
@[simp] theorem putEntry_ov_armed (s : State) (e : Entry) : (putEntry e s).ov.armed = s.ov.armed := rfl
@[simp] theorem removeEntry_ov_ring (s : State) (g : Nat) : (removeEntry g s).ov.ring = s.ov.ring := rfl
@[simp] theorem removeEntry_ov_retired (s : State) (g : Nat) : (removeEntry g s).ov.retired = s.ov.retired := rfl
@[simp] theorem removeEntry_ov_reservations (s : State) (g : Nat) : (removeEntry g s).ov.reservations = s.ov.reservations := rfl
@[simp] theorem removeEntry_ov_slots (s : State) (g : Nat) : (removeEntry g s).ov.slots = s.ov.slots := rfl
@[simp] theorem removeEntry_ov_condemned (s : State) (g : Nat) : (removeEntry g s).ov.condemned = s.ov.condemned := rfl
@[simp] theorem removeEntry_ov_pendingFree (s : State) (g : Nat) : (removeEntry g s).ov.pendingFree = s.ov.pendingFree := rfl
@[simp] theorem removeEntry_ov_armed (s : State) (g : Nat) : (removeEntry g s).ov.armed = s.ov.armed := rfl
@[simp] theorem setEntryState_ov_ring (s : State) (g : Nat) (st : EntryState) : (setEntryState g st s).ov.ring = s.ov.ring := rfl
@[simp] theorem setEntryState_ov_retired (s : State) (g : Nat) (st : EntryState) : (setEntryState g st s).ov.retired = s.ov.retired := rfl
@[simp] theorem setEntryState_ov_reservations (s : State) (g : Nat) (st : EntryState) : (setEntryState g st s).ov.reservations = s.ov.reservations := rfl
@[simp] theorem setEntryState_ov_slots (s : State) (g : Nat) (st : EntryState) : (setEntryState g st s).ov.slots = s.ov.slots := rfl
@[simp] theorem setEntryState_ov_condemned (s : State) (g : Nat) (st : EntryState) : (setEntryState g st s).ov.condemned = s.ov.condemned := rfl
@[simp] theorem setEntryState_ov_pendingFree (s : State) (g : Nat) (st : EntryState) : (setEntryState g st s).ov.pendingFree = s.ov.pendingFree := rfl
@[simp] theorem setEntryState_ov_armed (s : State) (g : Nat) (st : EntryState) : (setEntryState g st s).ov.armed = s.ov.armed := rfl
@[simp] theorem joinRing_ov_table (s : State) (n : Nat) : (joinRing n s).ov.table = s.ov.table := rfl
@[simp] theorem joinRing_ov_retired (s : State) (n : Nat) : (joinRing n s).ov.retired = s.ov.retired := rfl
@[simp] theorem joinRing_ov_reservations (s : State) (n : Nat) : (joinRing n s).ov.reservations = s.ov.reservations := rfl
@[simp] theorem joinRing_ov_slots (s : State) (n : Nat) : (joinRing n s).ov.slots = s.ov.slots := rfl
@[simp] theorem joinRing_ov_condemned (s : State) (n : Nat) : (joinRing n s).ov.condemned = s.ov.condemned := rfl
@[simp] theorem joinRing_ov_pendingFree (s : State) (n : Nat) : (joinRing n s).ov.pendingFree = s.ov.pendingFree := rfl
@[simp] theorem retire_ov_table (s : State) (n : Nat) : (retire n s).ov.table = s.ov.table := rfl
@[simp] theorem retire_ov_ring (s : State) (n : Nat) : (retire n s).ov.ring = s.ov.ring := rfl
@[simp] theorem retire_ov_reservations (s : State) (n : Nat) : (retire n s).ov.reservations = s.ov.reservations := rfl
@[simp] theorem retire_ov_slots (s : State) (n : Nat) : (retire n s).ov.slots = s.ov.slots := rfl
@[simp] theorem retire_ov_pendingFree (s : State) (n : Nat) : (retire n s).ov.pendingFree = s.ov.pendingFree := rfl
@[simp] theorem retire_ov_armed (s : State) (n : Nat) : (retire n s).ov.armed = s.ov.armed := rfl
@[simp] theorem setReservations_ov_table (s : State) (f : List Reservation → List Reservation) : (setReservations f s).ov.table = s.ov.table := rfl
@[simp] theorem setReservations_ov_ring (s : State) (f : List Reservation → List Reservation) : (setReservations f s).ov.ring = s.ov.ring := rfl
@[simp] theorem setReservations_ov_retired (s : State) (f : List Reservation → List Reservation) : (setReservations f s).ov.retired = s.ov.retired := rfl
@[simp] theorem setReservations_ov_slots (s : State) (f : List Reservation → List Reservation) : (setReservations f s).ov.slots = s.ov.slots := rfl
@[simp] theorem setReservations_ov_condemned (s : State) (f : List Reservation → List Reservation) : (setReservations f s).ov.condemned = s.ov.condemned := rfl
@[simp] theorem setReservations_ov_pendingFree (s : State) (f : List Reservation → List Reservation) : (setReservations f s).ov.pendingFree = s.ov.pendingFree := rfl
@[simp] theorem setReservations_ov_armed (s : State) (f : List Reservation → List Reservation) : (setReservations f s).ov.armed = s.ov.armed := rfl
@[simp] theorem setOrder_adm_next (s : State) (f : List Placed → List Placed) : (setOrder f s).adm.next = s.adm.next := rfl
@[simp] theorem setOrder_adm_pause (s : State) (f : List Placed → List Placed) : (setOrder f s).adm.pause = s.adm.pause := rfl
@[simp] theorem setOrder_adm_deferred (s : State) (f : List Placed → List Placed) : (setOrder f s).adm.deferred = s.adm.deferred := rfl
@[simp] theorem setOrder_adm_records (s : State) (f : List Placed → List Placed) : (setOrder f s).adm.records = s.adm.records := rfl
@[simp] theorem setOrder_adm_queueA (s : State) (f : List Placed → List Placed) : (setOrder f s).adm.queueA = s.adm.queueA := rfl
@[simp] theorem setOrder_adm_queueB (s : State) (f : List Placed → List Placed) : (setOrder f s).adm.queueB = s.adm.queueB := rfl
@[simp] theorem unplace_adm_next (s : State) (r : ClaimRef) : (unplace r s).adm.next = s.adm.next := rfl
@[simp] theorem unplace_adm_pause (s : State) (r : ClaimRef) : (unplace r s).adm.pause = s.adm.pause := rfl
@[simp] theorem unplace_adm_deferred (s : State) (r : ClaimRef) : (unplace r s).adm.deferred = s.adm.deferred := rfl
@[simp] theorem unplace_adm_records (s : State) (r : ClaimRef) : (unplace r s).adm.records = s.adm.records := rfl
@[simp] theorem unplace_adm_queueA (s : State) (r : ClaimRef) : (unplace r s).adm.queueA = s.adm.queueA := rfl
@[simp] theorem unplace_adm_queueB (s : State) (r : ClaimRef) : (unplace r s).adm.queueB = s.adm.queueB := rfl
@[simp] theorem placeAtEnd_adm_next (s : State) (r : ClaimRef) : (placeAtEnd r s).adm.next = s.adm.next := rfl
@[simp] theorem placeAtEnd_adm_pause (s : State) (r : ClaimRef) : (placeAtEnd r s).adm.pause = s.adm.pause := rfl
@[simp] theorem placeAtEnd_adm_deferred (s : State) (r : ClaimRef) : (placeAtEnd r s).adm.deferred = s.adm.deferred := rfl
@[simp] theorem placeAtEnd_adm_records (s : State) (r : ClaimRef) : (placeAtEnd r s).adm.records = s.adm.records := rfl
@[simp] theorem placeAtEnd_adm_queueA (s : State) (r : ClaimRef) : (placeAtEnd r s).adm.queueA = s.adm.queueA := rfl
@[simp] theorem placeAtEnd_adm_queueB (s : State) (r : ClaimRef) : (placeAtEnd r s).adm.queueB = s.adm.queueB := rfl
@[simp] theorem setRelocs_te_link (s : State) (f : List Reloc → List Reloc) : (setRelocs f s).te.link = s.te.link := rfl
@[simp] theorem setRelocs_te_capacity (s : State) (f : List Reloc → List Reloc) : (setRelocs f s).te.capacity = s.te.capacity := rfl
@[simp] theorem setRelocs_te_resetWait (s : State) (f : List Reloc → List Reloc) : (setRelocs f s).te.resetWait = s.te.resetWait := rfl
@[simp] theorem setRelocs_te_resetDue (s : State) (f : List Reloc → List Reloc) : (setRelocs f s).te.resetDue = s.te.resetDue := rfl
@[simp] theorem setRelocs_te_ops (s : State) (f : List Reloc → List Reloc) : (setRelocs f s).te.ops = s.te.ops := rfl
@[simp] theorem setRelocs_te_intervals (s : State) (f : List Reloc → List Reloc) : (setRelocs f s).te.intervals = s.te.intervals := rfl
@[simp] theorem setRelocs_te_hostPtr (s : State) (f : List Reloc → List Reloc) : (setRelocs f s).te.hostPtr = s.te.hostPtr := rfl
@[simp] theorem setRelocs_te_skip (s : State) (f : List Reloc → List Reloc) : (setRelocs f s).te.skip = s.te.skip := rfl
@[simp] theorem setRelocs_te_recoveryQ (s : State) (f : List Reloc → List Reloc) : (setRelocs f s).te.recoveryQ = s.te.recoveryQ := rfl
@[simp] theorem setRelocs_te_journalQ (s : State) (f : List Reloc → List Reloc) : (setRelocs f s).te.journalQ = s.te.journalQ := rfl
@[simp] theorem setRelocs_te_hostAQ (s : State) (f : List Reloc → List Reloc) : (setRelocs f s).te.hostAQ = s.te.hostAQ := rfl
@[simp] theorem setRelocs_te_hostBQ (s : State) (f : List Reloc → List Reloc) : (setRelocs f s).te.hostBQ = s.te.hostBQ := rfl
@[simp] theorem setRelocs_te_backQ (s : State) (f : List Reloc → List Reloc) : (setRelocs f s).te.backQ = s.te.backQ := rfl
@[simp] theorem mapReloc_te_link (s : State) (g : Nat) (f : Reloc → Reloc) : (mapReloc g f s).te.link = s.te.link := rfl
@[simp] theorem mapReloc_te_capacity (s : State) (g : Nat) (f : Reloc → Reloc) : (mapReloc g f s).te.capacity = s.te.capacity := rfl
@[simp] theorem mapReloc_te_resetWait (s : State) (g : Nat) (f : Reloc → Reloc) : (mapReloc g f s).te.resetWait = s.te.resetWait := rfl
@[simp] theorem mapReloc_te_resetDue (s : State) (g : Nat) (f : Reloc → Reloc) : (mapReloc g f s).te.resetDue = s.te.resetDue := rfl
@[simp] theorem mapReloc_te_ops (s : State) (g : Nat) (f : Reloc → Reloc) : (mapReloc g f s).te.ops = s.te.ops := rfl
@[simp] theorem mapReloc_te_intervals (s : State) (g : Nat) (f : Reloc → Reloc) : (mapReloc g f s).te.intervals = s.te.intervals := rfl
@[simp] theorem mapReloc_te_hostPtr (s : State) (g : Nat) (f : Reloc → Reloc) : (mapReloc g f s).te.hostPtr = s.te.hostPtr := rfl
@[simp] theorem mapReloc_te_skip (s : State) (g : Nat) (f : Reloc → Reloc) : (mapReloc g f s).te.skip = s.te.skip := rfl
@[simp] theorem mapReloc_te_recoveryQ (s : State) (g : Nat) (f : Reloc → Reloc) : (mapReloc g f s).te.recoveryQ = s.te.recoveryQ := rfl
@[simp] theorem mapReloc_te_journalQ (s : State) (g : Nat) (f : Reloc → Reloc) : (mapReloc g f s).te.journalQ = s.te.journalQ := rfl
@[simp] theorem mapReloc_te_hostAQ (s : State) (g : Nat) (f : Reloc → Reloc) : (mapReloc g f s).te.hostAQ = s.te.hostAQ := rfl
@[simp] theorem mapReloc_te_hostBQ (s : State) (g : Nat) (f : Reloc → Reloc) : (mapReloc g f s).te.hostBQ = s.te.hostBQ := rfl
@[simp] theorem mapReloc_te_backQ (s : State) (g : Nat) (f : Reloc → Reloc) : (mapReloc g f s).te.backQ = s.te.backQ := rfl
@[simp] theorem mapGrain_mrg_state (s : State) (f : MergeGrain → MergeGrain) : (mapGrain f s).mrg.state = s.mrg.state := rfl
@[simp] theorem mapGrain_mrg_discard (s : State) (f : MergeGrain → MergeGrain) : (mapGrain f s).mrg.discard = s.mrg.discard := rfl
@[simp] theorem mapGrain_mrg_cursor (s : State) (f : MergeGrain → MergeGrain) : (mapGrain f s).mrg.cursor = s.mrg.cursor := rfl
@[simp] theorem mapGrain_mrg_haltOwed (s : State) (f : MergeGrain → MergeGrain) : (mapGrain f s).mrg.haltOwed = s.mrg.haltOwed := rfl
@[simp] theorem mapGrain_mrg_selection (s : State) (f : MergeGrain → MergeGrain) : (mapGrain f s).mrg.selection = s.mrg.selection := rfl
@[simp] theorem mapGrain_mrg_all (s : State) (f : MergeGrain → MergeGrain) : (mapGrain f s).mrg.all = s.mrg.all := rfl
@[simp] theorem setPause_adm_next (s : State) (b : Bool) : (setPause b s).adm.next = s.adm.next := rfl
@[simp] theorem setPause_adm_deferred (s : State) (b : Bool) : (setPause b s).adm.deferred = s.adm.deferred := rfl
@[simp] theorem setPause_adm_order (s : State) (b : Bool) : (setPause b s).adm.order = s.adm.order := rfl
@[simp] theorem setPause_adm_records (s : State) (b : Bool) : (setPause b s).adm.records = s.adm.records := rfl
@[simp] theorem setPause_adm_queueA (s : State) (b : Bool) : (setPause b s).adm.queueA = s.adm.queueA := rfl
@[simp] theorem setPause_adm_queueB (s : State) (b : Bool) : (setPause b s).adm.queueB = s.adm.queueB := rfl
@[simp] theorem setFormat_mnt_dev (s : State) (f : Option Formatting → Option Formatting) : (setFormat f s).mnt.dev = s.mnt.dev := rfl
@[simp] theorem setFormat_mnt_stage (s : State) (f : Option Formatting → Option Formatting) : (setFormat f s).mnt.stage = s.mnt.stage := rfl
@[simp] theorem setFormat_mnt_holding (s : State) (f : Option Formatting → Option Formatting) : (setFormat f s).mnt.holding = s.mnt.holding := rfl
@[simp] theorem setHolding_mnt_dev (s : State) (f : Holding → Holding) : (setHolding f s).mnt.dev = s.mnt.dev := rfl
@[simp] theorem setHolding_mnt_stage (s : State) (f : Holding → Holding) : (setHolding f s).mnt.stage = s.mnt.stage := rfl
@[simp] theorem setHolding_mnt_format (s : State) (f : Holding → Holding) : (setHolding f s).mnt.format = s.mnt.format := rfl
@[simp] theorem mapOp_te_link (s : State) (tag : Nat) (f : TargetOp → TargetOp) : (mapOp tag f s).te.link = s.te.link := rfl
@[simp] theorem mapOp_te_capacity (s : State) (tag : Nat) (f : TargetOp → TargetOp) : (mapOp tag f s).te.capacity = s.te.capacity := rfl
@[simp] theorem mapOp_te_resetWait (s : State) (tag : Nat) (f : TargetOp → TargetOp) : (mapOp tag f s).te.resetWait = s.te.resetWait := rfl
@[simp] theorem mapOp_te_resetDue (s : State) (tag : Nat) (f : TargetOp → TargetOp) : (mapOp tag f s).te.resetDue = s.te.resetDue := rfl
@[simp] theorem mapOp_te_relocs (s : State) (tag : Nat) (f : TargetOp → TargetOp) : (mapOp tag f s).te.relocs = s.te.relocs := rfl
@[simp] theorem mapOp_te_intervals (s : State) (tag : Nat) (f : TargetOp → TargetOp) : (mapOp tag f s).te.intervals = s.te.intervals := rfl
@[simp] theorem mapOp_te_hostPtr (s : State) (tag : Nat) (f : TargetOp → TargetOp) : (mapOp tag f s).te.hostPtr = s.te.hostPtr := rfl
@[simp] theorem mapOp_te_skip (s : State) (tag : Nat) (f : TargetOp → TargetOp) : (mapOp tag f s).te.skip = s.te.skip := rfl
@[simp] theorem mapOp_te_recoveryQ (s : State) (tag : Nat) (f : TargetOp → TargetOp) : (mapOp tag f s).te.recoveryQ = s.te.recoveryQ := rfl
@[simp] theorem mapOp_te_journalQ (s : State) (tag : Nat) (f : TargetOp → TargetOp) : (mapOp tag f s).te.journalQ = s.te.journalQ := rfl
@[simp] theorem mapOp_te_hostAQ (s : State) (tag : Nat) (f : TargetOp → TargetOp) : (mapOp tag f s).te.hostAQ = s.te.hostAQ := rfl
@[simp] theorem mapOp_te_hostBQ (s : State) (tag : Nat) (f : TargetOp → TargetOp) : (mapOp tag f s).te.hostBQ = s.te.hostBQ := rfl
@[simp] theorem mapOp_te_backQ (s : State) (tag : Nat) (f : TargetOp → TargetOp) : (mapOp tag f s).te.backQ = s.te.backQ := rfl
@[simp] theorem removeOp_te_link (s : State) (tag : Nat) : (removeOp tag s).te.link = s.te.link := rfl
@[simp] theorem removeOp_te_capacity (s : State) (tag : Nat) : (removeOp tag s).te.capacity = s.te.capacity := rfl
@[simp] theorem removeOp_te_resetWait (s : State) (tag : Nat) : (removeOp tag s).te.resetWait = s.te.resetWait := rfl
@[simp] theorem removeOp_te_resetDue (s : State) (tag : Nat) : (removeOp tag s).te.resetDue = s.te.resetDue := rfl
@[simp] theorem removeOp_te_relocs (s : State) (tag : Nat) : (removeOp tag s).te.relocs = s.te.relocs := rfl
@[simp] theorem removeOp_te_intervals (s : State) (tag : Nat) : (removeOp tag s).te.intervals = s.te.intervals := rfl
@[simp] theorem removeOp_te_hostPtr (s : State) (tag : Nat) : (removeOp tag s).te.hostPtr = s.te.hostPtr := rfl
@[simp] theorem removeOp_te_skip (s : State) (tag : Nat) : (removeOp tag s).te.skip = s.te.skip := rfl
@[simp] theorem removeOp_te_recoveryQ (s : State) (tag : Nat) : (removeOp tag s).te.recoveryQ = s.te.recoveryQ := rfl
@[simp] theorem removeOp_te_journalQ (s : State) (tag : Nat) : (removeOp tag s).te.journalQ = s.te.journalQ := rfl
@[simp] theorem removeOp_te_hostAQ (s : State) (tag : Nat) : (removeOp tag s).te.hostAQ = s.te.hostAQ := rfl
@[simp] theorem removeOp_te_hostBQ (s : State) (tag : Nat) : (removeOp tag s).te.hostBQ = s.te.hostBQ := rfl
@[simp] theorem removeOp_te_backQ (s : State) (tag : Nat) : (removeOp tag s).te.backQ = s.te.backQ := rfl
@[simp] theorem dropDeferred_adm_next (s : State) (c : CmdId) : (dropDeferred c s).adm.next = s.adm.next := rfl
@[simp] theorem dropDeferred_adm_pause (s : State) (c : CmdId) : (dropDeferred c s).adm.pause = s.adm.pause := rfl
@[simp] theorem dropDeferred_adm_order (s : State) (c : CmdId) : (dropDeferred c s).adm.order = s.adm.order := rfl
@[simp] theorem dropDeferred_adm_records (s : State) (c : CmdId) : (dropDeferred c s).adm.records = s.adm.records := rfl
@[simp] theorem dropDeferred_adm_queueA (s : State) (c : CmdId) : (dropDeferred c s).adm.queueA = s.adm.queueA := rfl
@[simp] theorem dropDeferred_adm_queueB (s : State) (c : CmdId) : (dropDeferred c s).adm.queueB = s.adm.queueB := rfl
@[simp] theorem clearUnavailable_map_hold (s : State) : (clearUnavailable s).map.hold = s.map.hold := rfl
@[simp] theorem clearUnavailable_map_layout (s : State) : (clearUnavailable s).map.layout = s.map.layout := rfl
@[simp] theorem clearUnavailable_map_active (s : State) : (clearUnavailable s).map.active = s.map.active := rfl
@[simp] theorem clearUnavailable_map_stage (s : State) : (clearUnavailable s).map.stage = s.map.stage := rfl
@[simp] theorem clearUnavailable_map_formatId (s : State) : (clearUnavailable s).map.formatId = s.map.formatId := rfl
@[simp] theorem clearUnavailable_map_anchorGen (s : State) : (clearUnavailable s).map.anchorGen = s.map.anchorGen := rfl
@[simp] theorem clearUnavailable_map_anchorCopy (s : State) : (clearUnavailable s).map.anchorCopy = s.map.anchorCopy := rfl
@[simp] theorem clearUnavailable_map_activation (s : State) : (clearUnavailable s).map.activation = s.map.activation := rfl

end Sys2Proof.Machine
end

