-- ==== Sys2Proof/Laws/Frames.lean ====
section
/-! SUPPORT. What the shared operations leave as it was: one lemma per operation, a rewriting rule for each field and part
of a unit that the operation does not change. -/

namespace Sys2Proof.Machine

/-- What one round of a fold gives, and composes, the whole fold gives. -/
theorem foldl_rel {α : Type} (R : State → State → Prop) (r : ∀ s, R s s) (tr : ∀ s t u, R s t → R t u → R s u)
    {f : State → α → State} (h : ∀ t x, R t (f t x)) (l : List α) (s : State) : R s (l.foldl f s) := by
  induction l generalizing s with
  | nil => exact r s
  | cons x xs ih => exact tr _ _ _ (h s x) (ih (f s x))

/-! ## Machine/Ops.lean -/

@[simp] theorem answer_frame (owed : Option Port) (res : Reply) (n1 : Nat) (n2 : Nat) (n3 : Nat) (n4 : Nat) (items : List (List Byte)) (s : State) :
    (answer owed res n1 n2 n3 n4 items s).map = s.map ∧
    (answer owed res n1 n2 n3 n4 items s).ov = s.ov ∧
    (answer owed res n1 n2 n3 n4 items s).adm = s.adm ∧
    (answer owed res n1 n2 n3 n4 items s).hpA = s.hpA ∧
    (answer owed res n1 n2 n3 n4 items s).hpB = s.hpB ∧
    (answer owed res n1 n2 n3 n4 items s).te = s.te ∧
    (answer owed res n1 n2 n3 n4 items s).pool = s.pool ∧
    (answer owed res n1 n2 n3 n4 items s).mrg = s.mrg ∧
    (answer owed res n1 n2 n3 n4 items s).jrn = s.jrn ∧
    (answer owed res n1 n2 n3 n4 items s).mnt = s.mnt ∧
    (answer owed res n1 n2 n3 n4 items s).outA = s.outA ∧
    (answer owed res n1 n2 n3 n4 items s).outB = s.outB ∧
    (answer owed res n1 n2 n3 n4 items s).outT = s.outT ∧
    (answer owed res n1 n2 n3 n4 items s).free = s.free ∧
    (answer owed res n1 n2 n3 n4 items s).pending = s.pending := by
  unfold answer
  (try dsimp only)
  repeat' split
  all_goals simp [*]

@[simp] theorem arrive_frame (a : Arrival) (s : State) :
    (arrive a s).map = s.map ∧
    (arrive a s).ov = s.ov ∧
    (arrive a s).hpA = s.hpA ∧
    (arrive a s).hpB = s.hpB ∧
    (arrive a s).te = s.te ∧
    (arrive a s).pool = s.pool ∧
    (arrive a s).mrg = s.mrg ∧
    (arrive a s).jrn = s.jrn ∧
    (arrive a s).mnt = s.mnt ∧
    (arrive a s).mgA = s.mgA ∧
    (arrive a s).mgB = s.mgB ∧
    (arrive a s).outA = s.outA ∧
    (arrive a s).outB = s.outB ∧
    (arrive a s).outT = s.outT ∧
    (arrive a s).free = s.free ∧
    (arrive a s).pending = s.pending := by
  unfold arrive
  (try dsimp only)
  repeat' split
  all_goals simp [*]

@[simp] theorem joinAll_frame (slots : List Nat) (s : State) :
    (joinAll slots s).map = s.map ∧
    (joinAll slots s).adm = s.adm ∧
    (joinAll slots s).hpA = s.hpA ∧
    (joinAll slots s).hpB = s.hpB ∧
    (joinAll slots s).te = s.te ∧
    (joinAll slots s).pool = s.pool ∧
    (joinAll slots s).mrg = s.mrg ∧
    (joinAll slots s).jrn = s.jrn ∧
    (joinAll slots s).mnt = s.mnt ∧
    (joinAll slots s).mgA = s.mgA ∧
    (joinAll slots s).mgB = s.mgB ∧
    (joinAll slots s).outA = s.outA ∧
    (joinAll slots s).outB = s.outB ∧
    (joinAll slots s).outT = s.outT ∧
    (joinAll slots s).free = s.free ∧
    (joinAll slots s).pending = s.pending ∧
    (joinAll slots s).ov.table = s.ov.table ∧
    (joinAll slots s).ov.retired = s.ov.retired ∧
    (joinAll slots s).ov.reservations = s.ov.reservations ∧
    (joinAll slots s).ov.slots = s.ov.slots ∧
    (joinAll slots s).ov.condemned = s.ov.condemned ∧
    (joinAll slots s).ov.pendingFree = s.ov.pendingFree := by
  have fold : ∀ {α : Type} {f : State → α → State} (_ : ∀ s x, (f s x).map = s.map ∧ (f s x).adm = s.adm ∧ (f s x).hpA = s.hpA ∧ (f s x).hpB = s.hpB ∧ (f s x).te = s.te ∧ (f s x).pool = s.pool ∧ (f s x).mrg = s.mrg ∧ (f s x).jrn = s.jrn ∧ (f s x).mnt = s.mnt ∧ (f s x).mgA = s.mgA ∧ (f s x).mgB = s.mgB ∧ (f s x).outA = s.outA ∧ (f s x).outB = s.outB ∧ (f s x).outT = s.outT ∧ (f s x).free = s.free ∧ (f s x).pending = s.pending ∧ (f s x).ov.table = s.ov.table ∧ (f s x).ov.retired = s.ov.retired ∧ (f s x).ov.reservations = s.ov.reservations ∧ (f s x).ov.slots = s.ov.slots ∧ (f s x).ov.condemned = s.ov.condemned ∧ (f s x).ov.pendingFree = s.ov.pendingFree) (l : List α) (s : State),
      (l.foldl f s).map = s.map ∧ (l.foldl f s).adm = s.adm ∧ (l.foldl f s).hpA = s.hpA ∧ (l.foldl f s).hpB = s.hpB ∧ (l.foldl f s).te = s.te ∧ (l.foldl f s).pool = s.pool ∧ (l.foldl f s).mrg = s.mrg ∧ (l.foldl f s).jrn = s.jrn ∧ (l.foldl f s).mnt = s.mnt ∧ (l.foldl f s).mgA = s.mgA ∧ (l.foldl f s).mgB = s.mgB ∧ (l.foldl f s).outA = s.outA ∧ (l.foldl f s).outB = s.outB ∧ (l.foldl f s).outT = s.outT ∧ (l.foldl f s).free = s.free ∧ (l.foldl f s).pending = s.pending ∧ (l.foldl f s).ov.table = s.ov.table ∧ (l.foldl f s).ov.retired = s.ov.retired ∧ (l.foldl f s).ov.reservations = s.ov.reservations ∧ (l.foldl f s).ov.slots = s.ov.slots ∧ (l.foldl f s).ov.condemned = s.ov.condemned ∧ (l.foldl f s).ov.pendingFree = s.ov.pendingFree :=
    fun h l s => foldl_rel (fun s t => t.map = s.map ∧ t.adm = s.adm ∧ t.hpA = s.hpA ∧ t.hpB = s.hpB ∧ t.te = s.te ∧ t.pool = s.pool ∧ t.mrg = s.mrg ∧ t.jrn = s.jrn ∧ t.mnt = s.mnt ∧ t.mgA = s.mgA ∧ t.mgB = s.mgB ∧ t.outA = s.outA ∧ t.outB = s.outB ∧ t.outT = s.outT ∧ t.free = s.free ∧ t.pending = s.pending ∧ t.ov.table = s.ov.table ∧ t.ov.retired = s.ov.retired ∧ t.ov.reservations = s.ov.reservations ∧ t.ov.slots = s.ov.slots ∧ t.ov.condemned = s.ov.condemned ∧ t.ov.pendingFree = s.ov.pendingFree) (by simp) (by simp_all) h l s
  unfold joinAll
  (try dsimp only)
  repeat' split
  all_goals first
    | (refine fold ?_ _ _
       intro s x
       repeat' split
       all_goals simp [*])
    | simp [*]

@[simp] theorem takeRing_frame (n : Nat) (s : State) :
    (takeRing n s).map = s.map ∧
    (takeRing n s).adm = s.adm ∧
    (takeRing n s).hpA = s.hpA ∧
    (takeRing n s).hpB = s.hpB ∧
    (takeRing n s).te = s.te ∧
    (takeRing n s).pool = s.pool ∧
    (takeRing n s).mrg = s.mrg ∧
    (takeRing n s).jrn = s.jrn ∧
    (takeRing n s).mnt = s.mnt ∧
    (takeRing n s).outA = s.outA ∧
    (takeRing n s).outB = s.outB ∧
    (takeRing n s).outT = s.outT ∧
    (takeRing n s).free = s.free ∧
    (takeRing n s).pending = s.pending ∧
    (takeRing n s).ov.table = s.ov.table ∧
    (takeRing n s).ov.retired = s.ov.retired ∧
    (takeRing n s).ov.reservations = s.ov.reservations ∧
    (takeRing n s).ov.slots = s.ov.slots ∧
    (takeRing n s).ov.condemned = s.ov.condemned ∧
    (takeRing n s).ov.pendingFree = s.ov.pendingFree := by
  unfold takeRing
  (try dsimp only)
  repeat' split
  all_goals simp [*]

/-! ## Machine/Overlay.lean -/

@[simp] theorem takeReservations_frame (c : CmdId) (grains : List Nat) (needed : List Nat) (s : State) :
    (takeReservations c grains needed s).map = s.map ∧
    (takeReservations c grains needed s).adm = s.adm ∧
    (takeReservations c grains needed s).hpA = s.hpA ∧
    (takeReservations c grains needed s).hpB = s.hpB ∧
    (takeReservations c grains needed s).te = s.te ∧
    (takeReservations c grains needed s).pool = s.pool ∧
    (takeReservations c grains needed s).mrg = s.mrg ∧
    (takeReservations c grains needed s).jrn = s.jrn ∧
    (takeReservations c grains needed s).mnt = s.mnt ∧
    (takeReservations c grains needed s).outA = s.outA ∧
    (takeReservations c grains needed s).outB = s.outB ∧
    (takeReservations c grains needed s).outT = s.outT ∧
    (takeReservations c grains needed s).free = s.free ∧
    (takeReservations c grains needed s).pending = s.pending ∧
    (takeReservations c grains needed s).ov.table = s.ov.table ∧
    (takeReservations c grains needed s).ov.retired = s.ov.retired ∧
    (takeReservations c grains needed s).ov.slots = s.ov.slots ∧
    (takeReservations c grains needed s).ov.condemned = s.ov.condemned ∧
    (takeReservations c grains needed s).ov.pendingFree = s.ov.pendingFree := by
  unfold takeReservations
  (try dsimp only)
  repeat' split
  all_goals simp [*]

@[simp] theorem endReservation_frame (g : Nat) (s : State) :
    (endReservation g s).map = s.map ∧
    (endReservation g s).adm = s.adm ∧
    (endReservation g s).hpA = s.hpA ∧
    (endReservation g s).hpB = s.hpB ∧
    (endReservation g s).te = s.te ∧
    (endReservation g s).pool = s.pool ∧
    (endReservation g s).mrg = s.mrg ∧
    (endReservation g s).jrn = s.jrn ∧
    (endReservation g s).mnt = s.mnt ∧
    (endReservation g s).mgA = s.mgA ∧
    (endReservation g s).mgB = s.mgB ∧
    (endReservation g s).outA = s.outA ∧
    (endReservation g s).outB = s.outB ∧
    (endReservation g s).outT = s.outT ∧
    (endReservation g s).free = s.free ∧
    (endReservation g s).pending = s.pending ∧
    (endReservation g s).ov.table = s.ov.table ∧
    (endReservation g s).ov.ring = s.ov.ring ∧
    (endReservation g s).ov.retired = s.ov.retired ∧
    (endReservation g s).ov.slots = s.ov.slots ∧
    (endReservation g s).ov.condemned = s.ov.condemned ∧
    (endReservation g s).ov.pendingFree = s.ov.pendingFree ∧
    (endReservation g s).ov.armed = s.ov.armed := by
  unfold endReservation
  (try dsimp only)
  repeat' split
  all_goals simp [*]

@[simp] theorem giveUp_frame (c : CmdId) (g : Nat) (s : State) :
    (giveUp c g s).map = s.map ∧
    (giveUp c g s).adm = s.adm ∧
    (giveUp c g s).hpA = s.hpA ∧
    (giveUp c g s).hpB = s.hpB ∧
    (giveUp c g s).te = s.te ∧
    (giveUp c g s).pool = s.pool ∧
    (giveUp c g s).mrg = s.mrg ∧
    (giveUp c g s).jrn = s.jrn ∧
    (giveUp c g s).mnt = s.mnt ∧
    (giveUp c g s).mgA = s.mgA ∧
    (giveUp c g s).mgB = s.mgB ∧
    (giveUp c g s).outA = s.outA ∧
    (giveUp c g s).outB = s.outB ∧
    (giveUp c g s).outT = s.outT ∧
    (giveUp c g s).free = s.free ∧
    (giveUp c g s).pending = s.pending ∧
    (giveUp c g s).ov.table = s.ov.table ∧
    (giveUp c g s).ov.retired = s.ov.retired ∧
    (giveUp c g s).ov.slots = s.ov.slots ∧
    (giveUp c g s).ov.condemned = s.ov.condemned ∧
    (giveUp c g s).ov.pendingFree = s.ov.pendingFree := by
  unfold giveUp
  (try dsimp only)
  repeat' split
  all_goals simp [*]

@[simp] theorem giveUpAll_frame (c : CmdId) (s : State) :
    (giveUpAll c s).map = s.map ∧
    (giveUpAll c s).adm = s.adm ∧
    (giveUpAll c s).hpA = s.hpA ∧
    (giveUpAll c s).hpB = s.hpB ∧
    (giveUpAll c s).te = s.te ∧
    (giveUpAll c s).pool = s.pool ∧
    (giveUpAll c s).mrg = s.mrg ∧
    (giveUpAll c s).jrn = s.jrn ∧
    (giveUpAll c s).mnt = s.mnt ∧
    (giveUpAll c s).mgA = s.mgA ∧
    (giveUpAll c s).mgB = s.mgB ∧
    (giveUpAll c s).outA = s.outA ∧
    (giveUpAll c s).outB = s.outB ∧
    (giveUpAll c s).outT = s.outT ∧
    (giveUpAll c s).free = s.free ∧
    (giveUpAll c s).pending = s.pending ∧
    (giveUpAll c s).ov.table = s.ov.table ∧
    (giveUpAll c s).ov.retired = s.ov.retired ∧
    (giveUpAll c s).ov.slots = s.ov.slots ∧
    (giveUpAll c s).ov.condemned = s.ov.condemned ∧
    (giveUpAll c s).ov.pendingFree = s.ov.pendingFree := by
  have fold : ∀ {α : Type} {f : State → α → State} (_ : ∀ s x, (f s x).map = s.map ∧ (f s x).adm = s.adm ∧ (f s x).hpA = s.hpA ∧ (f s x).hpB = s.hpB ∧ (f s x).te = s.te ∧ (f s x).pool = s.pool ∧ (f s x).mrg = s.mrg ∧ (f s x).jrn = s.jrn ∧ (f s x).mnt = s.mnt ∧ (f s x).mgA = s.mgA ∧ (f s x).mgB = s.mgB ∧ (f s x).outA = s.outA ∧ (f s x).outB = s.outB ∧ (f s x).outT = s.outT ∧ (f s x).free = s.free ∧ (f s x).pending = s.pending ∧ (f s x).ov.table = s.ov.table ∧ (f s x).ov.retired = s.ov.retired ∧ (f s x).ov.slots = s.ov.slots ∧ (f s x).ov.condemned = s.ov.condemned ∧ (f s x).ov.pendingFree = s.ov.pendingFree) (l : List α) (s : State),
      (l.foldl f s).map = s.map ∧ (l.foldl f s).adm = s.adm ∧ (l.foldl f s).hpA = s.hpA ∧ (l.foldl f s).hpB = s.hpB ∧ (l.foldl f s).te = s.te ∧ (l.foldl f s).pool = s.pool ∧ (l.foldl f s).mrg = s.mrg ∧ (l.foldl f s).jrn = s.jrn ∧ (l.foldl f s).mnt = s.mnt ∧ (l.foldl f s).mgA = s.mgA ∧ (l.foldl f s).mgB = s.mgB ∧ (l.foldl f s).outA = s.outA ∧ (l.foldl f s).outB = s.outB ∧ (l.foldl f s).outT = s.outT ∧ (l.foldl f s).free = s.free ∧ (l.foldl f s).pending = s.pending ∧ (l.foldl f s).ov.table = s.ov.table ∧ (l.foldl f s).ov.retired = s.ov.retired ∧ (l.foldl f s).ov.slots = s.ov.slots ∧ (l.foldl f s).ov.condemned = s.ov.condemned ∧ (l.foldl f s).ov.pendingFree = s.ov.pendingFree :=
    fun h l s => foldl_rel (fun s t => t.map = s.map ∧ t.adm = s.adm ∧ t.hpA = s.hpA ∧ t.hpB = s.hpB ∧ t.te = s.te ∧ t.pool = s.pool ∧ t.mrg = s.mrg ∧ t.jrn = s.jrn ∧ t.mnt = s.mnt ∧ t.mgA = s.mgA ∧ t.mgB = s.mgB ∧ t.outA = s.outA ∧ t.outB = s.outB ∧ t.outT = s.outT ∧ t.free = s.free ∧ t.pending = s.pending ∧ t.ov.table = s.ov.table ∧ t.ov.retired = s.ov.retired ∧ t.ov.slots = s.ov.slots ∧ t.ov.condemned = s.ov.condemned ∧ t.ov.pendingFree = s.ov.pendingFree) (by simp) (by simp_all) h l s
  unfold giveUpAll
  (try dsimp only)
  repeat' split
  all_goals first
    | (refine fold ?_ _ _
       intro s x
       repeat' split
       all_goals simp [*])
    | simp [*]

@[simp] theorem bindBlocks_frame (g : Nat) (region : Nat) (slot : Nat) (m : Mask) (s : State) :
    (bindBlocks g region slot m s).2.map = s.map ∧
    (bindBlocks g region slot m s).2.adm = s.adm ∧
    (bindBlocks g region slot m s).2.hpA = s.hpA ∧
    (bindBlocks g region slot m s).2.hpB = s.hpB ∧
    (bindBlocks g region slot m s).2.te = s.te ∧
    (bindBlocks g region slot m s).2.pool = s.pool ∧
    (bindBlocks g region slot m s).2.mrg = s.mrg ∧
    (bindBlocks g region slot m s).2.jrn = s.jrn ∧
    (bindBlocks g region slot m s).2.mnt = s.mnt ∧
    (bindBlocks g region slot m s).2.mgA = s.mgA ∧
    (bindBlocks g region slot m s).2.mgB = s.mgB ∧
    (bindBlocks g region slot m s).2.outA = s.outA ∧
    (bindBlocks g region slot m s).2.outB = s.outB ∧
    (bindBlocks g region slot m s).2.outT = s.outT ∧
    (bindBlocks g region slot m s).2.free = s.free ∧
    (bindBlocks g region slot m s).2.pending = s.pending ∧
    (bindBlocks g region slot m s).2.ov.ring = s.ov.ring ∧
    (bindBlocks g region slot m s).2.ov.retired = s.ov.retired ∧
    (bindBlocks g region slot m s).2.ov.slots = s.ov.slots ∧
    (bindBlocks g region slot m s).2.ov.condemned = s.ov.condemned ∧
    (bindBlocks g region slot m s).2.ov.pendingFree = s.ov.pendingFree ∧
    (bindBlocks g region slot m s).2.ov.armed = s.ov.armed := by
  unfold bindBlocks
  (try dsimp only)
  repeat' split
  all_goals simp [*]

@[simp] theorem markLost_frame (g : Nat) (m : Mask) (s : State) :
    (markLost g m s).2.map = s.map ∧
    (markLost g m s).2.adm = s.adm ∧
    (markLost g m s).2.hpA = s.hpA ∧
    (markLost g m s).2.hpB = s.hpB ∧
    (markLost g m s).2.te = s.te ∧
    (markLost g m s).2.pool = s.pool ∧
    (markLost g m s).2.mrg = s.mrg ∧
    (markLost g m s).2.jrn = s.jrn ∧
    (markLost g m s).2.mnt = s.mnt ∧
    (markLost g m s).2.mgA = s.mgA ∧
    (markLost g m s).2.mgB = s.mgB ∧
    (markLost g m s).2.outA = s.outA ∧
    (markLost g m s).2.outB = s.outB ∧
    (markLost g m s).2.outT = s.outT ∧
    (markLost g m s).2.free = s.free ∧
    (markLost g m s).2.pending = s.pending ∧
    (markLost g m s).2.ov.ring = s.ov.ring ∧
    (markLost g m s).2.ov.reservations = s.ov.reservations ∧
    (markLost g m s).2.ov.slots = s.ov.slots ∧
    (markLost g m s).2.ov.pendingFree = s.ov.pendingFree ∧
    (markLost g m s).2.ov.armed = s.ov.armed := by
  unfold markLost
  (try dsimp only)
  repeat' split
  all_goals simp [*]

@[simp] theorem releaseSlot_frame (slot : Nat) (record : Option Nat) (s : State) :
    (releaseSlot slot record s).map = s.map ∧
    (releaseSlot slot record s).adm = s.adm ∧
    (releaseSlot slot record s).hpA = s.hpA ∧
    (releaseSlot slot record s).hpB = s.hpB ∧
    (releaseSlot slot record s).te = s.te ∧
    (releaseSlot slot record s).pool = s.pool ∧
    (releaseSlot slot record s).mrg = s.mrg ∧
    (releaseSlot slot record s).jrn = s.jrn ∧
    (releaseSlot slot record s).mnt = s.mnt ∧
    (releaseSlot slot record s).mgA = s.mgA ∧
    (releaseSlot slot record s).mgB = s.mgB ∧
    (releaseSlot slot record s).outA = s.outA ∧
    (releaseSlot slot record s).outB = s.outB ∧
    (releaseSlot slot record s).outT = s.outT ∧
    (releaseSlot slot record s).free = s.free ∧
    (releaseSlot slot record s).pending = s.pending ∧
    (releaseSlot slot record s).ov.table = s.ov.table ∧
    (releaseSlot slot record s).ov.retired = s.ov.retired ∧
    (releaseSlot slot record s).ov.reservations = s.ov.reservations ∧
    (releaseSlot slot record s).ov.slots = s.ov.slots ∧
    (releaseSlot slot record s).ov.condemned = s.ov.condemned := by
  unfold releaseSlot
  (try dsimp only)
  repeat' split
  all_goals simp [*]

@[simp] theorem freePending_frame (durable : Nat → Bool) (s : State) :
    (freePending durable s).map = s.map ∧
    (freePending durable s).adm = s.adm ∧
    (freePending durable s).hpA = s.hpA ∧
    (freePending durable s).hpB = s.hpB ∧
    (freePending durable s).te = s.te ∧
    (freePending durable s).pool = s.pool ∧
    (freePending durable s).mrg = s.mrg ∧
    (freePending durable s).jrn = s.jrn ∧
    (freePending durable s).mnt = s.mnt ∧
    (freePending durable s).mgA = s.mgA ∧
    (freePending durable s).mgB = s.mgB ∧
    (freePending durable s).outA = s.outA ∧
    (freePending durable s).outB = s.outB ∧
    (freePending durable s).outT = s.outT ∧
    (freePending durable s).free = s.free ∧
    (freePending durable s).pending = s.pending ∧
    (freePending durable s).ov.table = s.ov.table ∧
    (freePending durable s).ov.retired = s.ov.retired ∧
    (freePending durable s).ov.reservations = s.ov.reservations ∧
    (freePending durable s).ov.slots = s.ov.slots ∧
    (freePending durable s).ov.condemned = s.ov.condemned := by
  unfold freePending
  (try dsimp only)
  repeat' split
  all_goals simp [*]

/-! ## Machine/Journal.lean -/

@[simp] theorem nameRecords_frame (bodies : List RecordBody) (s : State) :
    (nameRecords bodies s).2.map = s.map ∧
    (nameRecords bodies s).2.ov = s.ov ∧
    (nameRecords bodies s).2.adm = s.adm ∧
    (nameRecords bodies s).2.hpA = s.hpA ∧
    (nameRecords bodies s).2.hpB = s.hpB ∧
    (nameRecords bodies s).2.te = s.te ∧
    (nameRecords bodies s).2.pool = s.pool ∧
    (nameRecords bodies s).2.mrg = s.mrg ∧
    (nameRecords bodies s).2.mnt = s.mnt ∧
    (nameRecords bodies s).2.mgA = s.mgA ∧
    (nameRecords bodies s).2.mgB = s.mgB ∧
    (nameRecords bodies s).2.outA = s.outA ∧
    (nameRecords bodies s).2.outB = s.outB ∧
    (nameRecords bodies s).2.outT = s.outT ∧
    (nameRecords bodies s).2.free = s.free ∧
    (nameRecords bodies s).2.pending = s.pending ∧
    (nameRecords bodies s).2.jrn.cond = s.jrn.cond ∧
    (nameRecords bodies s).2.jrn.waiting = s.jrn.waiting ∧
    (nameRecords bodies s).2.jrn.run = s.jrn.run ∧
    (nameRecords bodies s).2.jrn.openBuf = s.jrn.openBuf ∧
    (nameRecords bodies s).2.jrn.inFlight = s.jrn.inFlight ∧
    (nameRecords bodies s).2.jrn.qNext = s.jrn.qNext ∧
    (nameRecords bodies s).2.jrn.sCk = s.jrn.sCk ∧
    (nameRecords bodies s).2.jrn.newest = s.jrn.newest ∧
    (nameRecords bodies s).2.jrn.newestGen = s.jrn.newestGen ∧
    (nameRecords bodies s).2.jrn.fates = s.jrn.fates ∧
    (nameRecords bodies s).2.jrn.waiters = s.jrn.waiters ∧
    (nameRecords bodies s).2.jrn.nextRun = s.jrn.nextRun := by
  unfold nameRecords
  (try dsimp only)
  repeat' split
  all_goals simp [*]

@[simp] theorem claimBody_frame (s : State) :
    (claimBody s).map = s.map ∧
    (claimBody s).ov = s.ov ∧
    (claimBody s).adm = s.adm ∧
    (claimBody s).hpA = s.hpA ∧
    (claimBody s).hpB = s.hpB ∧
    (claimBody s).te = s.te ∧
    (claimBody s).mrg = s.mrg ∧
    (claimBody s).mnt = s.mnt ∧
    (claimBody s).mgA = s.mgA ∧
    (claimBody s).mgB = s.mgB ∧
    (claimBody s).outA = s.outA ∧
    (claimBody s).outB = s.outB ∧
    (claimBody s).outT = s.outT ∧
    (claimBody s).free = s.free ∧
    (claimBody s).pending = s.pending ∧
    (claimBody s).jrn.cond = s.jrn.cond ∧
    (claimBody s).jrn.waiting = s.jrn.waiting ∧
    (claimBody s).jrn.openBuf = s.jrn.openBuf ∧
    (claimBody s).jrn.inFlight = s.jrn.inFlight ∧
    (claimBody s).jrn.qNext = s.jrn.qNext ∧
    (claimBody s).jrn.sCk = s.jrn.sCk ∧
    (claimBody s).jrn.newest = s.jrn.newest ∧
    (claimBody s).jrn.newestGen = s.jrn.newestGen ∧
    (claimBody s).jrn.fates = s.jrn.fates ∧
    (claimBody s).jrn.waiters = s.jrn.waiters ∧
    (claimBody s).jrn.nextId = s.jrn.nextId ∧
    (claimBody s).jrn.nextRun = s.jrn.nextRun ∧
    (claimBody s).pool.chargeA = s.pool.chargeA ∧
    (claimBody s).pool.chargeB = s.pool.chargeB ∧
    (claimBody s).pool.chargeI = s.pool.chargeI ∧
    (claimBody s).pool.claimsA = s.pool.claimsA ∧
    (claimBody s).pool.claimsB = s.pool.claimsB := by
  unfold claimBody
  (try dsimp only)
  repeat' split
  all_goals simp [*, BufferPool.setClaims, BufferPool.setCharge, BufferPool.charge, BufferPool.claims]

@[simp] theorem startRun_frame (origin : CkOrigin) (owed : Option Port) (s : State) :
    (startRun origin owed s).map = s.map ∧
    (startRun origin owed s).ov = s.ov ∧
    (startRun origin owed s).adm = s.adm ∧
    (startRun origin owed s).hpA = s.hpA ∧
    (startRun origin owed s).hpB = s.hpB ∧
    (startRun origin owed s).te = s.te ∧
    (startRun origin owed s).mrg = s.mrg ∧
    (startRun origin owed s).mnt = s.mnt ∧
    (startRun origin owed s).mgA = s.mgA ∧
    (startRun origin owed s).mgB = s.mgB ∧
    (startRun origin owed s).outA = s.outA ∧
    (startRun origin owed s).outB = s.outB ∧
    (startRun origin owed s).outT = s.outT ∧
    (startRun origin owed s).free = s.free ∧
    (startRun origin owed s).pending = s.pending ∧
    (startRun origin owed s).jrn.cond = s.jrn.cond ∧
    (startRun origin owed s).jrn.waiting = s.jrn.waiting ∧
    (startRun origin owed s).jrn.openBuf = s.jrn.openBuf ∧
    (startRun origin owed s).jrn.inFlight = s.jrn.inFlight ∧
    (startRun origin owed s).jrn.qNext = s.jrn.qNext ∧
    (startRun origin owed s).jrn.sCk = s.jrn.sCk ∧
    (startRun origin owed s).jrn.newest = s.jrn.newest ∧
    (startRun origin owed s).jrn.newestGen = s.jrn.newestGen ∧
    (startRun origin owed s).jrn.fates = s.jrn.fates ∧
    (startRun origin owed s).jrn.waiters = s.jrn.waiters ∧
    (startRun origin owed s).jrn.nextId = s.jrn.nextId ∧
    (startRun origin owed s).pool.chargeA = s.pool.chargeA ∧
    (startRun origin owed s).pool.chargeB = s.pool.chargeB ∧
    (startRun origin owed s).pool.chargeI = s.pool.chargeI ∧
    (startRun origin owed s).pool.claimsA = s.pool.claimsA ∧
    (startRun origin owed s).pool.claimsB = s.pool.claimsB := by
  unfold startRun
  (try dsimp only)
  repeat' split
  all_goals simp [*]

@[simp] theorem autoCheckpoint_frame (s : State) :
    (autoCheckpoint s).map = s.map ∧
    (autoCheckpoint s).ov = s.ov ∧
    (autoCheckpoint s).adm = s.adm ∧
    (autoCheckpoint s).hpA = s.hpA ∧
    (autoCheckpoint s).hpB = s.hpB ∧
    (autoCheckpoint s).te = s.te ∧
    (autoCheckpoint s).mrg = s.mrg ∧
    (autoCheckpoint s).mnt = s.mnt ∧
    (autoCheckpoint s).mgA = s.mgA ∧
    (autoCheckpoint s).mgB = s.mgB ∧
    (autoCheckpoint s).outA = s.outA ∧
    (autoCheckpoint s).outB = s.outB ∧
    (autoCheckpoint s).outT = s.outT ∧
    (autoCheckpoint s).free = s.free ∧
    (autoCheckpoint s).pending = s.pending ∧
    (autoCheckpoint s).jrn.cond = s.jrn.cond ∧
    (autoCheckpoint s).jrn.waiting = s.jrn.waiting ∧
    (autoCheckpoint s).jrn.openBuf = s.jrn.openBuf ∧
    (autoCheckpoint s).jrn.inFlight = s.jrn.inFlight ∧
    (autoCheckpoint s).jrn.qNext = s.jrn.qNext ∧
    (autoCheckpoint s).jrn.sCk = s.jrn.sCk ∧
    (autoCheckpoint s).jrn.newest = s.jrn.newest ∧
    (autoCheckpoint s).jrn.newestGen = s.jrn.newestGen ∧
    (autoCheckpoint s).jrn.fates = s.jrn.fates ∧
    (autoCheckpoint s).jrn.waiters = s.jrn.waiters ∧
    (autoCheckpoint s).jrn.nextId = s.jrn.nextId ∧
    (autoCheckpoint s).pool.chargeA = s.pool.chargeA ∧
    (autoCheckpoint s).pool.chargeB = s.pool.chargeB ∧
    (autoCheckpoint s).pool.chargeI = s.pool.chargeI ∧
    (autoCheckpoint s).pool.claimsA = s.pool.claimsA ∧
    (autoCheckpoint s).pool.claimsB = s.pool.claimsB := by
  unfold autoCheckpoint
  (try dsimp only)
  repeat' split
  all_goals simp [*]

@[simp] theorem closeBlock_frame (s : State) :
    (closeBlock s).map = s.map ∧
    (closeBlock s).ov = s.ov ∧
    (closeBlock s).adm = s.adm ∧
    (closeBlock s).hpA = s.hpA ∧
    (closeBlock s).hpB = s.hpB ∧
    (closeBlock s).mrg = s.mrg ∧
    (closeBlock s).mnt = s.mnt ∧
    (closeBlock s).mgA = s.mgA ∧
    (closeBlock s).mgB = s.mgB ∧
    (closeBlock s).outA = s.outA ∧
    (closeBlock s).outB = s.outB ∧
    (closeBlock s).outT = s.outT ∧
    (closeBlock s).free = s.free ∧
    (closeBlock s).pending = s.pending ∧
    (closeBlock s).pool.chargeA = s.pool.chargeA ∧
    (closeBlock s).pool.chargeB = s.pool.chargeB ∧
    (closeBlock s).pool.chargeI = s.pool.chargeI ∧
    (closeBlock s).pool.claimsA = s.pool.claimsA ∧
    (closeBlock s).pool.claimsB = s.pool.claimsB := by
  unfold closeBlock
  (try dsimp only)
  repeat' split
  all_goals simp [*]

@[simp] theorem takeRecords_frame (recs : List JRecord) (s : State) :
    (takeRecords recs s).map = s.map ∧
    (takeRecords recs s).ov = s.ov ∧
    (takeRecords recs s).adm = s.adm ∧
    (takeRecords recs s).hpA = s.hpA ∧
    (takeRecords recs s).hpB = s.hpB ∧
    (takeRecords recs s).te = s.te ∧
    (takeRecords recs s).pool = s.pool ∧
    (takeRecords recs s).mrg = s.mrg ∧
    (takeRecords recs s).mnt = s.mnt ∧
    (takeRecords recs s).mgA = s.mgA ∧
    (takeRecords recs s).mgB = s.mgB ∧
    (takeRecords recs s).outA = s.outA ∧
    (takeRecords recs s).outB = s.outB ∧
    (takeRecords recs s).outT = s.outT ∧
    (takeRecords recs s).free = s.free ∧
    (takeRecords recs s).pending = s.pending ∧
    (takeRecords recs s).jrn.cond = s.jrn.cond ∧
    (takeRecords recs s).jrn.waiting = s.jrn.waiting ∧
    (takeRecords recs s).jrn.run = s.jrn.run ∧
    (takeRecords recs s).jrn.inFlight = s.jrn.inFlight ∧
    (takeRecords recs s).jrn.qNext = s.jrn.qNext ∧
    (takeRecords recs s).jrn.sCk = s.jrn.sCk ∧
    (takeRecords recs s).jrn.newest = s.jrn.newest ∧
    (takeRecords recs s).jrn.newestGen = s.jrn.newestGen ∧
    (takeRecords recs s).jrn.waiters = s.jrn.waiters ∧
    (takeRecords recs s).jrn.nextId = s.jrn.nextId ∧
    (takeRecords recs s).jrn.nextRun = s.jrn.nextRun := by
  unfold takeRecords
  (try dsimp only)
  repeat' split
  all_goals simp [*]

@[simp] theorem markMissed_frame (s : State) :
    (markMissed s).map = s.map ∧
    (markMissed s).ov = s.ov ∧
    (markMissed s).adm = s.adm ∧
    (markMissed s).hpA = s.hpA ∧
    (markMissed s).hpB = s.hpB ∧
    (markMissed s).te = s.te ∧
    (markMissed s).pool = s.pool ∧
    (markMissed s).mrg = s.mrg ∧
    (markMissed s).mnt = s.mnt ∧
    (markMissed s).mgA = s.mgA ∧
    (markMissed s).mgB = s.mgB ∧
    (markMissed s).outA = s.outA ∧
    (markMissed s).outB = s.outB ∧
    (markMissed s).outT = s.outT ∧
    (markMissed s).free = s.free ∧
    (markMissed s).pending = s.pending ∧
    (markMissed s).jrn.cond = s.jrn.cond ∧
    (markMissed s).jrn.waiting = s.jrn.waiting ∧
    (markMissed s).jrn.openBuf = s.jrn.openBuf ∧
    (markMissed s).jrn.inFlight = s.jrn.inFlight ∧
    (markMissed s).jrn.qNext = s.jrn.qNext ∧
    (markMissed s).jrn.sCk = s.jrn.sCk ∧
    (markMissed s).jrn.newest = s.jrn.newest ∧
    (markMissed s).jrn.newestGen = s.jrn.newestGen ∧
    (markMissed s).jrn.fates = s.jrn.fates ∧
    (markMissed s).jrn.waiters = s.jrn.waiters ∧
    (markMissed s).jrn.nextId = s.jrn.nextId ∧
    (markMissed s).jrn.nextRun = s.jrn.nextRun := by
  unfold markMissed
  (try dsimp only)
  repeat' split
  all_goals simp [*]

@[simp] theorem dropRecords_frame (recs : List JRecord) (s : State) :
    (dropRecords recs s).map = s.map ∧
    (dropRecords recs s).ov = s.ov ∧
    (dropRecords recs s).adm = s.adm ∧
    (dropRecords recs s).hpA = s.hpA ∧
    (dropRecords recs s).hpB = s.hpB ∧
    (dropRecords recs s).te = s.te ∧
    (dropRecords recs s).pool = s.pool ∧
    (dropRecords recs s).mrg = s.mrg ∧
    (dropRecords recs s).mnt = s.mnt ∧
    (dropRecords recs s).mgA = s.mgA ∧
    (dropRecords recs s).mgB = s.mgB ∧
    (dropRecords recs s).outA = s.outA ∧
    (dropRecords recs s).outB = s.outB ∧
    (dropRecords recs s).outT = s.outT ∧
    (dropRecords recs s).free = s.free ∧
    (dropRecords recs s).pending = s.pending ∧
    (dropRecords recs s).jrn.cond = s.jrn.cond ∧
    (dropRecords recs s).jrn.waiting = s.jrn.waiting ∧
    (dropRecords recs s).jrn.openBuf = s.jrn.openBuf ∧
    (dropRecords recs s).jrn.inFlight = s.jrn.inFlight ∧
    (dropRecords recs s).jrn.qNext = s.jrn.qNext ∧
    (dropRecords recs s).jrn.sCk = s.jrn.sCk ∧
    (dropRecords recs s).jrn.newest = s.jrn.newest ∧
    (dropRecords recs s).jrn.newestGen = s.jrn.newestGen ∧
    (dropRecords recs s).jrn.waiters = s.jrn.waiters ∧
    (dropRecords recs s).jrn.nextId = s.jrn.nextId ∧
    (dropRecords recs s).jrn.nextRun = s.jrn.nextRun := by
  unfold dropRecords
  (try dsimp only)
  repeat' split
  all_goals simp [*]

@[simp] theorem takePart_frame (recs : List JRecord) (s : State) :
    (takePart recs s).2.map = s.map ∧
    (takePart recs s).2.ov = s.ov ∧
    (takePart recs s).2.adm = s.adm ∧
    (takePart recs s).2.hpA = s.hpA ∧
    (takePart recs s).2.hpB = s.hpB ∧
    (takePart recs s).2.mrg = s.mrg ∧
    (takePart recs s).2.mnt = s.mnt ∧
    (takePart recs s).2.mgA = s.mgA ∧
    (takePart recs s).2.mgB = s.mgB ∧
    (takePart recs s).2.outA = s.outA ∧
    (takePart recs s).2.outB = s.outB ∧
    (takePart recs s).2.outT = s.outT ∧
    (takePart recs s).2.free = s.free ∧
    (takePart recs s).2.pending = s.pending ∧
    (takePart recs s).2.pool.chargeA = s.pool.chargeA ∧
    (takePart recs s).2.pool.chargeB = s.pool.chargeB ∧
    (takePart recs s).2.pool.chargeI = s.pool.chargeI ∧
    (takePart recs s).2.pool.claimsA = s.pool.claimsA ∧
    (takePart recs s).2.pool.claimsB = s.pool.claimsB := by
  unfold takePart
  (try dsimp only)
  repeat' split
  all_goals simp [*]

@[simp] theorem takeParts_frame (x0 : Nat) (x1 : List JRecord) (s : State) :
    (takeParts x0 x1 s).2.map = s.map ∧
    (takeParts x0 x1 s).2.ov = s.ov ∧
    (takeParts x0 x1 s).2.adm = s.adm ∧
    (takeParts x0 x1 s).2.hpA = s.hpA ∧
    (takeParts x0 x1 s).2.hpB = s.hpB ∧
    (takeParts x0 x1 s).2.mrg = s.mrg ∧
    (takeParts x0 x1 s).2.mnt = s.mnt ∧
    (takeParts x0 x1 s).2.mgA = s.mgA ∧
    (takeParts x0 x1 s).2.mgB = s.mgB ∧
    (takeParts x0 x1 s).2.outA = s.outA ∧
    (takeParts x0 x1 s).2.outB = s.outB ∧
    (takeParts x0 x1 s).2.outT = s.outT ∧
    (takeParts x0 x1 s).2.free = s.free ∧
    (takeParts x0 x1 s).2.pending = s.pending ∧
    (takeParts x0 x1 s).2.pool.chargeA = s.pool.chargeA ∧
    (takeParts x0 x1 s).2.pool.chargeB = s.pool.chargeB ∧
    (takeParts x0 x1 s).2.pool.chargeI = s.pool.chargeI ∧
    (takeParts x0 x1 s).2.pool.claimsA = s.pool.claimsA ∧
    (takeParts x0 x1 s).2.pool.claimsB = s.pool.claimsB := by
  induction x0 generalizing x1 s with
  | zero => simp [takeParts]
  | succ n ih =>
    unfold takeParts
    (try dsimp only)
    repeat' split
    all_goals simp [*]

@[simp] theorem handOff_frame (by' : Producer) (recs : List JRecord) (s : State) :
    (handOff by' recs s).2.map = s.map ∧
    (handOff by' recs s).2.ov = s.ov ∧
    (handOff by' recs s).2.adm = s.adm ∧
    (handOff by' recs s).2.hpA = s.hpA ∧
    (handOff by' recs s).2.hpB = s.hpB ∧
    (handOff by' recs s).2.mrg = s.mrg ∧
    (handOff by' recs s).2.mnt = s.mnt ∧
    (handOff by' recs s).2.mgA = s.mgA ∧
    (handOff by' recs s).2.mgB = s.mgB ∧
    (handOff by' recs s).2.outA = s.outA ∧
    (handOff by' recs s).2.outB = s.outB ∧
    (handOff by' recs s).2.outT = s.outT ∧
    (handOff by' recs s).2.free = s.free ∧
    (handOff by' recs s).2.pending = s.pending ∧
    (handOff by' recs s).2.pool.chargeA = s.pool.chargeA ∧
    (handOff by' recs s).2.pool.chargeB = s.pool.chargeB ∧
    (handOff by' recs s).2.pool.chargeI = s.pool.chargeI ∧
    (handOff by' recs s).2.pool.claimsA = s.pool.claimsA ∧
    (handOff by' recs s).2.pool.claimsB = s.pool.claimsB := by
  unfold handOff
  (try dsimp only)
  repeat' split
  all_goals simp [*]

@[simp] theorem orphanHandOffs_frame (by' : Producer) (s : State) :
    (orphanHandOffs by' s).map = s.map ∧
    (orphanHandOffs by' s).ov = s.ov ∧
    (orphanHandOffs by' s).adm = s.adm ∧
    (orphanHandOffs by' s).hpA = s.hpA ∧
    (orphanHandOffs by' s).hpB = s.hpB ∧
    (orphanHandOffs by' s).te = s.te ∧
    (orphanHandOffs by' s).pool = s.pool ∧
    (orphanHandOffs by' s).mrg = s.mrg ∧
    (orphanHandOffs by' s).mnt = s.mnt ∧
    (orphanHandOffs by' s).mgA = s.mgA ∧
    (orphanHandOffs by' s).mgB = s.mgB ∧
    (orphanHandOffs by' s).outA = s.outA ∧
    (orphanHandOffs by' s).outB = s.outB ∧
    (orphanHandOffs by' s).outT = s.outT ∧
    (orphanHandOffs by' s).free = s.free ∧
    (orphanHandOffs by' s).pending = s.pending ∧
    (orphanHandOffs by' s).jrn.cond = s.jrn.cond ∧
    (orphanHandOffs by' s).jrn.run = s.jrn.run ∧
    (orphanHandOffs by' s).jrn.openBuf = s.jrn.openBuf ∧
    (orphanHandOffs by' s).jrn.inFlight = s.jrn.inFlight ∧
    (orphanHandOffs by' s).jrn.qNext = s.jrn.qNext ∧
    (orphanHandOffs by' s).jrn.sCk = s.jrn.sCk ∧
    (orphanHandOffs by' s).jrn.newest = s.jrn.newest ∧
    (orphanHandOffs by' s).jrn.newestGen = s.jrn.newestGen ∧
    (orphanHandOffs by' s).jrn.fates = s.jrn.fates ∧
    (orphanHandOffs by' s).jrn.waiters = s.jrn.waiters ∧
    (orphanHandOffs by' s).jrn.nextId = s.jrn.nextId ∧
    (orphanHandOffs by' s).jrn.nextRun = s.jrn.nextRun := by
  unfold orphanHandOffs
  (try dsimp only)
  repeat' split
  all_goals simp [*]

/-! ## Machine/Records.lean -/

@[simp] theorem countDown_frame (s : State) :
    (countDown s).ov = s.ov ∧
    (countDown s).adm = s.adm ∧
    (countDown s).hpA = s.hpA ∧
    (countDown s).hpB = s.hpB ∧
    (countDown s).te = s.te ∧
    (countDown s).pool = s.pool ∧
    (countDown s).mrg = s.mrg ∧
    (countDown s).jrn = s.jrn ∧
    (countDown s).mnt = s.mnt ∧
    (countDown s).mgA = s.mgA ∧
    (countDown s).mgB = s.mgB ∧
    (countDown s).outA = s.outA ∧
    (countDown s).outB = s.outB ∧
    (countDown s).outT = s.outT ∧
    (countDown s).free = s.free ∧
    (countDown s).pending = s.pending ∧
    (countDown s).map.hold = s.map.hold ∧
    (countDown s).map.layout = s.map.layout ∧
    (countDown s).map.active = s.map.active ∧
    (countDown s).map.stage = s.map.stage ∧
    (countDown s).map.formatId = s.map.formatId ∧
    (countDown s).map.anchorGen = s.map.anchorGen ∧
    (countDown s).map.anchorCopy = s.map.anchorCopy ∧
    (countDown s).map.unavailable = s.map.unavailable := by
  unfold countDown
  (try dsimp only)
  repeat' split
  all_goals simp [*]

@[simp] theorem removeRecord_frame (c : CmdId) (s : State) :
    (removeRecord c s).map = s.map ∧
    (removeRecord c s).ov = s.ov ∧
    (removeRecord c s).hpA = s.hpA ∧
    (removeRecord c s).hpB = s.hpB ∧
    (removeRecord c s).te = s.te ∧
    (removeRecord c s).pool = s.pool ∧
    (removeRecord c s).mrg = s.mrg ∧
    (removeRecord c s).mnt = s.mnt ∧
    (removeRecord c s).mgA = s.mgA ∧
    (removeRecord c s).mgB = s.mgB ∧
    (removeRecord c s).outA = s.outA ∧
    (removeRecord c s).outB = s.outB ∧
    (removeRecord c s).outT = s.outT ∧
    (removeRecord c s).free = s.free ∧
    (removeRecord c s).pending = s.pending ∧
    (removeRecord c s).adm.next = s.adm.next ∧
    (removeRecord c s).adm.pause = s.adm.pause ∧
    (removeRecord c s).adm.deferred = s.adm.deferred ∧
    (removeRecord c s).jrn.cond = s.jrn.cond ∧
    (removeRecord c s).jrn.waiting = s.jrn.waiting ∧
    (removeRecord c s).jrn.run = s.jrn.run ∧
    (removeRecord c s).jrn.openBuf = s.jrn.openBuf ∧
    (removeRecord c s).jrn.inFlight = s.jrn.inFlight ∧
    (removeRecord c s).jrn.qNext = s.jrn.qNext ∧
    (removeRecord c s).jrn.sCk = s.jrn.sCk ∧
    (removeRecord c s).jrn.newest = s.jrn.newest ∧
    (removeRecord c s).jrn.newestGen = s.jrn.newestGen ∧
    (removeRecord c s).jrn.fates = s.jrn.fates ∧
    (removeRecord c s).jrn.nextId = s.jrn.nextId ∧
    (removeRecord c s).jrn.nextRun = s.jrn.nextRun := by
  unfold removeRecord
  (try dsimp only)
  repeat' split
  all_goals simp [*]

@[simp] theorem undepend_frame (c : CmdId) (s : State) :
    (undepend c s).map = s.map ∧
    (undepend c s).ov = s.ov ∧
    (undepend c s).adm = s.adm ∧
    (undepend c s).hpA = s.hpA ∧
    (undepend c s).hpB = s.hpB ∧
    (undepend c s).pool = s.pool ∧
    (undepend c s).mrg = s.mrg ∧
    (undepend c s).jrn = s.jrn ∧
    (undepend c s).mnt = s.mnt ∧
    (undepend c s).mgA = s.mgA ∧
    (undepend c s).mgB = s.mgB ∧
    (undepend c s).outA = s.outA ∧
    (undepend c s).outB = s.outB ∧
    (undepend c s).outT = s.outT ∧
    (undepend c s).free = s.free ∧
    (undepend c s).pending = s.pending ∧
    (undepend c s).te.link = s.te.link ∧
    (undepend c s).te.capacity = s.te.capacity ∧
    (undepend c s).te.resetWait = s.te.resetWait ∧
    (undepend c s).te.resetDue = s.te.resetDue ∧
    (undepend c s).te.ops = s.te.ops ∧
    (undepend c s).te.intervals = s.te.intervals ∧
    (undepend c s).te.hostPtr = s.te.hostPtr ∧
    (undepend c s).te.skip = s.te.skip ∧
    (undepend c s).te.recoveryQ = s.te.recoveryQ ∧
    (undepend c s).te.journalQ = s.te.journalQ ∧
    (undepend c s).te.hostAQ = s.te.hostAQ ∧
    (undepend c s).te.hostBQ = s.te.hostBQ ∧
    (undepend c s).te.backQ = s.te.backQ := by
  unfold undepend
  (try dsimp only)
  repeat' split
  all_goals simp [*]

@[simp] theorem dropDeferred_frame (c : CmdId) (s : State) :
    (dropDeferred c s).te.link = s.te.link ∧
    (dropDeferred c s).te.capacity = s.te.capacity ∧
    (dropDeferred c s).te.resetWait = s.te.resetWait ∧
    (dropDeferred c s).te.resetDue = s.te.resetDue ∧
    (dropDeferred c s).te.ops = s.te.ops ∧
    (dropDeferred c s).te.relocs = s.te.relocs ∧
    (dropDeferred c s).te.intervals = s.te.intervals ∧
    (dropDeferred c s).te.hostPtr = s.te.hostPtr ∧
    (dropDeferred c s).te.skip = s.te.skip ∧
    (dropDeferred c s).te.recoveryQ = s.te.recoveryQ ∧
    (dropDeferred c s).te.journalQ = s.te.journalQ ∧
    (dropDeferred c s).te.hostAQ = s.te.hostAQ ∧
    (dropDeferred c s).te.hostBQ = s.te.hostBQ ∧
    (dropDeferred c s).te.backQ = s.te.backQ ∧
    (dropDeferred c s).map.hold = s.map.hold ∧
    (dropDeferred c s).map.layout = s.map.layout ∧
    (dropDeferred c s).map.active = s.map.active ∧
    (dropDeferred c s).map.stage = s.map.stage ∧
    (dropDeferred c s).map.formatId = s.map.formatId ∧
    (dropDeferred c s).map.anchorGen = s.map.anchorGen ∧
    (dropDeferred c s).map.anchorCopy = s.map.anchorCopy ∧
    (dropDeferred c s).map.activation = s.map.activation ∧
    (dropDeferred c s).map.unavailable = s.map.unavailable ∧
    (dropDeferred c s).mnt.dev = s.mnt.dev ∧
    (dropDeferred c s).mnt.stage = s.mnt.stage ∧
    (dropDeferred c s).mnt.holding = s.mnt.holding ∧
    (dropDeferred c s).mnt.format = s.mnt.format ∧
    (dropDeferred c s).ov.table = s.ov.table ∧
    (dropDeferred c s).ov.ring = s.ov.ring ∧
    (dropDeferred c s).ov.retired = s.ov.retired ∧
    (dropDeferred c s).ov.reservations = s.ov.reservations ∧
    (dropDeferred c s).ov.slots = s.ov.slots ∧
    (dropDeferred c s).ov.condemned = s.ov.condemned ∧
    (dropDeferred c s).ov.pendingFree = s.ov.pendingFree ∧
    (dropDeferred c s).ov.armed = s.ov.armed ∧
    (dropDeferred c s).mrg.state = s.mrg.state ∧
    (dropDeferred c s).mrg.discard = s.mrg.discard ∧
    (dropDeferred c s).mrg.grain = s.mrg.grain ∧
    (dropDeferred c s).mrg.cursor = s.mrg.cursor ∧
    (dropDeferred c s).mrg.haltOwed = s.mrg.haltOwed ∧
    (dropDeferred c s).mrg.selection = s.mrg.selection ∧
    (dropDeferred c s).mrg.all = s.mrg.all ∧
    (dropDeferred c s).jrn.cond = s.jrn.cond ∧
    (dropDeferred c s).jrn.waiting = s.jrn.waiting ∧
    (dropDeferred c s).jrn.run = s.jrn.run ∧
    (dropDeferred c s).jrn.openBuf = s.jrn.openBuf ∧
    (dropDeferred c s).jrn.inFlight = s.jrn.inFlight ∧
    (dropDeferred c s).jrn.qNext = s.jrn.qNext ∧
    (dropDeferred c s).jrn.sCk = s.jrn.sCk ∧
    (dropDeferred c s).jrn.newest = s.jrn.newest ∧
    (dropDeferred c s).jrn.newestGen = s.jrn.newestGen ∧
    (dropDeferred c s).jrn.fates = s.jrn.fates ∧
    (dropDeferred c s).jrn.waiters = s.jrn.waiters ∧
    (dropDeferred c s).jrn.nextId = s.jrn.nextId ∧
    (dropDeferred c s).jrn.nextRun = s.jrn.nextRun ∧
    (dropDeferred c s).pool.chargeA = s.pool.chargeA ∧
    (dropDeferred c s).pool.chargeB = s.pool.chargeB ∧
    (dropDeferred c s).pool.chargeI = s.pool.chargeI ∧
    (dropDeferred c s).pool.claimsA = s.pool.claimsA ∧
    (dropDeferred c s).pool.claimsB = s.pool.claimsB ∧
    (dropDeferred c s).pool.claimsI = s.pool.claimsI := by
  unfold dropDeferred
  (try dsimp only)
  repeat' split
  all_goals simp [*]

@[simp] theorem lateCreation_frame (c : CmdId) (s : State) :
    (lateCreation c s).map = s.map ∧
    (lateCreation c s).ov = s.ov ∧
    (lateCreation c s).hpA = s.hpA ∧
    (lateCreation c s).hpB = s.hpB ∧
    (lateCreation c s).te = s.te ∧
    (lateCreation c s).pool = s.pool ∧
    (lateCreation c s).mrg = s.mrg ∧
    (lateCreation c s).jrn = s.jrn ∧
    (lateCreation c s).mnt = s.mnt ∧
    (lateCreation c s).mgA = s.mgA ∧
    (lateCreation c s).mgB = s.mgB ∧
    (lateCreation c s).outA = s.outA ∧
    (lateCreation c s).outB = s.outB ∧
    (lateCreation c s).outT = s.outT ∧
    (lateCreation c s).free = s.free ∧
    (lateCreation c s).pending = s.pending := by
  unfold lateCreation
  (try dsimp only)
  repeat' split
  all_goals simp [*]

@[simp] theorem sendResetDone_frame (p : Port) (s : State) :
    (sendResetDone p s).map = s.map ∧
    (sendResetDone p s).ov = s.ov ∧
    (sendResetDone p s).adm = s.adm ∧
    (sendResetDone p s).te = s.te ∧
    (sendResetDone p s).pool = s.pool ∧
    (sendResetDone p s).mrg = s.mrg ∧
    (sendResetDone p s).jrn = s.jrn ∧
    (sendResetDone p s).mnt = s.mnt ∧
    (sendResetDone p s).mgA = s.mgA ∧
    (sendResetDone p s).mgB = s.mgB ∧
    (sendResetDone p s).outT = s.outT ∧
    (sendResetDone p s).free = s.free ∧
    (sendResetDone p s).pending = s.pending := by
  unfold sendResetDone
  (try dsimp only)
  repeat' split
  all_goals simp [*]

@[simp] theorem resetDoneCheck_frame (p : Port) (s : State) :
    (resetDoneCheck p s).map = s.map ∧
    (resetDoneCheck p s).ov = s.ov ∧
    (resetDoneCheck p s).adm = s.adm ∧
    (resetDoneCheck p s).te = s.te ∧
    (resetDoneCheck p s).pool = s.pool ∧
    (resetDoneCheck p s).mrg = s.mrg ∧
    (resetDoneCheck p s).jrn = s.jrn ∧
    (resetDoneCheck p s).mnt = s.mnt ∧
    (resetDoneCheck p s).mgA = s.mgA ∧
    (resetDoneCheck p s).mgB = s.mgB ∧
    (resetDoneCheck p s).outT = s.outT ∧
    (resetDoneCheck p s).free = s.free ∧
    (resetDoneCheck p s).pending = s.pending := by
  unfold resetDoneCheck
  (try dsimp only)
  repeat' split
  all_goals simp [*]

@[simp] theorem letGo_frame (r : Record) (s : State) :
    (letGo r s).map = s.map ∧
    (letGo r s).ov = s.ov ∧
    (letGo r s).adm = s.adm ∧
    (letGo r s).hpA = s.hpA ∧
    (letGo r s).hpB = s.hpB ∧
    (letGo r s).mrg = s.mrg ∧
    (letGo r s).mnt = s.mnt ∧
    (letGo r s).mgA = s.mgA ∧
    (letGo r s).mgB = s.mgB ∧
    (letGo r s).outA = s.outA ∧
    (letGo r s).outB = s.outB ∧
    (letGo r s).outT = s.outT ∧
    (letGo r s).free = s.free ∧
    (letGo r s).pending = s.pending ∧
    (letGo r s).te.link = s.te.link ∧
    (letGo r s).te.capacity = s.te.capacity ∧
    (letGo r s).te.resetWait = s.te.resetWait ∧
    (letGo r s).te.resetDue = s.te.resetDue ∧
    (letGo r s).te.hostPtr = s.te.hostPtr ∧
    (letGo r s).te.skip = s.te.skip ∧
    (letGo r s).jrn.cond = s.jrn.cond ∧
    (letGo r s).jrn.run = s.jrn.run ∧
    (letGo r s).jrn.openBuf = s.jrn.openBuf ∧
    (letGo r s).jrn.inFlight = s.jrn.inFlight ∧
    (letGo r s).jrn.qNext = s.jrn.qNext ∧
    (letGo r s).jrn.sCk = s.jrn.sCk ∧
    (letGo r s).jrn.newest = s.jrn.newest ∧
    (letGo r s).jrn.newestGen = s.jrn.newestGen ∧
    (letGo r s).jrn.fates = s.jrn.fates ∧
    (letGo r s).jrn.waiters = s.jrn.waiters ∧
    (letGo r s).jrn.nextId = s.jrn.nextId ∧
    (letGo r s).jrn.nextRun = s.jrn.nextRun := by
  unfold letGo
  (try dsimp only)
  repeat' split
  all_goals simp [*]

@[simp] theorem leave_frame (c : CmdId) (s : State) :
    (leave c s).mrg = s.mrg ∧
    (leave c s).mnt = s.mnt ∧
    (leave c s).mgA = s.mgA ∧
    (leave c s).mgB = s.mgB ∧
    (leave c s).outT = s.outT ∧
    (leave c s).free = s.free ∧
    (leave c s).pending = s.pending ∧
    (leave c s).te.link = s.te.link ∧
    (leave c s).te.capacity = s.te.capacity ∧
    (leave c s).te.resetWait = s.te.resetWait ∧
    (leave c s).te.resetDue = s.te.resetDue ∧
    (leave c s).te.hostPtr = s.te.hostPtr ∧
    (leave c s).te.skip = s.te.skip ∧
    (leave c s).map.hold = s.map.hold ∧
    (leave c s).map.layout = s.map.layout ∧
    (leave c s).map.active = s.map.active ∧
    (leave c s).map.stage = s.map.stage ∧
    (leave c s).map.formatId = s.map.formatId ∧
    (leave c s).map.anchorGen = s.map.anchorGen ∧
    (leave c s).map.anchorCopy = s.map.anchorCopy ∧
    (leave c s).map.unavailable = s.map.unavailable ∧
    (leave c s).ov.table = s.ov.table ∧
    (leave c s).ov.retired = s.ov.retired ∧
    (leave c s).ov.slots = s.ov.slots ∧
    (leave c s).ov.condemned = s.ov.condemned ∧
    (leave c s).ov.pendingFree = s.ov.pendingFree ∧
    (leave c s).jrn.cond = s.jrn.cond ∧
    (leave c s).jrn.run = s.jrn.run ∧
    (leave c s).jrn.openBuf = s.jrn.openBuf ∧
    (leave c s).jrn.inFlight = s.jrn.inFlight ∧
    (leave c s).jrn.qNext = s.jrn.qNext ∧
    (leave c s).jrn.sCk = s.jrn.sCk ∧
    (leave c s).jrn.newest = s.jrn.newest ∧
    (leave c s).jrn.newestGen = s.jrn.newestGen ∧
    (leave c s).jrn.fates = s.jrn.fates ∧
    (leave c s).jrn.nextId = s.jrn.nextId ∧
    (leave c s).jrn.nextRun = s.jrn.nextRun := by
  unfold leave
  (try dsimp only)
  repeat' split
  all_goals simp [*]

@[simp] theorem endRecord_frame (c : CmdId) (res : Result) (done : Nat) (detail : Option Nat) (value : Nat) (s : State) :
    (endRecord c res done detail value s).mrg = s.mrg ∧
    (endRecord c res done detail value s).mnt = s.mnt ∧
    (endRecord c res done detail value s).mgA = s.mgA ∧
    (endRecord c res done detail value s).mgB = s.mgB ∧
    (endRecord c res done detail value s).outT = s.outT ∧
    (endRecord c res done detail value s).free = s.free ∧
    (endRecord c res done detail value s).pending = s.pending ∧
    (endRecord c res done detail value s).te.link = s.te.link ∧
    (endRecord c res done detail value s).te.capacity = s.te.capacity ∧
    (endRecord c res done detail value s).te.resetWait = s.te.resetWait ∧
    (endRecord c res done detail value s).te.resetDue = s.te.resetDue ∧
    (endRecord c res done detail value s).te.hostPtr = s.te.hostPtr ∧
    (endRecord c res done detail value s).te.skip = s.te.skip ∧
    (endRecord c res done detail value s).map.hold = s.map.hold ∧
    (endRecord c res done detail value s).map.layout = s.map.layout ∧
    (endRecord c res done detail value s).map.active = s.map.active ∧
    (endRecord c res done detail value s).map.stage = s.map.stage ∧
    (endRecord c res done detail value s).map.formatId = s.map.formatId ∧
    (endRecord c res done detail value s).map.anchorGen = s.map.anchorGen ∧
    (endRecord c res done detail value s).map.anchorCopy = s.map.anchorCopy ∧
    (endRecord c res done detail value s).map.unavailable = s.map.unavailable ∧
    (endRecord c res done detail value s).ov.table = s.ov.table ∧
    (endRecord c res done detail value s).ov.retired = s.ov.retired ∧
    (endRecord c res done detail value s).ov.slots = s.ov.slots ∧
    (endRecord c res done detail value s).ov.condemned = s.ov.condemned ∧
    (endRecord c res done detail value s).ov.pendingFree = s.ov.pendingFree ∧
    (endRecord c res done detail value s).jrn.cond = s.jrn.cond ∧
    (endRecord c res done detail value s).jrn.run = s.jrn.run ∧
    (endRecord c res done detail value s).jrn.openBuf = s.jrn.openBuf ∧
    (endRecord c res done detail value s).jrn.inFlight = s.jrn.inFlight ∧
    (endRecord c res done detail value s).jrn.qNext = s.jrn.qNext ∧
    (endRecord c res done detail value s).jrn.sCk = s.jrn.sCk ∧
    (endRecord c res done detail value s).jrn.newest = s.jrn.newest ∧
    (endRecord c res done detail value s).jrn.newestGen = s.jrn.newestGen ∧
    (endRecord c res done detail value s).jrn.fates = s.jrn.fates ∧
    (endRecord c res done detail value s).jrn.nextId = s.jrn.nextId ∧
    (endRecord c res done detail value s).jrn.nextRun = s.jrn.nextRun := by
  unfold endRecord
  (try dsimp only)
  repeat' split
  all_goals simp [*]

@[simp] theorem claimNext_frame (c : CmdId) (s : State) :
    (claimNext c s).map = s.map ∧
    (claimNext c s).ov = s.ov ∧
    (claimNext c s).adm = s.adm ∧
    (claimNext c s).hpA = s.hpA ∧
    (claimNext c s).hpB = s.hpB ∧
    (claimNext c s).te = s.te ∧
    (claimNext c s).mrg = s.mrg ∧
    (claimNext c s).jrn = s.jrn ∧
    (claimNext c s).mnt = s.mnt ∧
    (claimNext c s).mgA = s.mgA ∧
    (claimNext c s).mgB = s.mgB ∧
    (claimNext c s).outA = s.outA ∧
    (claimNext c s).outB = s.outB ∧
    (claimNext c s).outT = s.outT ∧
    (claimNext c s).free = s.free ∧
    (claimNext c s).pending = s.pending := by
  unfold claimNext
  (try dsimp only)
  repeat' split
  all_goals simp [*]

@[simp] theorem sendGrants_frame (x0 : Nat) (x1 : CmdId) (s : State) :
    (sendGrants x0 x1 s).map = s.map ∧
    (sendGrants x0 x1 s).ov = s.ov ∧
    (sendGrants x0 x1 s).adm = s.adm ∧
    (sendGrants x0 x1 s).te = s.te ∧
    (sendGrants x0 x1 s).pool = s.pool ∧
    (sendGrants x0 x1 s).mrg = s.mrg ∧
    (sendGrants x0 x1 s).jrn = s.jrn ∧
    (sendGrants x0 x1 s).mnt = s.mnt ∧
    (sendGrants x0 x1 s).mgA = s.mgA ∧
    (sendGrants x0 x1 s).mgB = s.mgB ∧
    (sendGrants x0 x1 s).outT = s.outT ∧
    (sendGrants x0 x1 s).free = s.free ∧
    (sendGrants x0 x1 s).pending = s.pending := by
  induction x0 generalizing s with
  | zero => simp [sendGrants]
  | succ n ih =>
    unfold sendGrants
    (try dsimp only)
    repeat' split
    all_goals simp [*]

@[simp] theorem finishWrite_frame (r : Record) (s : State) :
    (finishWrite r s).mrg = s.mrg ∧
    (finishWrite r s).mnt = s.mnt ∧
    (finishWrite r s).mgA = s.mgA ∧
    (finishWrite r s).mgB = s.mgB ∧
    (finishWrite r s).outT = s.outT ∧
    (finishWrite r s).free = s.free ∧
    (finishWrite r s).pending = s.pending ∧
    (finishWrite r s).te.link = s.te.link ∧
    (finishWrite r s).te.capacity = s.te.capacity ∧
    (finishWrite r s).te.resetWait = s.te.resetWait ∧
    (finishWrite r s).te.resetDue = s.te.resetDue ∧
    (finishWrite r s).te.hostPtr = s.te.hostPtr ∧
    (finishWrite r s).te.skip = s.te.skip ∧
    (finishWrite r s).map.hold = s.map.hold ∧
    (finishWrite r s).map.layout = s.map.layout ∧
    (finishWrite r s).map.active = s.map.active ∧
    (finishWrite r s).map.stage = s.map.stage ∧
    (finishWrite r s).map.formatId = s.map.formatId ∧
    (finishWrite r s).map.anchorGen = s.map.anchorGen ∧
    (finishWrite r s).map.anchorCopy = s.map.anchorCopy ∧
    (finishWrite r s).map.unavailable = s.map.unavailable ∧
    (finishWrite r s).ov.table = s.ov.table ∧
    (finishWrite r s).ov.retired = s.ov.retired ∧
    (finishWrite r s).ov.slots = s.ov.slots ∧
    (finishWrite r s).ov.condemned = s.ov.condemned ∧
    (finishWrite r s).ov.pendingFree = s.ov.pendingFree ∧
    (finishWrite r s).jrn.cond = s.jrn.cond ∧
    (finishWrite r s).jrn.run = s.jrn.run ∧
    (finishWrite r s).jrn.openBuf = s.jrn.openBuf ∧
    (finishWrite r s).jrn.inFlight = s.jrn.inFlight ∧
    (finishWrite r s).jrn.qNext = s.jrn.qNext ∧
    (finishWrite r s).jrn.sCk = s.jrn.sCk ∧
    (finishWrite r s).jrn.newest = s.jrn.newest ∧
    (finishWrite r s).jrn.newestGen = s.jrn.newestGen ∧
    (finishWrite r s).jrn.fates = s.jrn.fates ∧
    (finishWrite r s).jrn.nextId = s.jrn.nextId ∧
    (finishWrite r s).jrn.nextRun = s.jrn.nextRun := by
  unfold finishWrite
  (try dsimp only)
  repeat' split
  all_goals simp [*]

@[simp] theorem endCheck_frame (c : CmdId) (s : State) :
    (endCheck c s).mrg = s.mrg ∧
    (endCheck c s).mnt = s.mnt ∧
    (endCheck c s).mgA = s.mgA ∧
    (endCheck c s).mgB = s.mgB ∧
    (endCheck c s).outT = s.outT ∧
    (endCheck c s).free = s.free ∧
    (endCheck c s).pending = s.pending ∧
    (endCheck c s).te.link = s.te.link ∧
    (endCheck c s).te.capacity = s.te.capacity ∧
    (endCheck c s).te.resetWait = s.te.resetWait ∧
    (endCheck c s).te.resetDue = s.te.resetDue ∧
    (endCheck c s).te.hostPtr = s.te.hostPtr ∧
    (endCheck c s).te.skip = s.te.skip ∧
    (endCheck c s).map.hold = s.map.hold ∧
    (endCheck c s).map.layout = s.map.layout ∧
    (endCheck c s).map.active = s.map.active ∧
    (endCheck c s).map.stage = s.map.stage ∧
    (endCheck c s).map.formatId = s.map.formatId ∧
    (endCheck c s).map.anchorGen = s.map.anchorGen ∧
    (endCheck c s).map.anchorCopy = s.map.anchorCopy ∧
    (endCheck c s).map.unavailable = s.map.unavailable ∧
    (endCheck c s).ov.table = s.ov.table ∧
    (endCheck c s).ov.retired = s.ov.retired ∧
    (endCheck c s).ov.slots = s.ov.slots ∧
    (endCheck c s).ov.condemned = s.ov.condemned ∧
    (endCheck c s).ov.pendingFree = s.ov.pendingFree ∧
    (endCheck c s).jrn.cond = s.jrn.cond ∧
    (endCheck c s).jrn.run = s.jrn.run ∧
    (endCheck c s).jrn.openBuf = s.jrn.openBuf ∧
    (endCheck c s).jrn.inFlight = s.jrn.inFlight ∧
    (endCheck c s).jrn.qNext = s.jrn.qNext ∧
    (endCheck c s).jrn.sCk = s.jrn.sCk ∧
    (endCheck c s).jrn.newest = s.jrn.newest ∧
    (endCheck c s).jrn.newestGen = s.jrn.newestGen ∧
    (endCheck c s).jrn.fates = s.jrn.fates ∧
    (endCheck c s).jrn.nextId = s.jrn.nextId ∧
    (endCheck c s).jrn.nextRun = s.jrn.nextRun := by
  unfold endCheck
  (try dsimp only)
  repeat' split
  all_goals simp [*]

@[simp] theorem releaseBlock_frame (c : CmdId) (b : Nat) (s : State) :
    (releaseBlock c b s).map = s.map ∧
    (releaseBlock c b s).ov = s.ov ∧
    (releaseBlock c b s).hpA = s.hpA ∧
    (releaseBlock c b s).hpB = s.hpB ∧
    (releaseBlock c b s).te = s.te ∧
    (releaseBlock c b s).mrg = s.mrg ∧
    (releaseBlock c b s).jrn = s.jrn ∧
    (releaseBlock c b s).mnt = s.mnt ∧
    (releaseBlock c b s).mgA = s.mgA ∧
    (releaseBlock c b s).mgB = s.mgB ∧
    (releaseBlock c b s).outA = s.outA ∧
    (releaseBlock c b s).outB = s.outB ∧
    (releaseBlock c b s).outT = s.outT ∧
    (releaseBlock c b s).free = s.free ∧
    (releaseBlock c b s).pending = s.pending ∧
    (releaseBlock c b s).adm.next = s.adm.next ∧
    (releaseBlock c b s).adm.pause = s.adm.pause ∧
    (releaseBlock c b s).adm.deferred = s.adm.deferred ∧
    (releaseBlock c b s).adm.order = s.adm.order ∧
    (releaseBlock c b s).adm.queueA = s.adm.queueA ∧
    (releaseBlock c b s).adm.queueB = s.adm.queueB := by
  unfold releaseBlock
  (try dsimp only)
  repeat' split
  all_goals simp [*]

@[simp] theorem deliverBlocks_frame (x0 : Nat) (x1 : CmdId) (s : State) :
    (deliverBlocks x0 x1 s).map = s.map ∧
    (deliverBlocks x0 x1 s).ov = s.ov ∧
    (deliverBlocks x0 x1 s).te = s.te ∧
    (deliverBlocks x0 x1 s).mrg = s.mrg ∧
    (deliverBlocks x0 x1 s).jrn = s.jrn ∧
    (deliverBlocks x0 x1 s).mnt = s.mnt ∧
    (deliverBlocks x0 x1 s).mgA = s.mgA ∧
    (deliverBlocks x0 x1 s).mgB = s.mgB ∧
    (deliverBlocks x0 x1 s).outT = s.outT ∧
    (deliverBlocks x0 x1 s).free = s.free ∧
    (deliverBlocks x0 x1 s).pending = s.pending ∧
    (deliverBlocks x0 x1 s).adm.next = s.adm.next ∧
    (deliverBlocks x0 x1 s).adm.pause = s.adm.pause ∧
    (deliverBlocks x0 x1 s).adm.deferred = s.adm.deferred ∧
    (deliverBlocks x0 x1 s).adm.order = s.adm.order ∧
    (deliverBlocks x0 x1 s).adm.queueA = s.adm.queueA ∧
    (deliverBlocks x0 x1 s).adm.queueB = s.adm.queueB := by
  induction x0 generalizing s with
  | zero => simp [deliverBlocks]
  | succ n ih =>
    unfold deliverBlocks
    (try dsimp only)
    repeat' split
    all_goals simp [*]

@[simp] theorem deliveryCheck_frame (c : CmdId) (s : State) :
    (deliveryCheck c s).mrg = s.mrg ∧
    (deliveryCheck c s).mnt = s.mnt ∧
    (deliveryCheck c s).mgA = s.mgA ∧
    (deliveryCheck c s).mgB = s.mgB ∧
    (deliveryCheck c s).outT = s.outT ∧
    (deliveryCheck c s).free = s.free ∧
    (deliveryCheck c s).pending = s.pending ∧
    (deliveryCheck c s).te.link = s.te.link ∧
    (deliveryCheck c s).te.capacity = s.te.capacity ∧
    (deliveryCheck c s).te.resetWait = s.te.resetWait ∧
    (deliveryCheck c s).te.resetDue = s.te.resetDue ∧
    (deliveryCheck c s).te.hostPtr = s.te.hostPtr ∧
    (deliveryCheck c s).te.skip = s.te.skip ∧
    (deliveryCheck c s).map.hold = s.map.hold ∧
    (deliveryCheck c s).map.layout = s.map.layout ∧
    (deliveryCheck c s).map.active = s.map.active ∧
    (deliveryCheck c s).map.stage = s.map.stage ∧
    (deliveryCheck c s).map.formatId = s.map.formatId ∧
    (deliveryCheck c s).map.anchorGen = s.map.anchorGen ∧
    (deliveryCheck c s).map.anchorCopy = s.map.anchorCopy ∧
    (deliveryCheck c s).map.unavailable = s.map.unavailable ∧
    (deliveryCheck c s).ov.table = s.ov.table ∧
    (deliveryCheck c s).ov.retired = s.ov.retired ∧
    (deliveryCheck c s).ov.slots = s.ov.slots ∧
    (deliveryCheck c s).ov.condemned = s.ov.condemned ∧
    (deliveryCheck c s).ov.pendingFree = s.ov.pendingFree ∧
    (deliveryCheck c s).jrn.cond = s.jrn.cond ∧
    (deliveryCheck c s).jrn.run = s.jrn.run ∧
    (deliveryCheck c s).jrn.openBuf = s.jrn.openBuf ∧
    (deliveryCheck c s).jrn.inFlight = s.jrn.inFlight ∧
    (deliveryCheck c s).jrn.qNext = s.jrn.qNext ∧
    (deliveryCheck c s).jrn.sCk = s.jrn.sCk ∧
    (deliveryCheck c s).jrn.newest = s.jrn.newest ∧
    (deliveryCheck c s).jrn.newestGen = s.jrn.newestGen ∧
    (deliveryCheck c s).jrn.fates = s.jrn.fates ∧
    (deliveryCheck c s).jrn.nextId = s.jrn.nextId ∧
    (deliveryCheck c s).jrn.nextRun = s.jrn.nextRun := by
  unfold deliveryCheck
  (try dsimp only)
  repeat' split
  all_goals simp [*]

@[simp] theorem deliver_frame (c : CmdId) (s : State) :
    (deliver c s).mrg = s.mrg ∧
    (deliver c s).mnt = s.mnt ∧
    (deliver c s).mgA = s.mgA ∧
    (deliver c s).mgB = s.mgB ∧
    (deliver c s).outT = s.outT ∧
    (deliver c s).free = s.free ∧
    (deliver c s).pending = s.pending ∧
    (deliver c s).te.link = s.te.link ∧
    (deliver c s).te.capacity = s.te.capacity ∧
    (deliver c s).te.resetWait = s.te.resetWait ∧
    (deliver c s).te.resetDue = s.te.resetDue ∧
    (deliver c s).te.hostPtr = s.te.hostPtr ∧
    (deliver c s).te.skip = s.te.skip ∧
    (deliver c s).map.hold = s.map.hold ∧
    (deliver c s).map.layout = s.map.layout ∧
    (deliver c s).map.active = s.map.active ∧
    (deliver c s).map.stage = s.map.stage ∧
    (deliver c s).map.formatId = s.map.formatId ∧
    (deliver c s).map.anchorGen = s.map.anchorGen ∧
    (deliver c s).map.anchorCopy = s.map.anchorCopy ∧
    (deliver c s).map.unavailable = s.map.unavailable ∧
    (deliver c s).ov.table = s.ov.table ∧
    (deliver c s).ov.retired = s.ov.retired ∧
    (deliver c s).ov.slots = s.ov.slots ∧
    (deliver c s).ov.condemned = s.ov.condemned ∧
    (deliver c s).ov.pendingFree = s.ov.pendingFree ∧
    (deliver c s).jrn.cond = s.jrn.cond ∧
    (deliver c s).jrn.run = s.jrn.run ∧
    (deliver c s).jrn.openBuf = s.jrn.openBuf ∧
    (deliver c s).jrn.inFlight = s.jrn.inFlight ∧
    (deliver c s).jrn.qNext = s.jrn.qNext ∧
    (deliver c s).jrn.sCk = s.jrn.sCk ∧
    (deliver c s).jrn.newest = s.jrn.newest ∧
    (deliver c s).jrn.newestGen = s.jrn.newestGen ∧
    (deliver c s).jrn.fates = s.jrn.fates ∧
    (deliver c s).jrn.nextId = s.jrn.nextId ∧
    (deliver c s).jrn.nextRun = s.jrn.nextRun := by
  unfold deliver
  (try dsimp only)
  repeat' split
  all_goals simp [*]

@[simp] theorem withdrawPieces_frame (c : CmdId) (which : Piece → Bool) (s : State) :
    (withdrawPieces c which s).map = s.map ∧
    (withdrawPieces c which s).ov = s.ov ∧
    (withdrawPieces c which s).hpA = s.hpA ∧
    (withdrawPieces c which s).hpB = s.hpB ∧
    (withdrawPieces c which s).mrg = s.mrg ∧
    (withdrawPieces c which s).jrn = s.jrn ∧
    (withdrawPieces c which s).mnt = s.mnt ∧
    (withdrawPieces c which s).mgA = s.mgA ∧
    (withdrawPieces c which s).mgB = s.mgB ∧
    (withdrawPieces c which s).outA = s.outA ∧
    (withdrawPieces c which s).outB = s.outB ∧
    (withdrawPieces c which s).outT = s.outT ∧
    (withdrawPieces c which s).free = s.free ∧
    (withdrawPieces c which s).pending = s.pending ∧
    (withdrawPieces c which s).te.link = s.te.link ∧
    (withdrawPieces c which s).te.capacity = s.te.capacity ∧
    (withdrawPieces c which s).te.resetWait = s.te.resetWait ∧
    (withdrawPieces c which s).te.resetDue = s.te.resetDue ∧
    (withdrawPieces c which s).te.ops = s.te.ops ∧
    (withdrawPieces c which s).te.relocs = s.te.relocs ∧
    (withdrawPieces c which s).te.intervals = s.te.intervals ∧
    (withdrawPieces c which s).te.hostPtr = s.te.hostPtr ∧
    (withdrawPieces c which s).te.skip = s.te.skip ∧
    (withdrawPieces c which s).te.recoveryQ = s.te.recoveryQ ∧
    (withdrawPieces c which s).te.journalQ = s.te.journalQ ∧
    (withdrawPieces c which s).te.backQ = s.te.backQ ∧
    (withdrawPieces c which s).adm.next = s.adm.next ∧
    (withdrawPieces c which s).adm.pause = s.adm.pause ∧
    (withdrawPieces c which s).adm.deferred = s.adm.deferred ∧
    (withdrawPieces c which s).adm.order = s.adm.order ∧
    (withdrawPieces c which s).adm.queueA = s.adm.queueA ∧
    (withdrawPieces c which s).adm.queueB = s.adm.queueB := by
  unfold withdrawPieces
  (try dsimp only)
  repeat' split
  all_goals simp [*]

@[simp] theorem freePieces_frame (c : CmdId) (which : Piece → Bool) (s : State) :
    (freePieces c which s).map = s.map ∧
    (freePieces c which s).ov = s.ov ∧
    (freePieces c which s).hpA = s.hpA ∧
    (freePieces c which s).hpB = s.hpB ∧
    (freePieces c which s).te = s.te ∧
    (freePieces c which s).mrg = s.mrg ∧
    (freePieces c which s).jrn = s.jrn ∧
    (freePieces c which s).mnt = s.mnt ∧
    (freePieces c which s).mgA = s.mgA ∧
    (freePieces c which s).mgB = s.mgB ∧
    (freePieces c which s).outA = s.outA ∧
    (freePieces c which s).outB = s.outB ∧
    (freePieces c which s).outT = s.outT ∧
    (freePieces c which s).free = s.free ∧
    (freePieces c which s).pending = s.pending ∧
    (freePieces c which s).adm.next = s.adm.next ∧
    (freePieces c which s).adm.pause = s.adm.pause ∧
    (freePieces c which s).adm.deferred = s.adm.deferred ∧
    (freePieces c which s).adm.order = s.adm.order ∧
    (freePieces c which s).adm.queueA = s.adm.queueA ∧
    (freePieces c which s).adm.queueB = s.adm.queueB := by
  unfold freePieces
  (try dsimp only)
  repeat' split
  all_goals simp [*]

@[simp] theorem freeEnded_frame (c : CmdId) (s : State) :
    (freeEnded c s).map = s.map ∧
    (freeEnded c s).ov = s.ov ∧
    (freeEnded c s).hpA = s.hpA ∧
    (freeEnded c s).hpB = s.hpB ∧
    (freeEnded c s).te = s.te ∧
    (freeEnded c s).mrg = s.mrg ∧
    (freeEnded c s).jrn = s.jrn ∧
    (freeEnded c s).mnt = s.mnt ∧
    (freeEnded c s).mgA = s.mgA ∧
    (freeEnded c s).mgB = s.mgB ∧
    (freeEnded c s).outA = s.outA ∧
    (freeEnded c s).outB = s.outB ∧
    (freeEnded c s).outT = s.outT ∧
    (freeEnded c s).free = s.free ∧
    (freeEnded c s).pending = s.pending ∧
    (freeEnded c s).adm.next = s.adm.next ∧
    (freeEnded c s).adm.pause = s.adm.pause ∧
    (freeEnded c s).adm.deferred = s.adm.deferred ∧
    (freeEnded c s).adm.order = s.adm.order ∧
    (freeEnded c s).adm.queueA = s.adm.queueA ∧
    (freeEnded c s).adm.queueB = s.adm.queueB := by
  unfold freeEnded
  (try dsimp only)
  repeat' split
  all_goals simp [*]

@[simp] theorem cutRead_frame (c : CmdId) (res : Result) (f : Nat) (s : State) :
    (cutRead c res f s).map = s.map ∧
    (cutRead c res f s).ov = s.ov ∧
    (cutRead c res f s).hpA = s.hpA ∧
    (cutRead c res f s).hpB = s.hpB ∧
    (cutRead c res f s).mrg = s.mrg ∧
    (cutRead c res f s).jrn = s.jrn ∧
    (cutRead c res f s).mnt = s.mnt ∧
    (cutRead c res f s).mgA = s.mgA ∧
    (cutRead c res f s).mgB = s.mgB ∧
    (cutRead c res f s).outA = s.outA ∧
    (cutRead c res f s).outB = s.outB ∧
    (cutRead c res f s).outT = s.outT ∧
    (cutRead c res f s).free = s.free ∧
    (cutRead c res f s).pending = s.pending ∧
    (cutRead c res f s).te.link = s.te.link ∧
    (cutRead c res f s).te.capacity = s.te.capacity ∧
    (cutRead c res f s).te.resetWait = s.te.resetWait ∧
    (cutRead c res f s).te.resetDue = s.te.resetDue ∧
    (cutRead c res f s).te.ops = s.te.ops ∧
    (cutRead c res f s).te.relocs = s.te.relocs ∧
    (cutRead c res f s).te.intervals = s.te.intervals ∧
    (cutRead c res f s).te.hostPtr = s.te.hostPtr ∧
    (cutRead c res f s).te.skip = s.te.skip ∧
    (cutRead c res f s).te.recoveryQ = s.te.recoveryQ ∧
    (cutRead c res f s).te.journalQ = s.te.journalQ ∧
    (cutRead c res f s).te.backQ = s.te.backQ ∧
    (cutRead c res f s).adm.next = s.adm.next ∧
    (cutRead c res f s).adm.pause = s.adm.pause ∧
    (cutRead c res f s).adm.deferred = s.adm.deferred ∧
    (cutRead c res f s).adm.order = s.adm.order ∧
    (cutRead c res f s).adm.queueA = s.adm.queueA ∧
    (cutRead c res f s).adm.queueB = s.adm.queueB := by
  unfold cutRead
  (try dsimp only)
  repeat' split
  all_goals simp [*]

@[simp] theorem windDown_frame (c : CmdId) (stopped : Bool) (cause : Option PendingResult) (s : State) :
    (windDown c stopped cause s).mrg = s.mrg ∧
    (windDown c stopped cause s).mnt = s.mnt ∧
    (windDown c stopped cause s).mgA = s.mgA ∧
    (windDown c stopped cause s).mgB = s.mgB ∧
    (windDown c stopped cause s).outT = s.outT ∧
    (windDown c stopped cause s).free = s.free ∧
    (windDown c stopped cause s).pending = s.pending ∧
    (windDown c stopped cause s).te.link = s.te.link ∧
    (windDown c stopped cause s).te.capacity = s.te.capacity ∧
    (windDown c stopped cause s).te.resetWait = s.te.resetWait ∧
    (windDown c stopped cause s).te.resetDue = s.te.resetDue ∧
    (windDown c stopped cause s).te.hostPtr = s.te.hostPtr ∧
    (windDown c stopped cause s).te.skip = s.te.skip ∧
    (windDown c stopped cause s).map.hold = s.map.hold ∧
    (windDown c stopped cause s).map.layout = s.map.layout ∧
    (windDown c stopped cause s).map.active = s.map.active ∧
    (windDown c stopped cause s).map.stage = s.map.stage ∧
    (windDown c stopped cause s).map.formatId = s.map.formatId ∧
    (windDown c stopped cause s).map.anchorGen = s.map.anchorGen ∧
    (windDown c stopped cause s).map.anchorCopy = s.map.anchorCopy ∧
    (windDown c stopped cause s).map.unavailable = s.map.unavailable ∧
    (windDown c stopped cause s).ov.table = s.ov.table ∧
    (windDown c stopped cause s).ov.retired = s.ov.retired ∧
    (windDown c stopped cause s).ov.slots = s.ov.slots ∧
    (windDown c stopped cause s).ov.condemned = s.ov.condemned ∧
    (windDown c stopped cause s).ov.pendingFree = s.ov.pendingFree ∧
    (windDown c stopped cause s).jrn.cond = s.jrn.cond ∧
    (windDown c stopped cause s).jrn.run = s.jrn.run ∧
    (windDown c stopped cause s).jrn.openBuf = s.jrn.openBuf ∧
    (windDown c stopped cause s).jrn.inFlight = s.jrn.inFlight ∧
    (windDown c stopped cause s).jrn.qNext = s.jrn.qNext ∧
    (windDown c stopped cause s).jrn.sCk = s.jrn.sCk ∧
    (windDown c stopped cause s).jrn.newest = s.jrn.newest ∧
    (windDown c stopped cause s).jrn.newestGen = s.jrn.newestGen ∧
    (windDown c stopped cause s).jrn.fates = s.jrn.fates ∧
    (windDown c stopped cause s).jrn.nextId = s.jrn.nextId ∧
    (windDown c stopped cause s).jrn.nextRun = s.jrn.nextRun := by
  unfold windDown
  (try dsimp only)
  repeat' split
  all_goals simp [*]

@[simp] theorem failWrite_frame (c : CmdId) (res : Result) (f : Nat) (s : State) :
    (failWrite c res f s).mrg = s.mrg ∧
    (failWrite c res f s).mnt = s.mnt ∧
    (failWrite c res f s).mgA = s.mgA ∧
    (failWrite c res f s).mgB = s.mgB ∧
    (failWrite c res f s).outT = s.outT ∧
    (failWrite c res f s).free = s.free ∧
    (failWrite c res f s).pending = s.pending ∧
    (failWrite c res f s).te.link = s.te.link ∧
    (failWrite c res f s).te.capacity = s.te.capacity ∧
    (failWrite c res f s).te.resetWait = s.te.resetWait ∧
    (failWrite c res f s).te.resetDue = s.te.resetDue ∧
    (failWrite c res f s).te.hostPtr = s.te.hostPtr ∧
    (failWrite c res f s).te.skip = s.te.skip ∧
    (failWrite c res f s).map.hold = s.map.hold ∧
    (failWrite c res f s).map.layout = s.map.layout ∧
    (failWrite c res f s).map.active = s.map.active ∧
    (failWrite c res f s).map.stage = s.map.stage ∧
    (failWrite c res f s).map.formatId = s.map.formatId ∧
    (failWrite c res f s).map.anchorGen = s.map.anchorGen ∧
    (failWrite c res f s).map.anchorCopy = s.map.anchorCopy ∧
    (failWrite c res f s).map.unavailable = s.map.unavailable ∧
    (failWrite c res f s).ov.table = s.ov.table ∧
    (failWrite c res f s).ov.retired = s.ov.retired ∧
    (failWrite c res f s).ov.slots = s.ov.slots ∧
    (failWrite c res f s).ov.condemned = s.ov.condemned ∧
    (failWrite c res f s).ov.pendingFree = s.ov.pendingFree ∧
    (failWrite c res f s).jrn.cond = s.jrn.cond ∧
    (failWrite c res f s).jrn.run = s.jrn.run ∧
    (failWrite c res f s).jrn.openBuf = s.jrn.openBuf ∧
    (failWrite c res f s).jrn.inFlight = s.jrn.inFlight ∧
    (failWrite c res f s).jrn.qNext = s.jrn.qNext ∧
    (failWrite c res f s).jrn.sCk = s.jrn.sCk ∧
    (failWrite c res f s).jrn.newest = s.jrn.newest ∧
    (failWrite c res f s).jrn.newestGen = s.jrn.newestGen ∧
    (failWrite c res f s).jrn.fates = s.jrn.fates ∧
    (failWrite c res f s).jrn.nextId = s.jrn.nextId ∧
    (failWrite c res f s).jrn.nextRun = s.jrn.nextRun := by
  unfold failWrite
  (try dsimp only)
  repeat' split
  all_goals simp [*]

@[simp] theorem orphan_frame (c : CmdId) (s : State) :
    (orphan c s).map = s.map ∧
    (orphan c s).ov = s.ov ∧
    (orphan c s).hpA = s.hpA ∧
    (orphan c s).hpB = s.hpB ∧
    (orphan c s).mrg = s.mrg ∧
    (orphan c s).jrn = s.jrn ∧
    (orphan c s).mnt = s.mnt ∧
    (orphan c s).mgA = s.mgA ∧
    (orphan c s).mgB = s.mgB ∧
    (orphan c s).outA = s.outA ∧
    (orphan c s).outB = s.outB ∧
    (orphan c s).outT = s.outT ∧
    (orphan c s).free = s.free ∧
    (orphan c s).pending = s.pending ∧
    (orphan c s).te.link = s.te.link ∧
    (orphan c s).te.capacity = s.te.capacity ∧
    (orphan c s).te.resetWait = s.te.resetWait ∧
    (orphan c s).te.resetDue = s.te.resetDue ∧
    (orphan c s).te.ops = s.te.ops ∧
    (orphan c s).te.relocs = s.te.relocs ∧
    (orphan c s).te.intervals = s.te.intervals ∧
    (orphan c s).te.hostPtr = s.te.hostPtr ∧
    (orphan c s).te.skip = s.te.skip ∧
    (orphan c s).te.recoveryQ = s.te.recoveryQ ∧
    (orphan c s).te.journalQ = s.te.journalQ ∧
    (orphan c s).te.backQ = s.te.backQ ∧
    (orphan c s).adm.next = s.adm.next ∧
    (orphan c s).adm.pause = s.adm.pause ∧
    (orphan c s).adm.deferred = s.adm.deferred ∧
    (orphan c s).adm.order = s.adm.order ∧
    (orphan c s).adm.queueA = s.adm.queueA ∧
    (orphan c s).adm.queueB = s.adm.queueB := by
  unfold orphan
  (try dsimp only)
  repeat' split
  all_goals simp [*]

@[simp] theorem orphanOrLeave_frame (c : CmdId) (s : State) :
    (orphanOrLeave c s).mrg = s.mrg ∧
    (orphanOrLeave c s).mnt = s.mnt ∧
    (orphanOrLeave c s).mgA = s.mgA ∧
    (orphanOrLeave c s).mgB = s.mgB ∧
    (orphanOrLeave c s).outT = s.outT ∧
    (orphanOrLeave c s).free = s.free ∧
    (orphanOrLeave c s).pending = s.pending ∧
    (orphanOrLeave c s).te.link = s.te.link ∧
    (orphanOrLeave c s).te.capacity = s.te.capacity ∧
    (orphanOrLeave c s).te.resetWait = s.te.resetWait ∧
    (orphanOrLeave c s).te.resetDue = s.te.resetDue ∧
    (orphanOrLeave c s).te.hostPtr = s.te.hostPtr ∧
    (orphanOrLeave c s).te.skip = s.te.skip ∧
    (orphanOrLeave c s).map.hold = s.map.hold ∧
    (orphanOrLeave c s).map.layout = s.map.layout ∧
    (orphanOrLeave c s).map.active = s.map.active ∧
    (orphanOrLeave c s).map.stage = s.map.stage ∧
    (orphanOrLeave c s).map.formatId = s.map.formatId ∧
    (orphanOrLeave c s).map.anchorGen = s.map.anchorGen ∧
    (orphanOrLeave c s).map.anchorCopy = s.map.anchorCopy ∧
    (orphanOrLeave c s).map.unavailable = s.map.unavailable ∧
    (orphanOrLeave c s).ov.table = s.ov.table ∧
    (orphanOrLeave c s).ov.retired = s.ov.retired ∧
    (orphanOrLeave c s).ov.slots = s.ov.slots ∧
    (orphanOrLeave c s).ov.condemned = s.ov.condemned ∧
    (orphanOrLeave c s).ov.pendingFree = s.ov.pendingFree ∧
    (orphanOrLeave c s).jrn.cond = s.jrn.cond ∧
    (orphanOrLeave c s).jrn.run = s.jrn.run ∧
    (orphanOrLeave c s).jrn.openBuf = s.jrn.openBuf ∧
    (orphanOrLeave c s).jrn.inFlight = s.jrn.inFlight ∧
    (orphanOrLeave c s).jrn.qNext = s.jrn.qNext ∧
    (orphanOrLeave c s).jrn.sCk = s.jrn.sCk ∧
    (orphanOrLeave c s).jrn.newest = s.jrn.newest ∧
    (orphanOrLeave c s).jrn.newestGen = s.jrn.newestGen ∧
    (orphanOrLeave c s).jrn.fates = s.jrn.fates ∧
    (orphanOrLeave c s).jrn.nextId = s.jrn.nextId ∧
    (orphanOrLeave c s).jrn.nextRun = s.jrn.nextRun := by
  unfold orphanOrLeave
  (try dsimp only)
  repeat' split
  all_goals simp [*]

@[simp] theorem cutOff_frame (c : CmdId) (s : State) :
    (cutOff c s).mrg = s.mrg ∧
    (cutOff c s).mnt = s.mnt ∧
    (cutOff c s).mgA = s.mgA ∧
    (cutOff c s).mgB = s.mgB ∧
    (cutOff c s).outT = s.outT ∧
    (cutOff c s).free = s.free ∧
    (cutOff c s).pending = s.pending ∧
    (cutOff c s).te.link = s.te.link ∧
    (cutOff c s).te.capacity = s.te.capacity ∧
    (cutOff c s).te.resetWait = s.te.resetWait ∧
    (cutOff c s).te.resetDue = s.te.resetDue ∧
    (cutOff c s).te.hostPtr = s.te.hostPtr ∧
    (cutOff c s).te.skip = s.te.skip ∧
    (cutOff c s).map.hold = s.map.hold ∧
    (cutOff c s).map.layout = s.map.layout ∧
    (cutOff c s).map.active = s.map.active ∧
    (cutOff c s).map.stage = s.map.stage ∧
    (cutOff c s).map.formatId = s.map.formatId ∧
    (cutOff c s).map.anchorGen = s.map.anchorGen ∧
    (cutOff c s).map.anchorCopy = s.map.anchorCopy ∧
    (cutOff c s).map.unavailable = s.map.unavailable ∧
    (cutOff c s).ov.table = s.ov.table ∧
    (cutOff c s).ov.retired = s.ov.retired ∧
    (cutOff c s).ov.slots = s.ov.slots ∧
    (cutOff c s).ov.condemned = s.ov.condemned ∧
    (cutOff c s).ov.pendingFree = s.ov.pendingFree ∧
    (cutOff c s).jrn.cond = s.jrn.cond ∧
    (cutOff c s).jrn.run = s.jrn.run ∧
    (cutOff c s).jrn.openBuf = s.jrn.openBuf ∧
    (cutOff c s).jrn.inFlight = s.jrn.inFlight ∧
    (cutOff c s).jrn.qNext = s.jrn.qNext ∧
    (cutOff c s).jrn.sCk = s.jrn.sCk ∧
    (cutOff c s).jrn.newest = s.jrn.newest ∧
    (cutOff c s).jrn.newestGen = s.jrn.newestGen ∧
    (cutOff c s).jrn.fates = s.jrn.fates ∧
    (cutOff c s).jrn.nextId = s.jrn.nextId ∧
    (cutOff c s).jrn.nextRun = s.jrn.nextRun := by
  unfold cutOff
  (try dsimp only)
  repeat' split
  all_goals simp [*]

@[simp] theorem protocolError_frame (c : CmdId) (s : State) :
    (protocolError c s).mrg = s.mrg ∧
    (protocolError c s).mnt = s.mnt ∧
    (protocolError c s).mgA = s.mgA ∧
    (protocolError c s).mgB = s.mgB ∧
    (protocolError c s).outT = s.outT ∧
    (protocolError c s).free = s.free ∧
    (protocolError c s).pending = s.pending ∧
    (protocolError c s).te.link = s.te.link ∧
    (protocolError c s).te.capacity = s.te.capacity ∧
    (protocolError c s).te.resetWait = s.te.resetWait ∧
    (protocolError c s).te.resetDue = s.te.resetDue ∧
    (protocolError c s).te.hostPtr = s.te.hostPtr ∧
    (protocolError c s).te.skip = s.te.skip ∧
    (protocolError c s).map.hold = s.map.hold ∧
    (protocolError c s).map.layout = s.map.layout ∧
    (protocolError c s).map.active = s.map.active ∧
    (protocolError c s).map.stage = s.map.stage ∧
    (protocolError c s).map.formatId = s.map.formatId ∧
    (protocolError c s).map.anchorGen = s.map.anchorGen ∧
    (protocolError c s).map.anchorCopy = s.map.anchorCopy ∧
    (protocolError c s).map.unavailable = s.map.unavailable ∧
    (protocolError c s).ov.table = s.ov.table ∧
    (protocolError c s).ov.retired = s.ov.retired ∧
    (protocolError c s).ov.slots = s.ov.slots ∧
    (protocolError c s).ov.condemned = s.ov.condemned ∧
    (protocolError c s).ov.pendingFree = s.ov.pendingFree ∧
    (protocolError c s).jrn.cond = s.jrn.cond ∧
    (protocolError c s).jrn.run = s.jrn.run ∧
    (protocolError c s).jrn.openBuf = s.jrn.openBuf ∧
    (protocolError c s).jrn.inFlight = s.jrn.inFlight ∧
    (protocolError c s).jrn.qNext = s.jrn.qNext ∧
    (protocolError c s).jrn.sCk = s.jrn.sCk ∧
    (protocolError c s).jrn.newest = s.jrn.newest ∧
    (protocolError c s).jrn.newestGen = s.jrn.newestGen ∧
    (protocolError c s).jrn.fates = s.jrn.fates ∧
    (protocolError c s).jrn.nextId = s.jrn.nextId ∧
    (protocolError c s).jrn.nextRun = s.jrn.nextRun := by
  unfold protocolError
  (try dsimp only)
  repeat' split
  all_goals simp [*]

/-! ## Machine/Relocation.lean -/

@[simp] theorem placeReloc_frame (g : Nat) (s : State) :
    (placeReloc g s).map = s.map ∧
    (placeReloc g s).ov = s.ov ∧
    (placeReloc g s).hpA = s.hpA ∧
    (placeReloc g s).hpB = s.hpB ∧
    (placeReloc g s).pool = s.pool ∧
    (placeReloc g s).mrg = s.mrg ∧
    (placeReloc g s).jrn = s.jrn ∧
    (placeReloc g s).mnt = s.mnt ∧
    (placeReloc g s).mgA = s.mgA ∧
    (placeReloc g s).mgB = s.mgB ∧
    (placeReloc g s).outA = s.outA ∧
    (placeReloc g s).outB = s.outB ∧
    (placeReloc g s).outT = s.outT ∧
    (placeReloc g s).free = s.free ∧
    (placeReloc g s).pending = s.pending ∧
    (placeReloc g s).te.link = s.te.link ∧
    (placeReloc g s).te.capacity = s.te.capacity ∧
    (placeReloc g s).te.resetWait = s.te.resetWait ∧
    (placeReloc g s).te.resetDue = s.te.resetDue ∧
    (placeReloc g s).te.ops = s.te.ops ∧
    (placeReloc g s).te.intervals = s.te.intervals ∧
    (placeReloc g s).te.hostPtr = s.te.hostPtr ∧
    (placeReloc g s).te.skip = s.te.skip ∧
    (placeReloc g s).te.recoveryQ = s.te.recoveryQ ∧
    (placeReloc g s).te.journalQ = s.te.journalQ ∧
    (placeReloc g s).te.hostAQ = s.te.hostAQ ∧
    (placeReloc g s).te.hostBQ = s.te.hostBQ ∧
    (placeReloc g s).te.backQ = s.te.backQ ∧
    (placeReloc g s).adm.next = s.adm.next ∧
    (placeReloc g s).adm.pause = s.adm.pause ∧
    (placeReloc g s).adm.deferred = s.adm.deferred ∧
    (placeReloc g s).adm.records = s.adm.records ∧
    (placeReloc g s).adm.queueA = s.adm.queueA ∧
    (placeReloc g s).adm.queueB = s.adm.queueB := by
  unfold placeReloc
  (try dsimp only)
  repeat' split
  all_goals simp [*]

@[simp] theorem placeQueued_frame (s : State) :
    (placeQueued s).map = s.map ∧
    (placeQueued s).ov = s.ov ∧
    (placeQueued s).hpA = s.hpA ∧
    (placeQueued s).hpB = s.hpB ∧
    (placeQueued s).pool = s.pool ∧
    (placeQueued s).mrg = s.mrg ∧
    (placeQueued s).jrn = s.jrn ∧
    (placeQueued s).mnt = s.mnt ∧
    (placeQueued s).mgA = s.mgA ∧
    (placeQueued s).mgB = s.mgB ∧
    (placeQueued s).outA = s.outA ∧
    (placeQueued s).outB = s.outB ∧
    (placeQueued s).outT = s.outT ∧
    (placeQueued s).free = s.free ∧
    (placeQueued s).pending = s.pending ∧
    (placeQueued s).te.link = s.te.link ∧
    (placeQueued s).te.capacity = s.te.capacity ∧
    (placeQueued s).te.resetWait = s.te.resetWait ∧
    (placeQueued s).te.resetDue = s.te.resetDue ∧
    (placeQueued s).te.ops = s.te.ops ∧
    (placeQueued s).te.intervals = s.te.intervals ∧
    (placeQueued s).te.hostPtr = s.te.hostPtr ∧
    (placeQueued s).te.skip = s.te.skip ∧
    (placeQueued s).te.recoveryQ = s.te.recoveryQ ∧
    (placeQueued s).te.journalQ = s.te.journalQ ∧
    (placeQueued s).te.hostAQ = s.te.hostAQ ∧
    (placeQueued s).te.hostBQ = s.te.hostBQ ∧
    (placeQueued s).te.backQ = s.te.backQ ∧
    (placeQueued s).adm.next = s.adm.next ∧
    (placeQueued s).adm.pause = s.adm.pause ∧
    (placeQueued s).adm.deferred = s.adm.deferred ∧
    (placeQueued s).adm.records = s.adm.records ∧
    (placeQueued s).adm.queueA = s.adm.queueA ∧
    (placeQueued s).adm.queueB = s.adm.queueB := by
  unfold placeQueued
  (try dsimp only)
  repeat' split
  all_goals simp [*]

@[simp] theorem requestReloc_frame (g : Nat) (region : Nat) (cause : RelocCause) (deps : List Dependant) (lost : Mask) (retired : List Nat) (s : State) :
    (requestReloc g region cause deps lost retired s).map = s.map ∧
    (requestReloc g region cause deps lost retired s).ov = s.ov ∧
    (requestReloc g region cause deps lost retired s).hpA = s.hpA ∧
    (requestReloc g region cause deps lost retired s).hpB = s.hpB ∧
    (requestReloc g region cause deps lost retired s).pool = s.pool ∧
    (requestReloc g region cause deps lost retired s).mrg = s.mrg ∧
    (requestReloc g region cause deps lost retired s).jrn = s.jrn ∧
    (requestReloc g region cause deps lost retired s).mnt = s.mnt ∧
    (requestReloc g region cause deps lost retired s).mgA = s.mgA ∧
    (requestReloc g region cause deps lost retired s).mgB = s.mgB ∧
    (requestReloc g region cause deps lost retired s).outA = s.outA ∧
    (requestReloc g region cause deps lost retired s).outB = s.outB ∧
    (requestReloc g region cause deps lost retired s).outT = s.outT ∧
    (requestReloc g region cause deps lost retired s).free = s.free ∧
    (requestReloc g region cause deps lost retired s).pending = s.pending ∧
    (requestReloc g region cause deps lost retired s).te.link = s.te.link ∧
    (requestReloc g region cause deps lost retired s).te.capacity = s.te.capacity ∧
    (requestReloc g region cause deps lost retired s).te.resetWait = s.te.resetWait ∧
    (requestReloc g region cause deps lost retired s).te.resetDue = s.te.resetDue ∧
    (requestReloc g region cause deps lost retired s).te.ops = s.te.ops ∧
    (requestReloc g region cause deps lost retired s).te.intervals = s.te.intervals ∧
    (requestReloc g region cause deps lost retired s).te.hostPtr = s.te.hostPtr ∧
    (requestReloc g region cause deps lost retired s).te.skip = s.te.skip ∧
    (requestReloc g region cause deps lost retired s).te.recoveryQ = s.te.recoveryQ ∧
    (requestReloc g region cause deps lost retired s).te.journalQ = s.te.journalQ ∧
    (requestReloc g region cause deps lost retired s).te.hostAQ = s.te.hostAQ ∧
    (requestReloc g region cause deps lost retired s).te.hostBQ = s.te.hostBQ ∧
    (requestReloc g region cause deps lost retired s).te.backQ = s.te.backQ ∧
    (requestReloc g region cause deps lost retired s).adm.next = s.adm.next ∧
    (requestReloc g region cause deps lost retired s).adm.pause = s.adm.pause ∧
    (requestReloc g region cause deps lost retired s).adm.deferred = s.adm.deferred ∧
    (requestReloc g region cause deps lost retired s).adm.records = s.adm.records ∧
    (requestReloc g region cause deps lost retired s).adm.queueA = s.adm.queueA ∧
    (requestReloc g region cause deps lost retired s).adm.queueB = s.adm.queueB := by
  unfold requestReloc
  (try dsimp only)
  repeat' split
  all_goals simp [*]

@[simp] theorem relocWrites_frame (g : Nat) (m : Mask) (s : State) :
    (relocWrites g m s).map = s.map ∧
    (relocWrites g m s).ov = s.ov ∧
    (relocWrites g m s).adm = s.adm ∧
    (relocWrites g m s).hpA = s.hpA ∧
    (relocWrites g m s).hpB = s.hpB ∧
    (relocWrites g m s).pool = s.pool ∧
    (relocWrites g m s).mrg = s.mrg ∧
    (relocWrites g m s).jrn = s.jrn ∧
    (relocWrites g m s).mnt = s.mnt ∧
    (relocWrites g m s).mgA = s.mgA ∧
    (relocWrites g m s).mgB = s.mgB ∧
    (relocWrites g m s).outA = s.outA ∧
    (relocWrites g m s).outB = s.outB ∧
    (relocWrites g m s).outT = s.outT ∧
    (relocWrites g m s).free = s.free ∧
    (relocWrites g m s).pending = s.pending ∧
    (relocWrites g m s).te.link = s.te.link ∧
    (relocWrites g m s).te.capacity = s.te.capacity ∧
    (relocWrites g m s).te.resetWait = s.te.resetWait ∧
    (relocWrites g m s).te.resetDue = s.te.resetDue ∧
    (relocWrites g m s).te.ops = s.te.ops ∧
    (relocWrites g m s).te.relocs = s.te.relocs ∧
    (relocWrites g m s).te.intervals = s.te.intervals ∧
    (relocWrites g m s).te.hostPtr = s.te.hostPtr ∧
    (relocWrites g m s).te.skip = s.te.skip ∧
    (relocWrites g m s).te.journalQ = s.te.journalQ ∧
    (relocWrites g m s).te.hostAQ = s.te.hostAQ ∧
    (relocWrites g m s).te.hostBQ = s.te.hostBQ ∧
    (relocWrites g m s).te.backQ = s.te.backQ := by
  have fold : ∀ {α : Type} {f : State → α → State} (_ : ∀ s x, (f s x).map = s.map ∧ (f s x).ov = s.ov ∧ (f s x).adm = s.adm ∧ (f s x).hpA = s.hpA ∧ (f s x).hpB = s.hpB ∧ (f s x).pool = s.pool ∧ (f s x).mrg = s.mrg ∧ (f s x).jrn = s.jrn ∧ (f s x).mnt = s.mnt ∧ (f s x).mgA = s.mgA ∧ (f s x).mgB = s.mgB ∧ (f s x).outA = s.outA ∧ (f s x).outB = s.outB ∧ (f s x).outT = s.outT ∧ (f s x).free = s.free ∧ (f s x).pending = s.pending ∧ (f s x).te.link = s.te.link ∧ (f s x).te.capacity = s.te.capacity ∧ (f s x).te.resetWait = s.te.resetWait ∧ (f s x).te.resetDue = s.te.resetDue ∧ (f s x).te.ops = s.te.ops ∧ (f s x).te.relocs = s.te.relocs ∧ (f s x).te.intervals = s.te.intervals ∧ (f s x).te.hostPtr = s.te.hostPtr ∧ (f s x).te.skip = s.te.skip ∧ (f s x).te.journalQ = s.te.journalQ ∧ (f s x).te.hostAQ = s.te.hostAQ ∧ (f s x).te.hostBQ = s.te.hostBQ ∧ (f s x).te.backQ = s.te.backQ) (l : List α) (s : State),
      (l.foldl f s).map = s.map ∧ (l.foldl f s).ov = s.ov ∧ (l.foldl f s).adm = s.adm ∧ (l.foldl f s).hpA = s.hpA ∧ (l.foldl f s).hpB = s.hpB ∧ (l.foldl f s).pool = s.pool ∧ (l.foldl f s).mrg = s.mrg ∧ (l.foldl f s).jrn = s.jrn ∧ (l.foldl f s).mnt = s.mnt ∧ (l.foldl f s).mgA = s.mgA ∧ (l.foldl f s).mgB = s.mgB ∧ (l.foldl f s).outA = s.outA ∧ (l.foldl f s).outB = s.outB ∧ (l.foldl f s).outT = s.outT ∧ (l.foldl f s).free = s.free ∧ (l.foldl f s).pending = s.pending ∧ (l.foldl f s).te.link = s.te.link ∧ (l.foldl f s).te.capacity = s.te.capacity ∧ (l.foldl f s).te.resetWait = s.te.resetWait ∧ (l.foldl f s).te.resetDue = s.te.resetDue ∧ (l.foldl f s).te.ops = s.te.ops ∧ (l.foldl f s).te.relocs = s.te.relocs ∧ (l.foldl f s).te.intervals = s.te.intervals ∧ (l.foldl f s).te.hostPtr = s.te.hostPtr ∧ (l.foldl f s).te.skip = s.te.skip ∧ (l.foldl f s).te.journalQ = s.te.journalQ ∧ (l.foldl f s).te.hostAQ = s.te.hostAQ ∧ (l.foldl f s).te.hostBQ = s.te.hostBQ ∧ (l.foldl f s).te.backQ = s.te.backQ :=
    fun h l s => foldl_rel (fun s t => t.map = s.map ∧ t.ov = s.ov ∧ t.adm = s.adm ∧ t.hpA = s.hpA ∧ t.hpB = s.hpB ∧ t.pool = s.pool ∧ t.mrg = s.mrg ∧ t.jrn = s.jrn ∧ t.mnt = s.mnt ∧ t.mgA = s.mgA ∧ t.mgB = s.mgB ∧ t.outA = s.outA ∧ t.outB = s.outB ∧ t.outT = s.outT ∧ t.free = s.free ∧ t.pending = s.pending ∧ t.te.link = s.te.link ∧ t.te.capacity = s.te.capacity ∧ t.te.resetWait = s.te.resetWait ∧ t.te.resetDue = s.te.resetDue ∧ t.te.ops = s.te.ops ∧ t.te.relocs = s.te.relocs ∧ t.te.intervals = s.te.intervals ∧ t.te.hostPtr = s.te.hostPtr ∧ t.te.skip = s.te.skip ∧ t.te.journalQ = s.te.journalQ ∧ t.te.hostAQ = s.te.hostAQ ∧ t.te.hostBQ = s.te.hostBQ ∧ t.te.backQ = s.te.backQ) (by simp) (by simp_all) h l s
  unfold relocWrites
  (try dsimp only)
  repeat' split
  all_goals first
    | (refine fold ?_ _ _
       intro s x
       repeat' split
       all_goals simp [*, newRequest, TransferEngine.setQueue])
    | simp [*]

@[simp] theorem joinReloc_frame (g : Nat) (d : Dependant) (s : State) :
    (joinReloc g d s).map = s.map ∧
    (joinReloc g d s).ov = s.ov ∧
    (joinReloc g d s).adm = s.adm ∧
    (joinReloc g d s).hpA = s.hpA ∧
    (joinReloc g d s).hpB = s.hpB ∧
    (joinReloc g d s).pool = s.pool ∧
    (joinReloc g d s).mrg = s.mrg ∧
    (joinReloc g d s).jrn = s.jrn ∧
    (joinReloc g d s).mnt = s.mnt ∧
    (joinReloc g d s).mgA = s.mgA ∧
    (joinReloc g d s).mgB = s.mgB ∧
    (joinReloc g d s).outA = s.outA ∧
    (joinReloc g d s).outB = s.outB ∧
    (joinReloc g d s).outT = s.outT ∧
    (joinReloc g d s).free = s.free ∧
    (joinReloc g d s).pending = s.pending ∧
    (joinReloc g d s).te.link = s.te.link ∧
    (joinReloc g d s).te.capacity = s.te.capacity ∧
    (joinReloc g d s).te.resetWait = s.te.resetWait ∧
    (joinReloc g d s).te.resetDue = s.te.resetDue ∧
    (joinReloc g d s).te.ops = s.te.ops ∧
    (joinReloc g d s).te.hostPtr = s.te.hostPtr ∧
    (joinReloc g d s).te.skip = s.te.skip := by
  unfold joinReloc
  (try dsimp only)
  repeat' split
  all_goals simp [*]

@[simp] theorem issuePiece_frame (c : CmdId) (i : Nat) (s : State) :
    (issuePiece c i s).map = s.map ∧
    (issuePiece c i s).ov = s.ov ∧
    (issuePiece c i s).hpA = s.hpA ∧
    (issuePiece c i s).hpB = s.hpB ∧
    (issuePiece c i s).pool = s.pool ∧
    (issuePiece c i s).mrg = s.mrg ∧
    (issuePiece c i s).jrn = s.jrn ∧
    (issuePiece c i s).mnt = s.mnt ∧
    (issuePiece c i s).mgA = s.mgA ∧
    (issuePiece c i s).mgB = s.mgB ∧
    (issuePiece c i s).outA = s.outA ∧
    (issuePiece c i s).outB = s.outB ∧
    (issuePiece c i s).outT = s.outT ∧
    (issuePiece c i s).free = s.free ∧
    (issuePiece c i s).pending = s.pending ∧
    (issuePiece c i s).adm.next = s.adm.next ∧
    (issuePiece c i s).adm.pause = s.adm.pause ∧
    (issuePiece c i s).adm.deferred = s.adm.deferred ∧
    (issuePiece c i s).adm.order = s.adm.order ∧
    (issuePiece c i s).adm.queueA = s.adm.queueA ∧
    (issuePiece c i s).adm.queueB = s.adm.queueB := by
  unfold issuePiece
  (try dsimp only)
  repeat' split
  all_goals simp [*]

@[simp] theorem retireAlone_frame (region : Nat) (slots : List Nat) (s : State) :
    (retireAlone region slots s).map = s.map ∧
    (retireAlone region slots s).ov = s.ov ∧
    (retireAlone region slots s).adm = s.adm ∧
    (retireAlone region slots s).hpA = s.hpA ∧
    (retireAlone region slots s).hpB = s.hpB ∧
    (retireAlone region slots s).mrg = s.mrg ∧
    (retireAlone region slots s).mnt = s.mnt ∧
    (retireAlone region slots s).outA = s.outA ∧
    (retireAlone region slots s).outB = s.outB ∧
    (retireAlone region slots s).outT = s.outT ∧
    (retireAlone region slots s).free = s.free ∧
    (retireAlone region slots s).pending = s.pending ∧
    (retireAlone region slots s).pool.chargeA = s.pool.chargeA ∧
    (retireAlone region slots s).pool.chargeB = s.pool.chargeB ∧
    (retireAlone region slots s).pool.chargeI = s.pool.chargeI ∧
    (retireAlone region slots s).pool.claimsA = s.pool.claimsA ∧
    (retireAlone region slots s).pool.claimsB = s.pool.claimsB := by
  unfold retireAlone
  (try dsimp only)
  repeat' split
  all_goals simp [*]

@[simp] theorem handPiece_frame (c : CmdId) (i : Nat) (retired : List Nat) (s : State) :
    (handPiece c i retired s).map = s.map ∧
    (handPiece c i retired s).ov = s.ov ∧
    (handPiece c i retired s).hpA = s.hpA ∧
    (handPiece c i retired s).hpB = s.hpB ∧
    (handPiece c i retired s).mrg = s.mrg ∧
    (handPiece c i retired s).mnt = s.mnt ∧
    (handPiece c i retired s).outA = s.outA ∧
    (handPiece c i retired s).outB = s.outB ∧
    (handPiece c i retired s).outT = s.outT ∧
    (handPiece c i retired s).free = s.free ∧
    (handPiece c i retired s).pending = s.pending ∧
    (handPiece c i retired s).adm.next = s.adm.next ∧
    (handPiece c i retired s).adm.pause = s.adm.pause ∧
    (handPiece c i retired s).adm.deferred = s.adm.deferred ∧
    (handPiece c i retired s).adm.queueA = s.adm.queueA ∧
    (handPiece c i retired s).adm.queueB = s.adm.queueB ∧
    (handPiece c i retired s).pool.chargeA = s.pool.chargeA ∧
    (handPiece c i retired s).pool.chargeB = s.pool.chargeB ∧
    (handPiece c i retired s).pool.chargeI = s.pool.chargeI ∧
    (handPiece c i retired s).pool.claimsA = s.pool.claimsA ∧
    (handPiece c i retired s).pool.claimsB = s.pool.claimsB := by
  unfold handPiece
  (try dsimp only)
  repeat' split
  all_goals simp [*]

@[simp] theorem handReady_frame (slot : Nat) (s : State) :
    (handReady slot s).map = s.map ∧
    (handReady slot s).ov = s.ov ∧
    (handReady slot s).hpA = s.hpA ∧
    (handReady slot s).hpB = s.hpB ∧
    (handReady slot s).mrg = s.mrg ∧
    (handReady slot s).mnt = s.mnt ∧
    (handReady slot s).outA = s.outA ∧
    (handReady slot s).outB = s.outB ∧
    (handReady slot s).outT = s.outT ∧
    (handReady slot s).free = s.free ∧
    (handReady slot s).pending = s.pending ∧
    (handReady slot s).adm.next = s.adm.next ∧
    (handReady slot s).adm.pause = s.adm.pause ∧
    (handReady slot s).adm.deferred = s.adm.deferred ∧
    (handReady slot s).adm.queueA = s.adm.queueA ∧
    (handReady slot s).adm.queueB = s.adm.queueB ∧
    (handReady slot s).pool.chargeA = s.pool.chargeA ∧
    (handReady slot s).pool.chargeB = s.pool.chargeB ∧
    (handReady slot s).pool.chargeI = s.pool.chargeI ∧
    (handReady slot s).pool.claimsA = s.pool.claimsA ∧
    (handReady slot s).pool.claimsB = s.pool.claimsB := by
  have fold : ∀ {α : Type} {f : State → α → State} (_ : ∀ s x, (f s x).map = s.map ∧ (f s x).ov = s.ov ∧ (f s x).hpA = s.hpA ∧ (f s x).hpB = s.hpB ∧ (f s x).mrg = s.mrg ∧ (f s x).mnt = s.mnt ∧ (f s x).outA = s.outA ∧ (f s x).outB = s.outB ∧ (f s x).outT = s.outT ∧ (f s x).free = s.free ∧ (f s x).pending = s.pending ∧ (f s x).adm.next = s.adm.next ∧ (f s x).adm.pause = s.adm.pause ∧ (f s x).adm.deferred = s.adm.deferred ∧ (f s x).adm.queueA = s.adm.queueA ∧ (f s x).adm.queueB = s.adm.queueB ∧ (f s x).pool.chargeA = s.pool.chargeA ∧ (f s x).pool.chargeB = s.pool.chargeB ∧ (f s x).pool.chargeI = s.pool.chargeI ∧ (f s x).pool.claimsA = s.pool.claimsA ∧ (f s x).pool.claimsB = s.pool.claimsB) (l : List α) (s : State),
      (l.foldl f s).map = s.map ∧ (l.foldl f s).ov = s.ov ∧ (l.foldl f s).hpA = s.hpA ∧ (l.foldl f s).hpB = s.hpB ∧ (l.foldl f s).mrg = s.mrg ∧ (l.foldl f s).mnt = s.mnt ∧ (l.foldl f s).outA = s.outA ∧ (l.foldl f s).outB = s.outB ∧ (l.foldl f s).outT = s.outT ∧ (l.foldl f s).free = s.free ∧ (l.foldl f s).pending = s.pending ∧ (l.foldl f s).adm.next = s.adm.next ∧ (l.foldl f s).adm.pause = s.adm.pause ∧ (l.foldl f s).adm.deferred = s.adm.deferred ∧ (l.foldl f s).adm.queueA = s.adm.queueA ∧ (l.foldl f s).adm.queueB = s.adm.queueB ∧ (l.foldl f s).pool.chargeA = s.pool.chargeA ∧ (l.foldl f s).pool.chargeB = s.pool.chargeB ∧ (l.foldl f s).pool.chargeI = s.pool.chargeI ∧ (l.foldl f s).pool.claimsA = s.pool.claimsA ∧ (l.foldl f s).pool.claimsB = s.pool.claimsB :=
    fun h l s => foldl_rel (fun s t => t.map = s.map ∧ t.ov = s.ov ∧ t.hpA = s.hpA ∧ t.hpB = s.hpB ∧ t.mrg = s.mrg ∧ t.mnt = s.mnt ∧ t.outA = s.outA ∧ t.outB = s.outB ∧ t.outT = s.outT ∧ t.free = s.free ∧ t.pending = s.pending ∧ t.adm.next = s.adm.next ∧ t.adm.pause = s.adm.pause ∧ t.adm.deferred = s.adm.deferred ∧ t.adm.queueA = s.adm.queueA ∧ t.adm.queueB = s.adm.queueB ∧ t.pool.chargeA = s.pool.chargeA ∧ t.pool.chargeB = s.pool.chargeB ∧ t.pool.chargeI = s.pool.chargeI ∧ t.pool.claimsA = s.pool.claimsA ∧ t.pool.claimsB = s.pool.claimsB) (by simp) (by simp_all) h l s
  unfold handReady
  (try dsimp only)
  repeat' split
  all_goals first
    | (refine fold ?_ _ _
       intro s x
       repeat' split
       all_goals simp [*])
    | simp [*]

@[simp] theorem handReadyAll_frame (slots : List Nat) (s : State) :
    (handReadyAll slots s).map = s.map ∧
    (handReadyAll slots s).ov = s.ov ∧
    (handReadyAll slots s).hpA = s.hpA ∧
    (handReadyAll slots s).hpB = s.hpB ∧
    (handReadyAll slots s).mrg = s.mrg ∧
    (handReadyAll slots s).mnt = s.mnt ∧
    (handReadyAll slots s).outA = s.outA ∧
    (handReadyAll slots s).outB = s.outB ∧
    (handReadyAll slots s).outT = s.outT ∧
    (handReadyAll slots s).free = s.free ∧
    (handReadyAll slots s).pending = s.pending ∧
    (handReadyAll slots s).adm.next = s.adm.next ∧
    (handReadyAll slots s).adm.pause = s.adm.pause ∧
    (handReadyAll slots s).adm.deferred = s.adm.deferred ∧
    (handReadyAll slots s).adm.queueA = s.adm.queueA ∧
    (handReadyAll slots s).adm.queueB = s.adm.queueB ∧
    (handReadyAll slots s).pool.chargeA = s.pool.chargeA ∧
    (handReadyAll slots s).pool.chargeB = s.pool.chargeB ∧
    (handReadyAll slots s).pool.chargeI = s.pool.chargeI ∧
    (handReadyAll slots s).pool.claimsA = s.pool.claimsA ∧
    (handReadyAll slots s).pool.claimsB = s.pool.claimsB := by
  have fold : ∀ {α : Type} {f : State → α → State} (_ : ∀ s x, (f s x).map = s.map ∧ (f s x).ov = s.ov ∧ (f s x).hpA = s.hpA ∧ (f s x).hpB = s.hpB ∧ (f s x).mrg = s.mrg ∧ (f s x).mnt = s.mnt ∧ (f s x).outA = s.outA ∧ (f s x).outB = s.outB ∧ (f s x).outT = s.outT ∧ (f s x).free = s.free ∧ (f s x).pending = s.pending ∧ (f s x).adm.next = s.adm.next ∧ (f s x).adm.pause = s.adm.pause ∧ (f s x).adm.deferred = s.adm.deferred ∧ (f s x).adm.queueA = s.adm.queueA ∧ (f s x).adm.queueB = s.adm.queueB ∧ (f s x).pool.chargeA = s.pool.chargeA ∧ (f s x).pool.chargeB = s.pool.chargeB ∧ (f s x).pool.chargeI = s.pool.chargeI ∧ (f s x).pool.claimsA = s.pool.claimsA ∧ (f s x).pool.claimsB = s.pool.claimsB) (l : List α) (s : State),
      (l.foldl f s).map = s.map ∧ (l.foldl f s).ov = s.ov ∧ (l.foldl f s).hpA = s.hpA ∧ (l.foldl f s).hpB = s.hpB ∧ (l.foldl f s).mrg = s.mrg ∧ (l.foldl f s).mnt = s.mnt ∧ (l.foldl f s).outA = s.outA ∧ (l.foldl f s).outB = s.outB ∧ (l.foldl f s).outT = s.outT ∧ (l.foldl f s).free = s.free ∧ (l.foldl f s).pending = s.pending ∧ (l.foldl f s).adm.next = s.adm.next ∧ (l.foldl f s).adm.pause = s.adm.pause ∧ (l.foldl f s).adm.deferred = s.adm.deferred ∧ (l.foldl f s).adm.queueA = s.adm.queueA ∧ (l.foldl f s).adm.queueB = s.adm.queueB ∧ (l.foldl f s).pool.chargeA = s.pool.chargeA ∧ (l.foldl f s).pool.chargeB = s.pool.chargeB ∧ (l.foldl f s).pool.chargeI = s.pool.chargeI ∧ (l.foldl f s).pool.claimsA = s.pool.claimsA ∧ (l.foldl f s).pool.claimsB = s.pool.claimsB :=
    fun h l s => foldl_rel (fun s t => t.map = s.map ∧ t.ov = s.ov ∧ t.hpA = s.hpA ∧ t.hpB = s.hpB ∧ t.mrg = s.mrg ∧ t.mnt = s.mnt ∧ t.outA = s.outA ∧ t.outB = s.outB ∧ t.outT = s.outT ∧ t.free = s.free ∧ t.pending = s.pending ∧ t.adm.next = s.adm.next ∧ t.adm.pause = s.adm.pause ∧ t.adm.deferred = s.adm.deferred ∧ t.adm.queueA = s.adm.queueA ∧ t.adm.queueB = s.adm.queueB ∧ t.pool.chargeA = s.pool.chargeA ∧ t.pool.chargeB = s.pool.chargeB ∧ t.pool.chargeI = s.pool.chargeI ∧ t.pool.claimsA = s.pool.claimsA ∧ t.pool.claimsB = s.pool.claimsB) (by simp) (by simp_all) h l s
  unfold handReadyAll
  (try dsimp only)
  repeat' split
  all_goals first
    | (refine fold ?_ _ _
       intro s x
       repeat' split
       all_goals simp [*])
    | simp [*]

@[simp] theorem takeOutOfService_frame (g : Nat) (slot : Nat) (s : State) :
    (takeOutOfService g slot s).2.map = s.map ∧
    (takeOutOfService g slot s).2.adm = s.adm ∧
    (takeOutOfService g slot s).2.hpA = s.hpA ∧
    (takeOutOfService g slot s).2.hpB = s.hpB ∧
    (takeOutOfService g slot s).2.te = s.te ∧
    (takeOutOfService g slot s).2.pool = s.pool ∧
    (takeOutOfService g slot s).2.mrg = s.mrg ∧
    (takeOutOfService g slot s).2.jrn = s.jrn ∧
    (takeOutOfService g slot s).2.mnt = s.mnt ∧
    (takeOutOfService g slot s).2.mgA = s.mgA ∧
    (takeOutOfService g slot s).2.mgB = s.mgB ∧
    (takeOutOfService g slot s).2.outA = s.outA ∧
    (takeOutOfService g slot s).2.outB = s.outB ∧
    (takeOutOfService g slot s).2.outT = s.outT ∧
    (takeOutOfService g slot s).2.free = s.free ∧
    (takeOutOfService g slot s).2.pending = s.pending ∧
    (takeOutOfService g slot s).2.ov.table = s.ov.table ∧
    (takeOutOfService g slot s).2.ov.ring = s.ov.ring ∧
    (takeOutOfService g slot s).2.ov.slots = s.ov.slots ∧
    (takeOutOfService g slot s).2.ov.pendingFree = s.ov.pendingFree ∧
    (takeOutOfService g slot s).2.ov.armed = s.ov.armed := by
  unfold takeOutOfService
  (try dsimp only)
  repeat' split
  all_goals simp [*]

@[simp] theorem relocReads_frame (g : Nat) (m : Mask) (s : State) :
    (relocReads g m s).map = s.map ∧
    (relocReads g m s).ov = s.ov ∧
    (relocReads g m s).adm = s.adm ∧
    (relocReads g m s).hpA = s.hpA ∧
    (relocReads g m s).hpB = s.hpB ∧
    (relocReads g m s).pool = s.pool ∧
    (relocReads g m s).mrg = s.mrg ∧
    (relocReads g m s).jrn = s.jrn ∧
    (relocReads g m s).mnt = s.mnt ∧
    (relocReads g m s).mgA = s.mgA ∧
    (relocReads g m s).mgB = s.mgB ∧
    (relocReads g m s).outA = s.outA ∧
    (relocReads g m s).outB = s.outB ∧
    (relocReads g m s).outT = s.outT ∧
    (relocReads g m s).free = s.free ∧
    (relocReads g m s).pending = s.pending ∧
    (relocReads g m s).te.link = s.te.link ∧
    (relocReads g m s).te.capacity = s.te.capacity ∧
    (relocReads g m s).te.resetWait = s.te.resetWait ∧
    (relocReads g m s).te.resetDue = s.te.resetDue ∧
    (relocReads g m s).te.ops = s.te.ops ∧
    (relocReads g m s).te.relocs = s.te.relocs ∧
    (relocReads g m s).te.intervals = s.te.intervals ∧
    (relocReads g m s).te.hostPtr = s.te.hostPtr ∧
    (relocReads g m s).te.skip = s.te.skip ∧
    (relocReads g m s).te.journalQ = s.te.journalQ ∧
    (relocReads g m s).te.hostAQ = s.te.hostAQ ∧
    (relocReads g m s).te.hostBQ = s.te.hostBQ ∧
    (relocReads g m s).te.backQ = s.te.backQ := by
  have fold : ∀ {α : Type} {f : State → α → State} (_ : ∀ s x, (f s x).map = s.map ∧ (f s x).ov = s.ov ∧ (f s x).adm = s.adm ∧ (f s x).hpA = s.hpA ∧ (f s x).hpB = s.hpB ∧ (f s x).pool = s.pool ∧ (f s x).mrg = s.mrg ∧ (f s x).jrn = s.jrn ∧ (f s x).mnt = s.mnt ∧ (f s x).mgA = s.mgA ∧ (f s x).mgB = s.mgB ∧ (f s x).outA = s.outA ∧ (f s x).outB = s.outB ∧ (f s x).outT = s.outT ∧ (f s x).free = s.free ∧ (f s x).pending = s.pending ∧ (f s x).te.link = s.te.link ∧ (f s x).te.capacity = s.te.capacity ∧ (f s x).te.resetWait = s.te.resetWait ∧ (f s x).te.resetDue = s.te.resetDue ∧ (f s x).te.ops = s.te.ops ∧ (f s x).te.relocs = s.te.relocs ∧ (f s x).te.intervals = s.te.intervals ∧ (f s x).te.hostPtr = s.te.hostPtr ∧ (f s x).te.skip = s.te.skip ∧ (f s x).te.journalQ = s.te.journalQ ∧ (f s x).te.hostAQ = s.te.hostAQ ∧ (f s x).te.hostBQ = s.te.hostBQ ∧ (f s x).te.backQ = s.te.backQ) (l : List α) (s : State),
      (l.foldl f s).map = s.map ∧ (l.foldl f s).ov = s.ov ∧ (l.foldl f s).adm = s.adm ∧ (l.foldl f s).hpA = s.hpA ∧ (l.foldl f s).hpB = s.hpB ∧ (l.foldl f s).pool = s.pool ∧ (l.foldl f s).mrg = s.mrg ∧ (l.foldl f s).jrn = s.jrn ∧ (l.foldl f s).mnt = s.mnt ∧ (l.foldl f s).mgA = s.mgA ∧ (l.foldl f s).mgB = s.mgB ∧ (l.foldl f s).outA = s.outA ∧ (l.foldl f s).outB = s.outB ∧ (l.foldl f s).outT = s.outT ∧ (l.foldl f s).free = s.free ∧ (l.foldl f s).pending = s.pending ∧ (l.foldl f s).te.link = s.te.link ∧ (l.foldl f s).te.capacity = s.te.capacity ∧ (l.foldl f s).te.resetWait = s.te.resetWait ∧ (l.foldl f s).te.resetDue = s.te.resetDue ∧ (l.foldl f s).te.ops = s.te.ops ∧ (l.foldl f s).te.relocs = s.te.relocs ∧ (l.foldl f s).te.intervals = s.te.intervals ∧ (l.foldl f s).te.hostPtr = s.te.hostPtr ∧ (l.foldl f s).te.skip = s.te.skip ∧ (l.foldl f s).te.journalQ = s.te.journalQ ∧ (l.foldl f s).te.hostAQ = s.te.hostAQ ∧ (l.foldl f s).te.hostBQ = s.te.hostBQ ∧ (l.foldl f s).te.backQ = s.te.backQ :=
    fun h l s => foldl_rel (fun s t => t.map = s.map ∧ t.ov = s.ov ∧ t.adm = s.adm ∧ t.hpA = s.hpA ∧ t.hpB = s.hpB ∧ t.pool = s.pool ∧ t.mrg = s.mrg ∧ t.jrn = s.jrn ∧ t.mnt = s.mnt ∧ t.mgA = s.mgA ∧ t.mgB = s.mgB ∧ t.outA = s.outA ∧ t.outB = s.outB ∧ t.outT = s.outT ∧ t.free = s.free ∧ t.pending = s.pending ∧ t.te.link = s.te.link ∧ t.te.capacity = s.te.capacity ∧ t.te.resetWait = s.te.resetWait ∧ t.te.resetDue = s.te.resetDue ∧ t.te.ops = s.te.ops ∧ t.te.relocs = s.te.relocs ∧ t.te.intervals = s.te.intervals ∧ t.te.hostPtr = s.te.hostPtr ∧ t.te.skip = s.te.skip ∧ t.te.journalQ = s.te.journalQ ∧ t.te.hostAQ = s.te.hostAQ ∧ t.te.hostBQ = s.te.hostBQ ∧ t.te.backQ = s.te.backQ) (by simp) (by simp_all) h l s
  unfold relocReads
  (try dsimp only)
  repeat' split
  all_goals first
    | (refine fold ?_ _ _
       intro s x
       repeat' split
       all_goals simp [*, newRequest, TransferEngine.setQueue])
    | simp [*]

@[simp] theorem endPieces_frame (deps : List Dependant) (st : PieceState) (latest : Option Nat) (s : State) :
    (endPieces deps st latest s).map = s.map ∧
    (endPieces deps st latest s).ov = s.ov ∧
    (endPieces deps st latest s).hpA = s.hpA ∧
    (endPieces deps st latest s).hpB = s.hpB ∧
    (endPieces deps st latest s).te = s.te ∧
    (endPieces deps st latest s).mrg = s.mrg ∧
    (endPieces deps st latest s).jrn = s.jrn ∧
    (endPieces deps st latest s).mnt = s.mnt ∧
    (endPieces deps st latest s).mgA = s.mgA ∧
    (endPieces deps st latest s).mgB = s.mgB ∧
    (endPieces deps st latest s).outA = s.outA ∧
    (endPieces deps st latest s).outB = s.outB ∧
    (endPieces deps st latest s).outT = s.outT ∧
    (endPieces deps st latest s).free = s.free ∧
    (endPieces deps st latest s).pending = s.pending ∧
    (endPieces deps st latest s).adm.next = s.adm.next ∧
    (endPieces deps st latest s).adm.pause = s.adm.pause ∧
    (endPieces deps st latest s).adm.deferred = s.adm.deferred ∧
    (endPieces deps st latest s).adm.order = s.adm.order ∧
    (endPieces deps st latest s).adm.queueA = s.adm.queueA ∧
    (endPieces deps st latest s).adm.queueB = s.adm.queueB := by
  have fold : ∀ {α : Type} {f : State → α → State} (_ : ∀ s x, (f s x).map = s.map ∧ (f s x).ov = s.ov ∧ (f s x).hpA = s.hpA ∧ (f s x).hpB = s.hpB ∧ (f s x).te = s.te ∧ (f s x).mrg = s.mrg ∧ (f s x).jrn = s.jrn ∧ (f s x).mnt = s.mnt ∧ (f s x).mgA = s.mgA ∧ (f s x).mgB = s.mgB ∧ (f s x).outA = s.outA ∧ (f s x).outB = s.outB ∧ (f s x).outT = s.outT ∧ (f s x).free = s.free ∧ (f s x).pending = s.pending ∧ (f s x).adm.next = s.adm.next ∧ (f s x).adm.pause = s.adm.pause ∧ (f s x).adm.deferred = s.adm.deferred ∧ (f s x).adm.order = s.adm.order ∧ (f s x).adm.queueA = s.adm.queueA ∧ (f s x).adm.queueB = s.adm.queueB) (l : List α) (s : State),
      (l.foldl f s).map = s.map ∧ (l.foldl f s).ov = s.ov ∧ (l.foldl f s).hpA = s.hpA ∧ (l.foldl f s).hpB = s.hpB ∧ (l.foldl f s).te = s.te ∧ (l.foldl f s).mrg = s.mrg ∧ (l.foldl f s).jrn = s.jrn ∧ (l.foldl f s).mnt = s.mnt ∧ (l.foldl f s).mgA = s.mgA ∧ (l.foldl f s).mgB = s.mgB ∧ (l.foldl f s).outA = s.outA ∧ (l.foldl f s).outB = s.outB ∧ (l.foldl f s).outT = s.outT ∧ (l.foldl f s).free = s.free ∧ (l.foldl f s).pending = s.pending ∧ (l.foldl f s).adm.next = s.adm.next ∧ (l.foldl f s).adm.pause = s.adm.pause ∧ (l.foldl f s).adm.deferred = s.adm.deferred ∧ (l.foldl f s).adm.order = s.adm.order ∧ (l.foldl f s).adm.queueA = s.adm.queueA ∧ (l.foldl f s).adm.queueB = s.adm.queueB :=
    fun h l s => foldl_rel (fun s t => t.map = s.map ∧ t.ov = s.ov ∧ t.hpA = s.hpA ∧ t.hpB = s.hpB ∧ t.te = s.te ∧ t.mrg = s.mrg ∧ t.jrn = s.jrn ∧ t.mnt = s.mnt ∧ t.mgA = s.mgA ∧ t.mgB = s.mgB ∧ t.outA = s.outA ∧ t.outB = s.outB ∧ t.outT = s.outT ∧ t.free = s.free ∧ t.pending = s.pending ∧ t.adm.next = s.adm.next ∧ t.adm.pause = s.adm.pause ∧ t.adm.deferred = s.adm.deferred ∧ t.adm.order = s.adm.order ∧ t.adm.queueA = s.adm.queueA ∧ t.adm.queueB = s.adm.queueB) (by simp) (by simp_all) h l s
  unfold endPieces
  (try dsimp only)
  repeat' split
  all_goals first
    | (refine fold ?_ _ _
       intro s x
       repeat' split
       all_goals simp [*])
    | simp [*]

@[simp] theorem failDependants_frame (deps : List Dependant) (res : Result) (s : State) :
    (failDependants deps res s).mrg = s.mrg ∧
    (failDependants deps res s).mnt = s.mnt ∧
    (failDependants deps res s).mgA = s.mgA ∧
    (failDependants deps res s).mgB = s.mgB ∧
    (failDependants deps res s).outT = s.outT ∧
    (failDependants deps res s).free = s.free ∧
    (failDependants deps res s).pending = s.pending ∧
    (failDependants deps res s).te.link = s.te.link ∧
    (failDependants deps res s).te.capacity = s.te.capacity ∧
    (failDependants deps res s).te.resetWait = s.te.resetWait ∧
    (failDependants deps res s).te.resetDue = s.te.resetDue ∧
    (failDependants deps res s).te.hostPtr = s.te.hostPtr ∧
    (failDependants deps res s).te.skip = s.te.skip ∧
    (failDependants deps res s).map.hold = s.map.hold ∧
    (failDependants deps res s).map.layout = s.map.layout ∧
    (failDependants deps res s).map.active = s.map.active ∧
    (failDependants deps res s).map.stage = s.map.stage ∧
    (failDependants deps res s).map.formatId = s.map.formatId ∧
    (failDependants deps res s).map.anchorGen = s.map.anchorGen ∧
    (failDependants deps res s).map.anchorCopy = s.map.anchorCopy ∧
    (failDependants deps res s).map.unavailable = s.map.unavailable ∧
    (failDependants deps res s).ov.table = s.ov.table ∧
    (failDependants deps res s).ov.retired = s.ov.retired ∧
    (failDependants deps res s).ov.slots = s.ov.slots ∧
    (failDependants deps res s).ov.condemned = s.ov.condemned ∧
    (failDependants deps res s).ov.pendingFree = s.ov.pendingFree ∧
    (failDependants deps res s).jrn.cond = s.jrn.cond ∧
    (failDependants deps res s).jrn.run = s.jrn.run ∧
    (failDependants deps res s).jrn.openBuf = s.jrn.openBuf ∧
    (failDependants deps res s).jrn.inFlight = s.jrn.inFlight ∧
    (failDependants deps res s).jrn.qNext = s.jrn.qNext ∧
    (failDependants deps res s).jrn.sCk = s.jrn.sCk ∧
    (failDependants deps res s).jrn.newest = s.jrn.newest ∧
    (failDependants deps res s).jrn.newestGen = s.jrn.newestGen ∧
    (failDependants deps res s).jrn.fates = s.jrn.fates ∧
    (failDependants deps res s).jrn.nextId = s.jrn.nextId ∧
    (failDependants deps res s).jrn.nextRun = s.jrn.nextRun := by
  have fold : ∀ {α : Type} {f : State → α → State} (_ : ∀ s x, (f s x).mrg = s.mrg ∧ (f s x).mnt = s.mnt ∧ (f s x).mgA = s.mgA ∧ (f s x).mgB = s.mgB ∧ (f s x).outT = s.outT ∧ (f s x).free = s.free ∧ (f s x).pending = s.pending ∧ (f s x).te.link = s.te.link ∧ (f s x).te.capacity = s.te.capacity ∧ (f s x).te.resetWait = s.te.resetWait ∧ (f s x).te.resetDue = s.te.resetDue ∧ (f s x).te.hostPtr = s.te.hostPtr ∧ (f s x).te.skip = s.te.skip ∧ (f s x).map.hold = s.map.hold ∧ (f s x).map.layout = s.map.layout ∧ (f s x).map.active = s.map.active ∧ (f s x).map.stage = s.map.stage ∧ (f s x).map.formatId = s.map.formatId ∧ (f s x).map.anchorGen = s.map.anchorGen ∧ (f s x).map.anchorCopy = s.map.anchorCopy ∧ (f s x).map.unavailable = s.map.unavailable ∧ (f s x).ov.table = s.ov.table ∧ (f s x).ov.retired = s.ov.retired ∧ (f s x).ov.slots = s.ov.slots ∧ (f s x).ov.condemned = s.ov.condemned ∧ (f s x).ov.pendingFree = s.ov.pendingFree ∧ (f s x).jrn.cond = s.jrn.cond ∧ (f s x).jrn.run = s.jrn.run ∧ (f s x).jrn.openBuf = s.jrn.openBuf ∧ (f s x).jrn.inFlight = s.jrn.inFlight ∧ (f s x).jrn.qNext = s.jrn.qNext ∧ (f s x).jrn.sCk = s.jrn.sCk ∧ (f s x).jrn.newest = s.jrn.newest ∧ (f s x).jrn.newestGen = s.jrn.newestGen ∧ (f s x).jrn.fates = s.jrn.fates ∧ (f s x).jrn.nextId = s.jrn.nextId ∧ (f s x).jrn.nextRun = s.jrn.nextRun) (l : List α) (s : State),
      (l.foldl f s).mrg = s.mrg ∧ (l.foldl f s).mnt = s.mnt ∧ (l.foldl f s).mgA = s.mgA ∧ (l.foldl f s).mgB = s.mgB ∧ (l.foldl f s).outT = s.outT ∧ (l.foldl f s).free = s.free ∧ (l.foldl f s).pending = s.pending ∧ (l.foldl f s).te.link = s.te.link ∧ (l.foldl f s).te.capacity = s.te.capacity ∧ (l.foldl f s).te.resetWait = s.te.resetWait ∧ (l.foldl f s).te.resetDue = s.te.resetDue ∧ (l.foldl f s).te.hostPtr = s.te.hostPtr ∧ (l.foldl f s).te.skip = s.te.skip ∧ (l.foldl f s).map.hold = s.map.hold ∧ (l.foldl f s).map.layout = s.map.layout ∧ (l.foldl f s).map.active = s.map.active ∧ (l.foldl f s).map.stage = s.map.stage ∧ (l.foldl f s).map.formatId = s.map.formatId ∧ (l.foldl f s).map.anchorGen = s.map.anchorGen ∧ (l.foldl f s).map.anchorCopy = s.map.anchorCopy ∧ (l.foldl f s).map.unavailable = s.map.unavailable ∧ (l.foldl f s).ov.table = s.ov.table ∧ (l.foldl f s).ov.retired = s.ov.retired ∧ (l.foldl f s).ov.slots = s.ov.slots ∧ (l.foldl f s).ov.condemned = s.ov.condemned ∧ (l.foldl f s).ov.pendingFree = s.ov.pendingFree ∧ (l.foldl f s).jrn.cond = s.jrn.cond ∧ (l.foldl f s).jrn.run = s.jrn.run ∧ (l.foldl f s).jrn.openBuf = s.jrn.openBuf ∧ (l.foldl f s).jrn.inFlight = s.jrn.inFlight ∧ (l.foldl f s).jrn.qNext = s.jrn.qNext ∧ (l.foldl f s).jrn.sCk = s.jrn.sCk ∧ (l.foldl f s).jrn.newest = s.jrn.newest ∧ (l.foldl f s).jrn.newestGen = s.jrn.newestGen ∧ (l.foldl f s).jrn.fates = s.jrn.fates ∧ (l.foldl f s).jrn.nextId = s.jrn.nextId ∧ (l.foldl f s).jrn.nextRun = s.jrn.nextRun :=
    fun h l s => foldl_rel (fun s t => t.mrg = s.mrg ∧ t.mnt = s.mnt ∧ t.mgA = s.mgA ∧ t.mgB = s.mgB ∧ t.outT = s.outT ∧ t.free = s.free ∧ t.pending = s.pending ∧ t.te.link = s.te.link ∧ t.te.capacity = s.te.capacity ∧ t.te.resetWait = s.te.resetWait ∧ t.te.resetDue = s.te.resetDue ∧ t.te.hostPtr = s.te.hostPtr ∧ t.te.skip = s.te.skip ∧ t.map.hold = s.map.hold ∧ t.map.layout = s.map.layout ∧ t.map.active = s.map.active ∧ t.map.stage = s.map.stage ∧ t.map.formatId = s.map.formatId ∧ t.map.anchorGen = s.map.anchorGen ∧ t.map.anchorCopy = s.map.anchorCopy ∧ t.map.unavailable = s.map.unavailable ∧ t.ov.table = s.ov.table ∧ t.ov.retired = s.ov.retired ∧ t.ov.slots = s.ov.slots ∧ t.ov.condemned = s.ov.condemned ∧ t.ov.pendingFree = s.ov.pendingFree ∧ t.jrn.cond = s.jrn.cond ∧ t.jrn.run = s.jrn.run ∧ t.jrn.openBuf = s.jrn.openBuf ∧ t.jrn.inFlight = s.jrn.inFlight ∧ t.jrn.qNext = s.jrn.qNext ∧ t.jrn.sCk = s.jrn.sCk ∧ t.jrn.newest = s.jrn.newest ∧ t.jrn.newestGen = s.jrn.newestGen ∧ t.jrn.fates = s.jrn.fates ∧ t.jrn.nextId = s.jrn.nextId ∧ t.jrn.nextRun = s.jrn.nextRun) (by simp) (by simp_all) h l s
  unfold failDependants
  (try dsimp only)
  repeat' split
  all_goals first
    | (refine fold ?_ _ _
       intro s x
       repeat' split
       all_goals simp [*])
    | simp [*]

@[simp] theorem relocNotices_frame (region : Nat) (grain : Nat) (retired : List Nat) (anyLost : Bool) (s : State) :
    (relocNotices region grain retired anyLost s).map = s.map ∧
    (relocNotices region grain retired anyLost s).ov = s.ov ∧
    (relocNotices region grain retired anyLost s).adm = s.adm ∧
    (relocNotices region grain retired anyLost s).hpA = s.hpA ∧
    (relocNotices region grain retired anyLost s).hpB = s.hpB ∧
    (relocNotices region grain retired anyLost s).te = s.te ∧
    (relocNotices region grain retired anyLost s).pool = s.pool ∧
    (relocNotices region grain retired anyLost s).mrg = s.mrg ∧
    (relocNotices region grain retired anyLost s).jrn = s.jrn ∧
    (relocNotices region grain retired anyLost s).mnt = s.mnt ∧
    (relocNotices region grain retired anyLost s).outA = s.outA ∧
    (relocNotices region grain retired anyLost s).outB = s.outB ∧
    (relocNotices region grain retired anyLost s).outT = s.outT ∧
    (relocNotices region grain retired anyLost s).free = s.free ∧
    (relocNotices region grain retired anyLost s).pending = s.pending := by
  unfold relocNotices
  (try dsimp only)
  repeat' split
  all_goals simp [*]

@[simp] theorem clearReloc_frame (r : Reloc) (s : State) :
    (clearReloc r s).map = s.map ∧
    (clearReloc r s).ov = s.ov ∧
    (clearReloc r s).adm = s.adm ∧
    (clearReloc r s).hpA = s.hpA ∧
    (clearReloc r s).hpB = s.hpB ∧
    (clearReloc r s).mrg = s.mrg ∧
    (clearReloc r s).jrn = s.jrn ∧
    (clearReloc r s).mnt = s.mnt ∧
    (clearReloc r s).mgA = s.mgA ∧
    (clearReloc r s).mgB = s.mgB ∧
    (clearReloc r s).outA = s.outA ∧
    (clearReloc r s).outB = s.outB ∧
    (clearReloc r s).outT = s.outT ∧
    (clearReloc r s).free = s.free ∧
    (clearReloc r s).pending = s.pending ∧
    (clearReloc r s).te.link = s.te.link ∧
    (clearReloc r s).te.capacity = s.te.capacity ∧
    (clearReloc r s).te.resetWait = s.te.resetWait ∧
    (clearReloc r s).te.resetDue = s.te.resetDue ∧
    (clearReloc r s).te.ops = s.te.ops ∧
    (clearReloc r s).te.hostPtr = s.te.hostPtr ∧
    (clearReloc r s).te.skip = s.te.skip ∧
    (clearReloc r s).pool.chargeA = s.pool.chargeA ∧
    (clearReloc r s).pool.chargeB = s.pool.chargeB ∧
    (clearReloc r s).pool.claimsA = s.pool.claimsA ∧
    (clearReloc r s).pool.claimsB = s.pool.claimsB := by
  unfold clearReloc
  (try dsimp only)
  repeat' split
  all_goals simp [*, BufferPool.setClaims, BufferPool.setCharge, BufferPool.charge, BufferPool.claims, dropClaims]

end Sys2Proof.Machine
end

