-- ==== Sys2Proof/Laws/Store.lean ====
section
/-! SUPPORT. The overlay store under its operations: the order of the tables, the mask conditions, and the account of the
slots. Each lemma says that an operation keeps the store well formed, or what a change of one list does to the account. -/

namespace Sys2Proof.Machine

/-! ## Masks (R21) -/

theorem mask_zero_iff {m : Mask} : m = 0 ↔ ∀ i < 8, m.getLsbD i = false := by
  constructor
  · rintro rfl i _
    simp
  · intro h
    refine BitVec.eq_of_getLsbD_eq ?_
    intro i hi
    simp [h i hi]

theorem mask_written {p l m : Mask} (hd : p &&& l = 0) : (p ||| m) &&& maskLess l m = 0 := by
  rw [mask_zero_iff] at *
  intro i hi
  have := hd i hi
  simp only [maskLess, BitVec.getLsbD_and, BitVec.getLsbD_or, BitVec.getLsbD_not, hi, decide_true, Bool.true_and] at *
  grind

theorem mask_or_ne_zero {p m : Mask} (h : m ≠ 0) : p ||| m ≠ 0 := by
  intro e
  refine h (mask_zero_iff.2 fun i hi => ?_)
  have := mask_zero_iff.1 e i hi
  simp only [BitVec.getLsbD_or, Bool.or_eq_false_iff] at this
  exact this.2

theorem mask_or_ne_zero' {p m : Mask} (h : p ≠ 0) : p ||| m ≠ 0 := by
  rw [BitVec.or_comm]
  exact mask_or_ne_zero h

theorem mask_lost {p l k : Mask} (hd : p &&& l = 0) : maskLess p (p &&& k) &&& (l ||| (p &&& k)) = 0 := by
  rw [mask_zero_iff] at *
  intro i hi
  have := hd i hi
  simp only [maskLess, BitVec.getLsbD_and, BitVec.getLsbD_or, BitVec.getLsbD_not, hi, decide_true, Bool.true_and] at *
  grind

theorem mask_less_self {p l : Mask} : p &&& maskLess l p = 0 := by
  rw [mask_zero_iff]
  intro i hi
  simp only [maskLess, BitVec.getLsbD_and, BitVec.getLsbD_not, hi, decide_true, Bool.true_and]
  grind

theorem maskConditions_some {n : Nat} {p l : Mask} :
    maskConditions (some n) p l = true ↔ p &&& l = 0 ∧ p ≠ 0 := by simp [maskConditions]

theorem maskConditions_none {p l : Mask} : maskConditions none p l = true ↔ p = 0 ∧ l ≠ 0 := by
  simp only [maskConditions, Bool.and_eq_true, decide_eq_true_eq]
  constructor
  · exact fun h => h.2
  · rintro ⟨rfl, h⟩
    exact ⟨by simp, rfl, h⟩

theorem maskConditions_disjoint {o : Option Nat} {p l : Mask} (h : maskConditions o p l = true) : p &&& l = 0 := by
  unfold maskConditions at h
  simp only [Bool.and_eq_true, decide_eq_true_eq] at h
  exact h.1

/-- An entry that meets the conditions holds a block, present or lost. -/
theorem maskConditions_ne_zero {o : Option Nat} {p l : Mask} (h : maskConditions o p l = true) : p ||| l ≠ 0 := by
  cases o with
  | none => exact mask_or_ne_zero (maskConditions_none.1 h).2
  | some n => exact mask_or_ne_zero' (maskConditions_some.1 h).2

/-! ## Ordered lists -/

theorem mem_insertEntry {e y : Entry} {l : List Entry} (h : y ∈ insertEntry e l) : y = e ∨ y ∈ l := by
  induction l with
  | nil => simpa [insertEntry] using h
  | cons x xs ih =>
    unfold insertEntry at h
    split at h
    · rcases List.mem_cons.1 h with h | h
      · exact Or.inr (by simp [h])
      · rcases ih h with h | h
        · exact Or.inl h
        · exact Or.inr (by simp [h])
    · split at h
      · rcases List.mem_cons.1 h with h | h
        · exact Or.inl h
        · exact Or.inr (by simp [h])
      · simpa using h

theorem insertEntry_ordered {e : Entry} {l : List Entry} (h : (l.map (·.grain)).Pairwise (· < ·)) :
    ((insertEntry e l).map (·.grain)).Pairwise (· < ·) := by
  induction l with
  | nil => simp [insertEntry]
  | cons x xs ih =>
    have hx := List.pairwise_cons.1 h
    unfold insertEntry
    split
    · refine List.pairwise_cons.2 ⟨?_, ih hx.2⟩
      intro g hg
      rcases List.mem_map.1 hg with ⟨y, hy, rfl⟩
      rcases mem_insertEntry hy with rfl | hy
      · assumption
      · exact hx.1 _ (List.mem_map.2 ⟨y, hy, rfl⟩)
    · split
      · rename_i he
        refine List.pairwise_cons.2 ⟨?_, hx.2⟩
        intro g hg
        have := hx.1 g hg
        dsimp only at this ⊢
        omega
      · refine List.pairwise_cons.2 ⟨?_, h⟩
        intro g hg
        rcases List.mem_cons.1 hg with rfl | hg
        · dsimp only at *
          omega
        · have := hx.1 g hg
          dsimp only at this ⊢
          omega

theorem filter_ordered {α : Type} {f : α → Nat} {l : List α} (p : α → Bool) (h : (l.map f).Pairwise (· < ·)) :
    ((l.filter p).map f).Pairwise (· < ·) := h.sublist (List.filter_sublist.map f)

theorem map_ordered {α : Type} {f : α → Nat} {l : List α} {g : α → α} (hg : ∀ x, f (g x) = f x)
    (h : (l.map f).Pairwise (· < ·)) : ((l.map g).map f).Pairwise (· < ·) := by
  rw [List.map_map]
  have : f ∘ g = f := funext hg
  rwa [this]

/-! ## Counting slots -/

/-- One when an optional slot is the one counted. -/
def hits (o : Option Nat) (n : Nat) : Nat := if o = some n then 1 else 0

@[simp] theorem hits_none (n : Nat) : hits none n = 0 := rfl

theorem hits_some (k n : Nat) : hits (some k) n = if k = n then 1 else 0 := by simp [hits]

theorem count_filterMap_cons {α : Type} (f : α → Option Nat) (x : α) (l : List α) (n : Nat) :
    ((x :: l).filterMap f).count n = hits (f x) n + (l.filterMap f).count n := by
  cases h : f x with
  | none => simp [h]
  | some k =>
    simp only [List.filterMap_cons, h, List.count_cons, hits_some, beq_iff_eq]
    omega

theorem find?_grain_none_of_lt {g : Nat} {l : List Entry} (h : ∀ x ∈ l, g < x.grain) :
    l.find? (fun e => e.grain == g) = none := by
  rw [List.find?_eq_none]
  intro x hx
  have := h x hx
  simp only [beq_iff_eq]
  omega

theorem count_insertEntry {e : Entry} {l : List Entry} (h : (l.map (·.grain)).Pairwise (· < ·)) (n : Nat) :
    ((insertEntry e l).filterMap (·.slot)).count n + hits ((l.find? fun x => x.grain == e.grain).bind (·.slot)) n =
      (l.filterMap (·.slot)).count n + hits e.slot n := by
  induction l with
  | nil => simp [insertEntry, count_filterMap_cons]
  | cons x xs ih =>
    have hx := List.pairwise_cons.1 h
    have hlt : ∀ y ∈ xs, x.grain < y.grain := fun y hy => hx.1 _ (List.mem_map.2 ⟨y, hy, rfl⟩)
    unfold insertEntry
    split
    · rename_i hl
      have hne : (x.grain == e.grain) = false := by simp; omega
      have := ih hx.2
      simp only [count_filterMap_cons, List.find?_cons, hne]
      omega
    · split
      · rename_i he
        have hbe : (x.grain == e.grain) = true := by simp [he]
        simp only [count_filterMap_cons, List.find?_cons, hbe, Option.bind_some]
        omega
      · rename_i h1 h2
        have hnone : (x :: xs).find? (fun y => y.grain == e.grain) = none := by
          refine find?_grain_none_of_lt ?_
          intro y hy
          rcases List.mem_cons.1 hy with rfl | hy
          · omega
          · have := hlt y hy
            omega
        rw [hnone]
        simp only [count_filterMap_cons, Option.bind_none, hits_none]
        omega

theorem count_removeEntry {g : Nat} {l : List Entry} (h : (l.map (·.grain)).Pairwise (· < ·)) (n : Nat) :
    ((l.filter fun e => decide (e.grain ≠ g)).filterMap (·.slot)).count n +
        hits ((l.find? fun x => x.grain == g).bind (·.slot)) n = (l.filterMap (·.slot)).count n := by
  induction l with
  | nil => simp
  | cons x xs ih =>
    have hx := List.pairwise_cons.1 h
    by_cases he : x.grain = g
    · have hall : (xs.filter fun e => decide (e.grain ≠ g)) = xs := by
        refine List.filter_eq_self.2 ?_
        intro y hy
        have : x.grain < y.grain := hx.1 _ (List.mem_map.2 ⟨y, hy, rfl⟩)
        simp only [decide_eq_true_eq]
        omega
      have hbe : (x.grain == g) = true := by simp [he]
      simp only [List.filter_cons, he, ne_eq, not_true, decide_false, Bool.false_eq_true, if_false, List.find?_cons, hbe,
        Option.bind_some, count_filterMap_cons]
      have : xs.filter (fun e => decide (¬ e.grain = g)) = xs := hall
      rw [this]
      simp
      omega
    · have hbe : (x.grain == g) = false := by simp [he]
      have := ih hx.2
      simp only [List.filter_cons, he, ne_eq, not_false_iff, decide_true, if_true, List.find?_cons, hbe,
        count_filterMap_cons] at *
      omega

theorem count_mapState {f : Entry → Entry} (hf : ∀ e, (f e).slot = e.slot) (l : List Entry) :
    (l.map f).filterMap (·.slot) = l.filterMap (·.slot) := by
  rw [List.filterMap_map]
  congr 1
  exact funext hf

theorem find?_map_entry {f : Entry → Entry} (hf : ∀ e, (f e).grain = e.grain) (g : Nat) (l : List Entry) :
    (l.map f).find? (fun e => e.grain == g) = (l.find? fun e => e.grain == g).map f := by
  rw [List.find?_map]
  congr 2
  funext e
  simp [hf]

theorem count_eraseP_slot {g : Nat} {l : List Reservation} {r : Reservation} (h : l.find? (fun x => x.grain == g) = some r)
    (n : Nat) : ((l.eraseP fun x => x.grain == g).map (·.slot)).count n + hits (some r.slot) n = (l.map (·.slot)).count n := by
  induction l with
  | nil => cases h
  | cons x xs ih =>
    by_cases he : (x.grain == g) = true
    · simp only [List.find?_cons, he, Option.some.injEq] at h
      subst h
      simp only [List.eraseP_cons, he, cond_true, List.map_cons, List.count_cons, hits_some, beq_iff_eq]
    · simp only [Bool.not_eq_true] at he
      simp only [List.find?_cons, he] at h
      have := ih h
      simp only [List.eraseP_cons, he, cond_false, List.map_cons, List.count_cons]
      omega

theorem eraseP_of_find?_none {g : Nat} {l : List Reservation} (h : l.find? (fun x => x.grain == g) = none) :
    l.eraseP (fun x => x.grain == g) = l := List.eraseP_of_forall_not (List.find?_eq_none.1 h)

/-- The slots relocations hold, when one of them is changed. -/
theorem count_mapNewSlot {g : Nat} {f : Reloc → Reloc} {l : List Reloc} {r : Reloc} (hn : (l.map (·.grain)).Nodup)
    (h : l.find? (fun x => x.grain == g) = some r) (n : Nat) :
    ((l.map fun x => if x.grain = g then f x else x).filterMap (·.newSlot)).count n + hits r.newSlot n =
      (l.filterMap (·.newSlot)).count n + hits (f r).newSlot n := by
  induction l with
  | nil => cases h
  | cons x xs ih =>
    have hx := List.nodup_cons.1 hn
    by_cases he : x.grain = g
    · have hbe : (x.grain == g) = true := by simp [he]
      simp only [List.find?_cons, hbe, Option.some.injEq] at h
      subst h
      have hrest : (xs.map fun y => if y.grain = g then f y else y) = xs := by
        conv_rhs => rw [← List.map_id xs]
        refine List.map_congr_left fun y hy => ?_
        have : y.grain ≠ g := fun e => hx.1 (List.mem_map.2 ⟨y, hy, e.trans he.symm⟩)
        simp [this]
      simp only [List.map_cons, he, if_true, count_filterMap_cons, hrest]
      omega
    · have hbe : (x.grain == g) = false := by simp [he]
      simp only [List.find?_cons, hbe] at h
      have := ih hx.2 h
      simp only [List.map_cons, he, if_false, count_filterMap_cons]
      omega

/-! ## The account of the slots -/

/-- The store is well formed but for slots that stand in no state: they have been taken out of one and are to go into
another. -/
def State.storeOwing (s : State) (owed : List Nat) : Prop :=
  s.ov.tableOk ∧ (∀ n, s.placesOf n + owed.count n = if n < s.ov.slots then 1 else 0) ∧ s.te.relocsOk ∧
    s.mnt.holding.tableOk ∧ s.ov.reservationsOk

variable {s t : State} {l : List Nat}

theorem storeOwing_nil : s.storeOwing [] ↔ s.storeOk := by simp [State.storeOwing, State.storeOk, State.slotsOk]

theorem storeOwing_perm {l' : List Nat} (p : l.Perm l') (o : s.storeOwing l) : s.storeOwing l' :=
  ⟨o.1, fun n => by rw [← p.count_eq]; exact o.2.1 n, o.2.2⟩

theorem placesOf_eq (s : State) (n : Nat) : s.placesOf n =
    s.ov.ring.count n + ((s.ov.reservations.map (·.slot)).count n + (s.te.relocs.filterMap (·.newSlot)).count n) +
      (s.ov.table.filterMap (·.slot)).count n + (s.ov.pendingFree.map (·.slot)).count n + s.ov.retired.count n := by
  simp only [State.placesOf, State.reservedSlots, State.boundSlots, List.count_append]

theorem count_toList (o : Option Nat) (n : Nat) : o.toList.count n = hits o n := by
  cases o with
  | none => simp
  | some k => simp [hits_some, List.count_cons]

theorem hits_self (k : Nat) : hits (some k) k = 1 := by simp [hits_some]

theorem count_cons_hits (k : Nat) (l : List Nat) (n : Nat) : (k :: l).count n = l.count n + hits (some k) n := by
  simp [hits_some, List.count_cons]

/-- What is neither in the overlay store nor in the relocations nor in what a mount holds does not matter. -/
theorem storeOwing_of (hov : t.ov = s.ov) (hr : t.te.relocs = s.te.relocs) (hm : t.mnt.holding = s.mnt.holding)
    (o : s.storeOwing l) : t.storeOwing l := by
  unfold State.storeOwing TransferEngine.relocsOk at *
  simp only [placesOf_eq, hov, hr, hm] at *
  exact o

theorem owed_fresh {k : Nat} (o : s.storeOwing (k :: l)) : s.ov.retired.count k = 0 := by
  have h := o.2.1 k
  rw [count_cons_hits, hits_self, placesOf_eq] at h
  split at h <;> omega

theorem storeOwing_joinRing {k : Nat} (o : s.storeOwing (k :: l)) : (joinRing k s).storeOwing l := by
  refine ⟨o.1, fun n => ?_, o.2.2⟩
  show _ = if n < s.ov.slots then 1 else 0
  have h := o.2.1 n
  simp only [placesOf_eq, joinRing, List.count_append, count_cons_hits, List.count_nil] at *
  omega

theorem storeOwing_retire {k : Nat} (o : s.storeOwing (k :: l)) : (retire k s).storeOwing l := by
  have hf := owed_fresh o
  refine ⟨o.1, fun n => ?_, o.2.2⟩
  show _ = if n < s.ov.slots then 1 else 0
  have h := o.2.1 n
  have hc : s.ov.retired.contains k = false := by
    simpa using List.count_eq_zero.1 hf
  simp only [placesOf_eq, retire, hc, Bool.false_eq_true, if_false, List.count_append, count_cons_hits, List.count_nil] at *
  omega

theorem storeOwing_releaseSlot {k : Nat} (record : Option Nat) (o : s.storeOwing (k :: l)) :
    (releaseSlot k record s).storeOwing l := by
  unfold releaseSlot
  split
  · exact storeOwing_joinRing o
  · refine ⟨o.1, fun n => ?_, o.2.2⟩
    show _ = if n < s.ov.slots then 1 else 0
    have h := o.2.1 n
    simp only [placesOf_eq, List.map_append, List.map_cons, List.map_nil, List.count_append, count_cons_hits,
      List.count_nil] at *
    omega

theorem storeOwing_joinAll {ks : List Nat} (o : s.storeOwing (ks ++ l)) : (joinAll ks s).storeOwing l := by
  induction ks generalizing s with
  | nil => exact o
  | cons k ks ih => exact ih (storeOwing_joinRing o)

theorem storeOwing_retireAll {ks : List Nat} (o : s.storeOwing (ks ++ l)) :
    (ks.foldl (fun t n => retire n t) s).storeOwing l := by
  induction ks generalizing s with
  | nil => exact o
  | cons k ks ih => exact ih (storeOwing_retire o)

theorem storeOwing_takeRing (m : Nat) (o : s.storeOwing l) : (takeRing m s).storeOwing (s.ov.ring.take m ++ l) := by
  have key : ∀ b : Bool, ({ s with ov := { s.ov with ring := s.ov.ring.drop m, armed := b } } : State).storeOwing
      (s.ov.ring.take m ++ l) := by
    intro b
    refine ⟨o.1, fun n => ?_, o.2.2⟩
    show _ = if n < s.ov.slots then 1 else 0
    have h := o.2.1 n
    have hr : s.ov.ring.count n = (s.ov.ring.take m).count n + (s.ov.ring.drop m).count n := by
      rw [← List.count_append, List.take_append_drop]
    simp only [placesOf_eq, List.count_append] at *
    omega
  unfold takeRing
  dsimp only
  split
  · exact storeOwing_of rfl rfl rfl (key _)
  · exact key _

theorem storeOwing_endReservation {g : Nat} {r : Reservation} (e : s.reservation? g = some r) (o : s.storeOwing l) :
    (endReservation g s).storeOwing (r.slot :: l) := by
  refine ⟨o.1, fun n => ?_, o.2.2.1, o.2.2.2.1,
    o.2.2.2.2.1.sublist (List.eraseP_sublist.map _), fun r hr => o.2.2.2.2.2 r (List.mem_of_mem_eraseP hr)⟩
  show _ = if n < s.ov.slots then 1 else 0
  have h := o.2.1 n
  have hc := count_eraseP_slot e n
  simp only [placesOf_eq, endReservation, setReservations, count_cons_hits] at *
  omega

theorem endReservation_none {g : Nat} (e : s.reservation? g = none) : endReservation g s = s := by
  unfold endReservation setReservations
  have := eraseP_of_find?_none e
  simp only [this]

/-- Reservations change in anything but their slots. -/
theorem storeOwing_setReservations {f : List Reservation → List Reservation}
    (h : ((f s.ov.reservations).map (·.slot)).Perm (s.ov.reservations.map (·.slot)))
    (hg : (f s.ov.reservations).map (·.grain) = s.ov.reservations.map (·.grain))
    (hp : s.ov.reservationsOk → ∀ r ∈ f s.ov.reservations, (r.holder :: r.sharers).Nodup) (o : s.storeOwing l) :
    (setReservations f s).storeOwing l := by
  refine ⟨o.1, fun n => ?_, o.2.2.1, o.2.2.2.1, by
    have := o.2.2.2.2.1
    exact hg.symm ▸ this, hp o.2.2.2.2⟩
  show _ = if n < s.ov.slots then 1 else 0
  have h1 := o.2.1 n
  have h2 := h.count_eq n
  simp only [placesOf_eq, setReservations] at *
  omega

theorem storeOwing_setEntryState (g : Nat) (st : EntryState) (o : s.storeOwing l) : (setEntryState g st s).storeOwing l := by
  refine ⟨⟨map_ordered (f := fun e : Entry => e.grain) (fun x => by split <;> rfl) o.1.1, ?_⟩, fun n => ?_, o.2.2⟩
  · intro e he
    rcases List.mem_map.1 he with ⟨x, hx, rfl⟩
    have := o.1.2 x hx
    split <;> exact this
  · show _ = if n < s.ov.slots then 1 else 0
    have h := o.2.1 n
    have hc := count_mapState (f := fun e : Entry => if e.grain = g then { e with state := st } else e)
      (fun e => by split <;> rfl) s.ov.table
    simp only [placesOf_eq, setEntryState] at *
    rw [hc]
    exact h

theorem storeOwing_putEntry {e : Entry} (hm : maskConditions e.slot e.present e.lost = true)
    (o : s.storeOwing (e.slot.toList ++ l)) : (putEntry e s).storeOwing ((s.slotOf e.grain).toList ++ l) := by
  refine ⟨⟨insertEntry_ordered o.1.1, ?_⟩, fun n => ?_, o.2.2⟩
  · intro x hx
    rcases mem_insertEntry hx with rfl | hx
    · exact hm
    · exact o.1.2 x hx
  · show _ = if n < s.ov.slots then 1 else 0
    have h := o.2.1 n
    have hc := count_insertEntry (e := e) o.1.1 n
    simp only [placesOf_eq, putEntry, State.slotOf, State.entry?, List.count_append, count_toList] at *
    omega

/-- An entry that keeps its slot is replaced. -/
theorem storeOwing_updateEntry {e : Entry} (hm : maskConditions e.slot e.present e.lost = true)
    (hs : s.slotOf e.grain = e.slot) (o : s.storeOwing l) : (putEntry e s).storeOwing l := by
  refine ⟨⟨insertEntry_ordered o.1.1, ?_⟩, fun n => ?_, o.2.2⟩
  · intro x hx
    rcases mem_insertEntry hx with rfl | hx
    · exact hm
    · exact o.1.2 x hx
  · show _ = if n < s.ov.slots then 1 else 0
    have h := o.2.1 n
    have hc := count_insertEntry (e := e) o.1.1 n
    have hf : (s.ov.table.find? fun x => x.grain == e.grain).bind (·.slot) = e.slot := hs
    rw [hf] at hc
    simp only [placesOf_eq, putEntry] at *
    omega

theorem storeOwing_removeEntry (g : Nat) (o : s.storeOwing l) :
    (removeEntry g s).storeOwing ((s.slotOf g).toList ++ l) := by
  refine ⟨⟨filter_ordered _ o.1.1, fun x hx => o.1.2 x (List.mem_of_mem_filter hx)⟩, fun n => ?_, o.2.2⟩
  show _ = if n < s.ov.slots then 1 else 0
  have h := o.2.1 n
  have hc := count_removeEntry (g := g) o.1.1 n
  simp only [placesOf_eq, removeEntry, State.slotOf, State.entry?, List.count_append, count_toList] at *
  omega

theorem entry_mem {g : Nat} {e : Entry} (h : s.entry? g = some e) : e ∈ s.ov.table ∧ e.grain = g :=
  ⟨List.mem_of_find?_eq_some h, by simpa using List.find?_some h⟩

theorem reloc_mem {g : Nat} {r : Reloc} (h : s.reloc? g = some r) : r ∈ s.te.relocs ∧ r.grain = g :=
  ⟨List.mem_of_find?_eq_some h, by simpa using List.find?_some h⟩

/-! ## Relocations -/

/-- What of a relocation the store's form speaks of. -/
def Reloc.face (r : Reloc) : Nat × Option Nat × RelocStage × Bool := (r.grain, r.newSlot, r.stage, r.failed)

theorem storeOwing_relocs {te : TransferEngine} (h : te.relocs.map Reloc.face = s.te.relocs.map Reloc.face)
    (o : s.storeOwing l) : ({ s with te := te } : State).storeOwing l := by
  have hg : te.relocs.map (·.grain) = s.te.relocs.map (·.grain) := by
    have := congrArg (List.map fun x => x.1) h
    simpa [List.map_map, Function.comp_def, Reloc.face] using this
  have hn : te.relocs.filterMap (·.newSlot) = s.te.relocs.filterMap (·.newSlot) := by
    have := congrArg (List.filterMap fun x => x.2.1) h
    simpa [List.filterMap_map, Function.comp_def, Reloc.face] using this
  refine ⟨o.1, fun n => ?_, ⟨?_, ?_⟩, o.2.2.2⟩
  · show _ = if n < s.ov.slots then 1 else 0
    have h1 := o.2.1 n
    simp only [placesOf_eq, hn] at *
    exact h1
  · show (te.relocs.map (·.grain)).Nodup
    rw [hg]
    exact o.2.2.1.1
  · intro r hr
    have hm : Reloc.face r ∈ s.te.relocs.map Reloc.face := h ▸ List.mem_map.2 ⟨r, hr, rfl⟩
    rcases List.mem_map.1 hm with ⟨x, hx, e⟩
    have := o.2.2.1.2 x hx
    simp only [Reloc.face, Prod.mk.injEq] at e
    unfold Reloc.slotOk at *
    rw [← e.2.1, ← e.2.2.1, ← e.2.2.2]
    exact this

/-- Relocations change in anything else. -/
theorem storeOwing_setRelocs {f : List Reloc → List Reloc}
    (h : (f s.te.relocs).map Reloc.face = s.te.relocs.map Reloc.face) (o : s.storeOwing l) :
    (setRelocs f s).storeOwing l := storeOwing_relocs h o

theorem mapReloc_faces {g : Nat} {f : Reloc → Reloc} (hf : ∀ r, (f r).face = r.face) (rs : List Reloc) :
    (rs.map fun r => if r.grain = g then f r else r).map Reloc.face = rs.map Reloc.face := by
  rw [List.map_map]
  refine List.map_congr_left fun r _ => ?_
  simp only [Function.comp_apply]
  split
  · exact hf r
  · rfl

/-- A relocation changes in anything else. -/
theorem storeOwing_mapReloc {g : Nat} {f : Reloc → Reloc} (hf : ∀ r, (f r).face = r.face) (o : s.storeOwing l) :
    (mapReloc g f s).storeOwing l := storeOwing_setRelocs (mapReloc_faces hf _) o

theorem relocsOk_change {g : Nat} {f : Reloc → Reloc} {r : Reloc} (e : s.reloc? g = some r) (hg : (f r).grain = g)
    (hf : (f r).slotOk) (o : s.te.relocsOk) : (mapReloc g f s).te.relocsOk := by
  have hr := reloc_mem e
  have hsame : ∀ x ∈ s.te.relocs, x.grain = g → x = r := by
    intro x hx hxg
    refine List.inj_on_of_nodup_map o.1 hx hr.1 ?_
    rw [hxg, hr.2]
  refine ⟨?_, ?_⟩
  · have : (mapReloc g f s).te.relocs.map (·.grain) = s.te.relocs.map (·.grain) := by
      show (s.te.relocs.map fun x => if x.grain = g then f x else x).map (·.grain) = _
      rw [List.map_map]
      refine List.map_congr_left fun x hx => ?_
      simp only [Function.comp_apply]
      split
      · rename_i hxg
        rw [hsame x hx hxg, hg, hr.2]
      · rfl
    rw [this]
    exact o.1
  · intro x hx
    rcases List.mem_map.1 hx with ⟨y, hy, rfl⟩
    split
    · rename_i hyg
      rw [hsame y hy hyg]
      exact hf
    · exact o.2 y hy

/-- A relocation gives up its new slot, takes one, or neither. -/
theorem storeOwing_changeReloc {g : Nat} {f : Reloc → Reloc} {r : Reloc} (e : s.reloc? g = some r)
    (hg : (f r).grain = g) (hf : (f r).slotOk) (o : s.storeOwing ((f r).newSlot.toList ++ l)) :
    (mapReloc g f s).storeOwing (r.newSlot.toList ++ l) := by
  refine ⟨o.1, fun n => ?_, relocsOk_change e hg hf o.2.2.1, o.2.2.2⟩
  show _ = if n < s.ov.slots then 1 else 0
  have h := o.2.1 n
  have hc := count_mapNewSlot (f := f) o.2.2.1.1 e n
  simp only [placesOf_eq, mapReloc, setRelocs, List.count_append, count_toList] at *
  omega

/-- The same overlay store, relocations of the same face, and what a mount holds. -/
theorem storeOwing_same (hov : t.ov = s.ov) (hr : t.te.relocs.map Reloc.face = s.te.relocs.map Reloc.face)
    (hm : t.mnt.holding = s.mnt.holding) (o : s.storeOwing l) : t.storeOwing l := by
  refine storeOwing_of (s := { s with te := { s.te with relocs := t.te.relocs } }) hov rfl hm ?_
  exact storeOwing_relocs hr o

theorem storeOk_same (hov : t.ov = s.ov) (hr : t.te.relocs.map Reloc.face = s.te.relocs.map Reloc.face)
    (hm : t.mnt.holding = s.mnt.holding) (o : s.storeOk) : t.storeOk :=
  storeOwing_nil.1 (storeOwing_same hov hr hm (storeOwing_nil.2 o))

/-! ## Operations that keep the store well formed -/

theorem storeOk_giveUp (c : CmdId) (g : Nat) (o : s.storeOk) : (giveUp c g s).storeOk := by
  rw [← storeOwing_nil] at *
  unfold giveUp
  split
  · exact o
  · rename_i r e
    have same : ∀ (f : Reservation → Reservation), (∀ x, (f x).slot = x.slot ∧ (f x).grain = x.grain) →
        (s.ov.reservationsOk → ∀ x ∈ s.ov.reservations, ((f x).holder :: (f x).sharers).Nodup) →
        (setReservations (List.map fun y => if y.grain = g then f y else y) s).storeOwing [] := by
      intro f hf hn
      have hx : ∀ y : Reservation, (if y.grain = g then f y else y).slot = y.slot ∧
          (if y.grain = g then f y else y).grain = y.grain := by
        intro y
        split
        · exact hf y
        · exact ⟨rfl, rfl⟩
      refine storeOwing_setReservations (List.Perm.of_eq ?_) ?_ (fun ok y hy => ?_) o
      · rw [List.map_map]
        exact List.map_congr_left fun y _ => (hx y).1
      · rw [List.map_map]
        exact List.map_congr_left fun y _ => (hx y).2
      · obtain ⟨x, hm, rfl⟩ := List.mem_map.1 hy
        split
        · exact hn ok x hm
        · exact ok.2 x hm
    split
    · split
      · rename_i hs
        refine same _ (fun _ => ⟨rfl, rfl⟩) fun ok _ _ => ?_
        have := ok.2 r (List.mem_of_find?_eq_some e)
        rw [hs, List.nodup_cons] at this
        exact this.2
      · exact storeOwing_joinRing (storeOwing_endReservation e o)
    · refine same _ (fun _ => ⟨rfl, rfl⟩) fun ok x hm => ?_
      have := List.nodup_cons.1 (ok.2 x hm)
      exact List.nodup_cons.2 ⟨fun h => this.1 (List.mem_filter.1 h).1, this.2.filter _⟩

theorem insertReservation_perm (r : Reservation) (rs : List Reservation) :
    (insertReservation r rs).Perm (r :: rs) := by
  induction rs with
  | nil => exact List.Perm.refl _
  | cons x xs ih =>
    unfold insertReservation
    split
    · exact (ih.cons x).trans (List.Perm.swap r x xs)
    · exact List.Perm.refl _

theorem foldl_insertReservation_perm (fresh rs : List Reservation) :
    (fresh.foldl (fun acc r => insertReservation r acc) rs).Perm (fresh ++ rs) := by
  induction fresh generalizing rs with
  | nil => exact List.Perm.refl _
  | cons r fresh ih =>
    refine (ih _).trans ?_
    refine ((insertReservation_perm r rs).append_left fresh).trans ?_
    exact List.perm_middle

/-- Reservations get new slots: those owed before. -/
theorem storeOwing_addReservations {f : List Reservation → List Reservation} {ks : List Nat}
    (h : ((f s.ov.reservations).map (·.slot)).Perm (ks ++ s.ov.reservations.map (·.slot)))
    (hg : s.ov.reservationsOk → ({ s.ov with reservations := f s.ov.reservations } : OverlayUnit).reservationsOk)
    (o : s.storeOwing (ks ++ l)) : (setReservations f s).storeOwing l := by
  refine ⟨o.1, fun n => ?_, o.2.2.1, o.2.2.2.1, hg o.2.2.2.2⟩
  show _ = if n < s.ov.slots then 1 else 0
  have h1 := o.2.1 n
  have h2 := h.count_eq n
  simp only [placesOf_eq, setReservations, List.count_append] at *
  omega

theorem takeRing_ov (m : Nat) (s : State) : (takeRing m s).ov =
    { s.ov with
      ring := s.ov.ring.drop m
      armed := s.ov.armed && !(decide (0 < m) && s.ov.armed && decide ((s.ov.ring.drop m).length < s.lowWater)) } := by
  unfold takeRing
  dsimp only
  split <;> rfl

theorem takeRing_te (m : Nat) (s : State) : (takeRing m s).te = s.te := by
  unfold takeRing
  dsimp only
  split <;> rfl

theorem takeRing_mnt (m : Nat) (s : State) : (takeRing m s).mnt = s.mnt := by
  unfold takeRing
  dsimp only
  split <;> rfl

/-- A record that joins a reservation is in it once. -/
theorem join_parties {c : CmdId} {r : Reservation} (h : (r.holder :: r.sharers).Nodup) :
    ((r.join c).holder :: (r.join c).sharers).Nodup := by
  unfold Reservation.join
  split
  · exact h
  · rename_i hc
    simp only [not_or, List.contains_eq_mem, decide_eq_true_eq] at hc
    have := List.nodup_cons.1 h
    refine List.nodup_cons.2 ⟨?_, ?_⟩
    · simp only [List.mem_append, List.mem_singleton, not_or]
      exact ⟨this.1, hc.1⟩
    · refine List.nodup_append'.2 ⟨this.2, List.nodup_singleton _, ?_⟩
      intro x hx hm
      exact hc.2 (List.mem_singleton.1 hm ▸ hx)

theorem storeOk_takeReservations (c : CmdId) (grains : List Nat) {needed : List Nat}
    (h : needed.length ≤ s.ov.ring.length) (hd : needed.Nodup) (hn : ∀ g ∈ needed, s.reservation? g = none)
    (o : s.storeOk) : (takeReservations c grains needed s).storeOk := by
  rw [← storeOwing_nil] at *
  unfold takeReservations
  extract_lets fresh joined
  have h3 : fresh.map (·.grain) = needed := by
    unfold fresh
    rw [List.map_map]
    have : ((fun x : Reservation => x.grain) ∘ fun x : Nat × Nat =>
        ({ grain := x.1, slot := x.2, holder := c, sharers := [] } : Reservation)) = Prod.fst := rfl
    rw [this, List.map_fst_zip]
    simp only [List.length_take]
    omega
  have h4 : (joined s.ov.reservations).map (·.grain) = s.ov.reservations.map (·.grain) := by
    unfold joined
    rw [List.map_map]
    refine List.map_congr_left fun r _ => ?_
    simp only [Function.comp_apply]
    split
    · unfold Reservation.join
      split <;> rfl
    · rfl
  refine storeOwing_addReservations (ks := s.ov.ring.take needed.length) ?_ (fun hr => ?_) (storeOwing_takeRing _ o)
  case refine_2 =>
    rw [takeRing_ov] at *
    refine ⟨((foldl_insertReservation_perm _ _).map _).nodup_iff.2 ?_, fun r hm => ?_⟩
    · rw [List.map_append, h3, h4]
      refine List.nodup_append'.2 ⟨hd, hr.1, ?_⟩
      intro g hg hm
      obtain ⟨x, hx, rfl⟩ := List.mem_map.1 hm
      have := hn _ hg
      unfold State.reservation? at this
      have := List.find?_eq_none.1 this x hx
      simp at this
    · rcases List.mem_append.1 ((foldl_insertReservation_perm _ _).mem_iff.1 hm) with h | h
      · obtain ⟨x, _, rfl⟩ := List.mem_map.1 h
        exact List.nodup_singleton _
      · obtain ⟨x, hx, rfl⟩ := List.mem_map.1 h
        split
        · exact join_parties (hr.2 x hx)
        · exact hr.2 x hx
  rw [takeRing_ov]
  refine ((foldl_insertReservation_perm _ _).map _).trans ?_
  rw [List.map_append]
  have h1 : fresh.map (·.slot) = s.ov.ring.take needed.length := by
    unfold fresh
    rw [List.map_map]
    have : ((fun x : Reservation => x.slot) ∘ fun x : Nat × Nat =>
        ({ grain := x.1, slot := x.2, holder := c, sharers := [] } : Reservation)) = Prod.snd := rfl
    rw [this, List.map_snd_zip]
    simp only [List.length_take]
    omega
  have h2 : (joined s.ov.reservations).map (·.slot) = s.ov.reservations.map (·.slot) := by
    unfold joined
    rw [List.map_map]
    refine List.map_congr_left fun r _ => ?_
    simp only [Function.comp_apply]
    split
    · unfold Reservation.join
      split <;> rfl
    · rfl
  rw [h1, h2]

theorem nodup_grainsOf (first count : Nat) : (grainsOf first count).Nodup := by
  unfold grainsOf
  split
  · exact List.nodup_nil
  · exact (List.nodup_map_iff fun a b (e : _ + a = _ + b) => by omega).2 List.nodup_range

theorem storeOk_reserve {c : CmdId} {grains : List Nat} {u : State} (e : reserve c grains s = some u)
    (hd : grains.Nodup) (o : s.storeOk) : u.storeOk := by
  unfold reserve at e
  extract_lets needed at e
  split at e
  · rename_i hc
    cases e
    refine storeOk_takeReservations _ _ ?_ (hd.sublist List.filter_sublist) (fun g hg => ?_) o
    case refine_2 =>
      have := (List.mem_filter.1 hg).2
      unfold State.needsSlot at this
      simp only [Bool.and_eq_true, Option.isNone_iff_eq_none] at this
      exact this.1.2
    unfold State.canReserve at hc
    simp only [Bool.or_eq_true, Bool.and_eq_true, decide_eq_true_eq, List.isEmpty_iff] at hc
    rcases hc with hc | hc
    · simp [hc]
    · omega
  · cases e

theorem foldl_storeOk {α : Type} {f : State → α → State} (hf : ∀ t x, t.storeOk → (f t x).storeOk) (xs : List α)
    (o : s.storeOk) : (xs.foldl f s).storeOk := by
  induction xs generalizing s with
  | nil => exact o
  | cons x xs ih => exact ih (hf _ _ o)

/-- A write into a slot the grain may name (R30). -/
theorem storeOk_bindBlocks {g slot : Nat} (region : Nat) {m : Mask} (hs : s.servesGrain g slot = true) (hm : m ≠ 0)
    (o : s.storeOk) : (bindBlocks g region slot m s).2.storeOk := by
  rw [← storeOwing_nil] at *
  unfold bindBlocks
  extract_lets e
  have hg : e.grain = g := by
    unfold e
    split
    · rfl
    · rename_i x hx
      exact (entry_mem hx).2
  cases hslot : s.slotOf g with
  | some k =>
    simp only [State.servesGrain, hslot, beq_iff_eq] at hs
    subst hs
    have he : e.slot = some k ∧ maskConditions e.slot e.present e.lost = true := by
      unfold e
      split
      · rename_i hx
        simp [State.slotOf, hx] at hslot
      · rename_i x hx
        have hk : x.slot = some k := by simpa [State.slotOf, hx] using hslot
        have := o.1.2 x (entry_mem hx).1
        rw [hk] at this
        simp only [hk, maskConditions_some, true_and]
        exact ⟨mask_written (maskConditions_some.1 this).1, mask_or_ne_zero hm⟩
    simp only [Option.isNone_some, Bool.false_eq_true, if_false]
    exact storeOwing_updateEntry he.2 (by rw [hg, hslot, he.1]) o
  | none =>
    simp only [State.servesGrain, hslot] at hs
    cases hres : s.reservation? g with
    | none => simp [hres] at hs
    | some r =>
      simp only [hres, Option.any_some, beq_iff_eq] at hs
      have he : e.slot = some slot ∧ maskConditions e.slot e.present e.lost = true := by
        unfold e
        split
        · refine ⟨rfl, maskConditions_some.2 ⟨?_, hm⟩⟩
          simp
        · rename_i x hx
          have hk : x.slot = none := by simpa [State.slotOf, hx] using hslot
          have := maskConditions_disjoint (o.1.2 x (entry_mem hx).1)
          simp only [hk, maskConditions_some, true_and]
          exact ⟨mask_written this, mask_or_ne_zero hm⟩
      have h1 := storeOwing_endReservation hres o
      have h2 := storeOwing_putEntry (l := []) (e := e) (s := endReservation g s) he.2
        (by rw [he.1, ← hs]; exact h1)
      have h3 : (endReservation g s).slotOf e.grain = none := by rw [hg]; exact hslot
      rw [h3] at h2
      simpa using h2

/-- Lost marking (R31). -/
theorem storeOwing_markLost (g : Nat) (m : Mask) (o : s.storeOwing l) : (markLost g m s).2.storeOwing l := by
  unfold markLost
  split
  · exact o
  · rename_i e he
    extract_lets marked left e'
    have hmem := entry_mem he
    have hc := o.1.2 e hmem.1
    have hd := maskConditions_disjoint hc
    have hslot : s.slotOf g = e.slot := by simp [State.slotOf, he]
    have hg : e.grain = g := hmem.2
    split
    · exact o
    · rename_i hne
      have hlost : e.lost ||| marked ≠ 0 := mask_or_ne_zero hne
      split
      · rename_i hz
        have hnone : ∀ l', s.storeOwing l' → (putEntry { e' with slot := none } s).storeOwing (e.slot.toList ++ l') := by
          intro l' ol
          have := storeOwing_putEntry (s := s) (l := l') (e := { e' with slot := none })
            (by
              show maskConditions none left (e.lost ||| marked) = true
              exact maskConditions_none.2 ⟨hz, hlost⟩) (by simpa using ol)
          have hg' : ({ e' with slot := none } : Entry).grain = g := hg
          rw [hg', hslot] at this
          rw [← hg] at this
          exact this
        have hn := hnone l o
        split
        · rename_i k hk
          rw [hk] at hn
          exact storeOwing_retire hn
        · rename_i hk
          rw [hk] at hn
          exact hn
      · rename_i hnz
        have hs : ∃ k, e.slot = some k := by
          cases h : e.slot with
          | some k => exact ⟨k, rfl⟩
          | none =>
            rw [h] at hc
            have h0 := (maskConditions_none.1 hc).1
            refine absurd ?_ hnz
            show maskLess e.present marked = 0
            rw [h0]
            simp [maskLess]
        obtain ⟨k, hk⟩ := hs
        refine storeOwing_updateEntry (e := e') ?_ (by show s.slotOf e.grain = e.slot; rw [hg, hslot]) o
        show maskConditions e.slot left (e.lost ||| marked) = true
        rw [hk]
        exact maskConditions_some.2 ⟨mask_lost hd, hnz⟩

theorem storeOk_markLost (g : Nat) (m : Mask) (o : s.storeOk) : (markLost g m s).2.storeOk :=
  storeOwing_nil.1 (storeOwing_markLost g m (storeOwing_nil.2 o))

/-- Marking looks at the overlay store alone. -/
theorem markLost_ov {a b : State} (g : Nat) (m : Mask) (h : a.ov = b.ov) :
    (markLost g m a).2.ov = (markLost g m b).2.ov ∧ (markLost g m a).1 = (markLost g m b).1 := by
  have he : a.entry? g = b.entry? g := by
    unfold State.entry?
    rw [h]
  unfold markLost
  rw [he]
  cases b.entry? g with
  | none => exact ⟨h, rfl⟩
  | some e =>
    dsimp only
    repeat' split
    all_goals simp [putEntry, retire, h]

theorem retireAll_ov {a b : State} (ks : List Nat) (h : a.ov = b.ov) :
    (ks.foldl (fun t n => retire n t) a).ov = (ks.foldl (fun t n => retire n t) b).ov := by
  induction ks generalizing a b with
  | nil => exact h
  | cons k ks ih => exact ih (by simp [retire, h])

theorem joinAll_ov {a b : State} (ks : List Nat) (h : a.ov = b.ov) (hm : a.map = b.map) :
    (joinAll ks a).ov = (joinAll ks b).ov := by
  induction ks generalizing a b with
  | nil => exact h
  | cons k ks ih =>
    refine ih ?_ hm
    cases a
    cases b
    dsimp only at h hm
    subst h hm
    rfl

theorem retireAll_fields (ks : List Nat) (t : State) : (ks.foldl (fun t n => retire n t) t).te = t.te ∧
    (ks.foldl (fun t n => retire n t) t).mnt = t.mnt ∧ (ks.foldl (fun t n => retire n t) t).map = t.map := by
  induction ks generalizing t with
  | nil => exact ⟨rfl, rfl, rfl⟩
  | cons x xs ih => exact ih (retire x t)

theorem joinAll_fields (ks : List Nat) (t : State) : (joinAll ks t).te = t.te ∧ (joinAll ks t).mnt = t.mnt := by
  induction ks generalizing t with
  | nil => exact ⟨rfl, rfl⟩
  | cons x xs ih => exact ih (joinRing x t)

theorem markLost_fields (g : Nat) (m : Mask) (t : State) : (markLost g m t).2.te = t.te ∧ (markLost g m t).2.mnt = t.mnt ∧
    (markLost g m t).2.map = t.map := by
  unfold markLost
  split
  · exact ⟨rfl, rfl, rfl⟩
  · dsimp only
    repeat' split
    all_goals exact ⟨rfl, rfl, rfl⟩

theorem count_filter_split {α : Type} (f : α → Nat) (p : α → Bool) (xs : List α) (n : Nat) :
    (xs.map f).count n = ((xs.filter p).map f).count n + ((xs.filter fun x => !p x).map f).count n := by
  induction xs with
  | nil => rfl
  | cons x xs ih =>
    by_cases h : p x = true
    · simp only [List.filter_cons, h, if_true, Bool.not_true, Bool.false_eq_true, if_false, List.map_cons, List.count_cons]
      omega
    · simp only [Bool.not_eq_true] at h
      simp only [List.filter_cons, h, Bool.false_eq_true, if_false, Bool.not_false, if_true, List.map_cons, List.count_cons]
      omega

theorem storeOk_freePending (durable : Nat → Bool) (o : s.storeOk) : (freePending durable s).storeOk := by
  rw [← storeOwing_nil] at *
  unfold freePending
  refine storeOwing_joinAll ?_
  refine ⟨o.1, fun n => ?_, o.2.2⟩
  show _ = if n < s.ov.slots then 1 else 0
  have h := o.2.1 n
  have hc := count_filter_split (·.slot) (fun x => durable x.record) s.ov.pendingFree n
  simp only [placesOf_eq, List.count_append, List.count_nil] at *
  omega

theorem storeOk_takeOutOfService (g slot : Nat) (o : s.storeOk) : (takeOutOfService g slot s).2.storeOk := by
  unfold takeOutOfService
  split
  · exact o
  · split
    · rename_i hne hs
      rw [← storeOwing_nil] at *
      cases hslot : s.slotOf g with
      | some k =>
        simp only [State.servesGrain, hslot, beq_iff_eq] at hs
        exact absurd (hs ▸ hslot) hne
      | none =>
        simp only [State.servesGrain, hslot] at hs
        cases hres : s.reservation? g with
        | none => simp [hres] at hs
        | some r =>
          simp only [hres, Option.any_some, beq_iff_eq] at hs
          rw [← hs]
          exact storeOwing_retire (storeOwing_endReservation hres o)
    · exact o

/-! ## Relocations made, placed, served and ended -/

theorem mapReloc_none {g : Nat} {f : Reloc → Reloc} (e : s.reloc? g = none) : mapReloc g f s = s := by
  have : (s.te.relocs.map fun r => if r.grain = g then f r else r) = s.te.relocs := by
    conv_rhs => rw [← List.map_id s.te.relocs]
    refine List.map_congr_left fun r hr => ?_
    have := List.find?_eq_none.1 e r hr
    simp only [beq_iff_eq] at this
    simp [this]
  unfold mapReloc setRelocs
  simp only [this]

/-- A relocation keeps its new slot. -/
theorem storeOk_changeReloc {g : Nat} {f : Reloc → Reloc}
    (hf : ∀ r, s.reloc? g = some r → (f r).grain = g ∧ (f r).newSlot = r.newSlot ∧ (f r).slotOk) (o : s.storeOk) :
    (mapReloc g f s).storeOk := by
  cases e : s.reloc? g with
  | none =>
    rw [mapReloc_none e]
    exact o
  | some r =>
    obtain ⟨hg, hn, hs⟩ := hf r e
    rw [← storeOwing_nil] at *
    refine ⟨?_, ?_, ?_, o.2.2.2⟩
    · exact o.1
    · intro n
      show _ = if n < s.ov.slots then 1 else 0
      have h := o.2.1 n
      have hc := count_mapNewSlot (f := f) o.2.2.1.1 e n
      rw [hn] at hc
      simp only [placesOf_eq, mapReloc, setRelocs] at *
      omega
    · exact relocsOk_change e hg hs o.2.2.1

theorem slotOk_none {r : Reloc} (h : r.newSlot = none) : r.slotOk := by
  intro hs
  simp [h] at hs

/-- A relocation of the list is the one of its grain (R88). -/
theorem reloc?_of_mem {r : Reloc} (h : s.te.relocsOk) (hr : r ∈ s.te.relocs) : s.reloc? r.grain = some r := by
  cases e : s.reloc? r.grain with
  | none => exact absurd (List.find?_eq_none.1 e r hr) (by simp)
  | some x =>
    have hx := reloc_mem e
    rw [List.inj_on_of_nodup_map h.1 hx.1 hr hx.2]

theorem storeOk_addReloc {r : Reloc} (hn : r.newSlot = none) (hg : s.reloc? r.grain = none) (o : s.storeOk) :
    (setRelocs (· ++ [r]) s).storeOk := by
  rw [← storeOwing_nil] at *
  refine ⟨o.1, fun n => ?_, ⟨?_, ?_⟩, o.2.2.2⟩
  · show _ = if n < s.ov.slots then 1 else 0
    have h := o.2.1 n
    simp only [placesOf_eq, setRelocs, List.filterMap_append, List.filterMap_cons, hn, List.filterMap_nil,
      List.append_nil] at *
    exact h
  · show ((s.te.relocs ++ [r]).map (·.grain)).Nodup
    rw [List.map_append]
    refine List.nodup_append.2 ⟨o.2.2.1.1, by simp, ?_⟩
    intro x hx y hy
    simp only [List.map_cons, List.map_nil, List.mem_singleton] at hy
    rcases List.mem_map.1 hx with ⟨z, hz, rfl⟩
    have := List.find?_eq_none.1 hg z hz
    simp only [beq_iff_eq] at this
    rw [hy]
    exact this
  · intro x hx
    rcases List.mem_append.1 hx with hx | hx
    · exact o.2.2.1.2 x hx
    · rw [List.mem_singleton.1 hx]
      exact slotOk_none hn

theorem storeOk_dropReloc {g : Nat} (hn : ∀ r, s.reloc? g = some r → r.newSlot = none) (o : s.storeOk) :
    (setRelocs (List.filter fun x => decide (x.grain ≠ g)) s).storeOk := by
  rw [← storeOwing_nil] at *
  refine ⟨o.1, fun n => ?_, ⟨?_, fun x hx => o.2.2.1.2 x (List.mem_of_mem_filter hx)⟩, o.2.2.2⟩
  · show _ = if n < s.ov.slots then 1 else 0
    have h := o.2.1 n
    have hc : (s.te.relocs.filter fun x => decide (x.grain ≠ g)).filterMap (·.newSlot) =
        s.te.relocs.filterMap (·.newSlot) := by
      rw [List.filterMap_filter]
      refine List.filterMap_congr fun x hx => ?_
      by_cases hxg : x.grain = g
      · have := hn x (hxg ▸ reloc?_of_mem o.2.2.1 hx)
        simp [hxg, this]
      · simp [hxg]
    simp only [placesOf_eq, setRelocs, hc] at *
    exact h
  · exact o.2.2.1.1.sublist (List.filter_sublist.map _)

/-- A slot is given to a relocation that holds none (R90, R91). -/
theorem storeOk_allocate {g : Nat} {r : Reloc} {u : State} (e : allocate g s = some u) (hr : s.reloc? g = some r)
    (hn : r.newSlot = none) (hst : r.stage = .copying ∨ r.stage = .writing) (o : s.storeOk) : u.storeOk := by
  unfold allocate at e
  split at e
  · cases e
  · rename_i n hh
    cases e
    rw [← storeOwing_nil] at *
    have htake : s.ov.ring.take 1 = [n] := by
      cases hring : s.ov.ring with
      | nil => rw [hring] at hh; cases hh
      | cons a rest =>
        rw [hring] at hh
        cases hh
        rfl
    have h1 := storeOwing_takeRing 1 o
    rw [htake] at h1
    have hr' : (takeRing 1 s).reloc? g = some r := by
      unfold State.reloc?
      rw [takeRing_te]
      exact hr
    have h2 := storeOwing_changeReloc (l := []) (s := takeRing 1 s)
      (f := fun x => { x with newSlot := some n, attempts := x.attempts + 1, issued := false, failed := false }) hr' (reloc_mem hr).2
      (fun _ => ⟨hst, rfl⟩) h1
    rw [hn] at h2
    refine storeOwing_of ?_ ?_ ?_ h2
    · show (takeRing 1 _).ov = (takeRing 1 s).ov
      rw [takeRing_ov, takeRing_ov]
      rfl
    · rw [takeRing_te]
      show _ = (takeRing 1 s).te.relocs.map _
      rw [takeRing_te]
      rfl
    · rw [takeRing_mnt]
      show _ = (takeRing 1 s).mnt.holding
      rw [takeRing_mnt]
      rfl

/-- A write of the attempt met a media failure: the new slot is retired (R91). -/
theorem storeOk_newSlotRetired {g n : Nat} {f : Reloc → Reloc} {r : Reloc} (hr : s.reloc? g = some r)
    (hn : r.newSlot = some n) (hg : (f r).grain = g) (hf : (f r).newSlot = none) (o : s.storeOk) :
    (retire n (mapReloc g f s)).storeOk := by
  rw [← storeOwing_nil] at *
  have := storeOwing_changeReloc (l := []) hr hg (slotOk_none hf) (by rw [hf]; exact o)
  rw [hn] at this
  exact storeOwing_retire this

/-- A relocation that ends gives up its new slot. -/
theorem storeOwing_endReloc {g : Nat} {r : Reloc} (f : Reloc → Reloc) (hr : s.reloc? g = some r) (hg : (f r).grain = g)
    (hf : (f r).newSlot = none) (o : s.storeOk) : (mapReloc g f s).storeOwing r.newSlot.toList := by
  rw [← storeOwing_nil] at o
  have := storeOwing_changeReloc (l := []) hr hg (slotOk_none hf) (by rw [hf]; exact o)
  simpa using this

/-- No relocation holds a slot. -/
theorem dropNewSlots_relocsOk (h : s.te.relocsOk) : (dropNewSlots s).te.relocsOk := by
  refine ⟨?_, ?_⟩
  · have : (dropNewSlots s).te.relocs.map (·.grain) = s.te.relocs.map (·.grain) := by
      show (s.te.relocs.map fun r => { r with newSlot := none }).map (·.grain) = _
      rw [List.map_map]
      rfl
    rw [this]
    exact h.1
  · intro r hr
    rcases List.mem_map.1 hr with ⟨x, _, rfl⟩
    exact slotOk_none rfl

theorem dropNewSlots_none (s : State) : (dropNewSlots s).te.relocs.filterMap (·.newSlot) = [] := by
  show (s.te.relocs.map fun r => { r with newSlot := none }).filterMap (·.newSlot) = []
  rw [List.filterMap_map]
  refine List.filterMap_eq_nil_iff.2 fun r _ => rfl

theorem count_range (k n : Nat) : (List.range k).count n = if n < k then 1 else 0 := by
  split
  · rename_i h
    exact List.count_eq_one_of_mem List.nodup_range (List.mem_range.2 h)
  · rename_i h
    exact List.count_eq_zero_of_not_mem (by simpa using h)

/-- The pool of a new layout (R147). -/
theorem storeOk_freshPool (slots : Nat) (hr : s.te.relocsOk) (hh : s.mnt.holding.tableOk) :
    (dropNewSlots { s with ov := freshPool slots }).storeOk := by
  refine ⟨⟨List.Pairwise.nil, by simp [dropNewSlots, setRelocs, freshPool]⟩, fun n => ?_,
    dropNewSlots_relocsOk (s := { s with ov := freshPool slots }) hr, hh, List.nodup_nil, by simp [dropNewSlots, setRelocs, freshPool]⟩
  rw [placesOf_eq, dropNewSlots_none]
  show (List.range slots).count n + _ + _ + _ + _ = if n < slots then 1 else 0
  rw [count_range]
  simp [dropNewSlots, setRelocs, freshPool]

/-! ## Merge and discard -/

/-- The entry of a merged grain gives up its slot: it goes, or stays for its lost blocks (R108). -/
theorem storeOwing_mergeUpdate {g slot : Nat} {e : Entry} (he : s.entry? g = some e) (hs : e.slot = some slot)
    (o : s.storeOk) :
    (if e.lost = 0 then removeEntry g s
      else putEntry { e with slot := none, present := 0, state := .resident } s).storeOwing [slot] := by
  rw [← storeOwing_nil] at o
  have hslot : s.slotOf g = some slot := by simp [State.slotOf, he, hs]
  split
  · have := storeOwing_removeEntry g o
    rw [hslot] at this
    exact this
  · rename_i hl
    have := storeOwing_putEntry (l := []) (s := s) (e := { e with slot := none, present := 0, state := .resident })
      (by
        show maskConditions none 0 e.lost = true
        exact maskConditions_none.2 ⟨rfl, hl⟩) o
    have hg : ({ e with slot := none, present := 0, state := .resident } : Entry).grain = g := (entry_mem he).2
    rw [hg, hslot] at this
    rw [← hg] at this
    exact this

/-- The entries of a region go; their slots are to be released or retired (R114). -/
theorem storeOwing_removeRegion (region : Nat) (o : s.storeOk) :
    ({ s with ov := { s.ov with table := s.ov.table.filter fun e => decide (e.region ≠ region) } } : State).storeOwing
      (s.regionSlots region) := by
  refine ⟨⟨filter_ordered _ o.1.1, fun x hx => o.1.2 x (List.mem_of_mem_filter hx)⟩, fun n => ?_, o.2.2⟩
  show _ = if n < s.ov.slots then 1 else 0
  have h := o.2.1 n
  have hc : ∀ es : List Entry, (es.filterMap (·.slot)).count n =
      ((es.filter fun e => decide (e.region = region)).filterMap (·.slot)).count n +
        ((es.filter fun e => decide (e.region ≠ region)).filterMap (·.slot)).count n := by
    intro es
    induction es with
    | nil => rfl
    | cons x xs ih =>
      by_cases hx : x.region = region
      · simp only [List.filter_cons, hx, decide_true, if_true, ne_eq, not_true, decide_false, Bool.false_eq_true,
          if_false, count_filterMap_cons] at *
        omega
      · simp only [List.filter_cons, hx, decide_false, Bool.false_eq_true, if_false, ne_eq, not_false_iff, decide_true,
          if_true, count_filterMap_cons] at *
        omega
  have := hc s.ov.table
  simp only [placesOf_eq, State.regionSlots] at *
  omega

/-! ## What a mount rebuilds (R140, R141, R143) -/

theorem holding_empty_tableOk : Holding.empty.tableOk := by
  simp [Holding.tableOk, Holding.rebuiltOk, Holding.empty]

theorem holding_chosen_tableOk (c : Nat × AnchorImage) : Holding.tableOk { Holding.empty with chosen := some c } := by
  simp [Holding.tableOk, Holding.rebuiltOk, Holding.empty]

/-- What is not in the rebuilt table, the retired set, the order number and the layout does not matter. -/
theorem rebuiltOk_of {h k : Holding} (ht : k.table = h.table) (hr : k.retired = h.retired) (ho : k.order = h.order)
    (hs : k.slots = h.slots) (o : h.rebuiltOk) : k.rebuiltOk := by
  unfold Holding.rebuiltOk at *
  rw [ht, hr, ho, hs]
  exact o

theorem tableOk_of {h k : Holding} (ht : k.table = h.table) (hr : k.retired = h.retired) (ho : k.order = h.order)
    (hs : k.slots = h.slots) (o : h.tableOk) : k.tableOk := ⟨rebuiltOk_of ht hr ho hs o.1, ht ▸ o.2⟩

theorem mem_insertRebuilt {e y : Rebuilt} {l : List Rebuilt} (h : y ∈ insertRebuilt e l) : y = e ∨ y ∈ l := by
  induction l with
  | nil => simpa [insertRebuilt] using h
  | cons x xs ih =>
    unfold insertRebuilt at h
    split at h
    · rcases List.mem_cons.1 h with h | h
      · exact Or.inr (by simp [h])
      · rcases ih h with h | h
        · exact Or.inl h
        · exact Or.inr (by simp [h])
    · split at h
      · rcases List.mem_cons.1 h with h | h
        · exact Or.inl h
        · exact Or.inr (by simp [h])
      · simpa using h

theorem insertRebuilt_ordered {e : Rebuilt} {l : List Rebuilt} (h : (l.map (·.entry.grain)).Pairwise (· < ·)) :
    ((insertRebuilt e l).map (·.entry.grain)).Pairwise (· < ·) := by
  induction l with
  | nil => simp [insertRebuilt]
  | cons x xs ih =>
    have hx := List.pairwise_cons.1 h
    unfold insertRebuilt
    split
    · refine List.pairwise_cons.2 ⟨?_, ih hx.2⟩
      intro g hg
      rcases List.mem_map.1 hg with ⟨y, hy, rfl⟩
      rcases mem_insertRebuilt hy with rfl | hy
      · assumption
      · exact hx.1 _ (List.mem_map.2 ⟨y, hy, rfl⟩)
    · split
      · refine List.pairwise_cons.2 ⟨?_, hx.2⟩
        intro g hg
        have := hx.1 g hg
        dsimp only at this ⊢
        omega
      · refine List.pairwise_cons.2 ⟨?_, h⟩
        intro g hg
        rcases List.mem_cons.1 hg with rfl | hg
        · dsimp only at *
          omega
        · have := hx.1 g hg
          dsimp only at this ⊢
          omega

theorem ascending_pairwise {l : List Nat} (h : ascending l = true) : l.Pairwise (· < ·) := by
  induction l with
  | nil => exact List.Pairwise.nil
  | cons a l ih =>
    cases l with
    | nil => simp
    | cons b r =>
      simp only [ascending, Bool.and_eq_true, decide_eq_true_eq] at h
      have hb := ih h.2
      refine List.pairwise_cons.2 ⟨?_, hb⟩
      intro x hx
      rcases List.mem_cons.1 hx with rfl | hx
      · exact h.1
      · have := (List.pairwise_cons.1 hb).1 x hx
        omega

theorem insertRebuilt_orders {r : Rebuilt} {rs : List Rebuilt} (hn : (rs.map (·.order)).Nodup)
    (hf : ∀ x ∈ rs, x.order < r.order) : ((insertRebuilt r rs).map (·.order)).Nodup := by
  induction rs with
  | nil => simp [insertRebuilt]
  | cons x xs ih =>
    have hx := List.nodup_cons.1 hn
    have hxs : ∀ y ∈ xs, y.order < r.order := fun y hy => hf y (List.mem_cons_of_mem _ hy)
    have hxr := hf x (List.mem_cons_self ..)
    unfold insertRebuilt
    split
    · refine List.nodup_cons.2 ⟨?_, ih hx.2 hxs⟩
      intro hm
      rcases List.mem_map.1 hm with ⟨y, hy, e⟩
      dsimp only at e
      rcases mem_insertRebuilt hy with rfl | hy
      · omega
      · exact hx.1 (List.mem_map.2 ⟨y, hy, e⟩)
    · split
      · refine List.nodup_cons.2 ⟨?_, hx.2⟩
        intro hm
        rcases List.mem_map.1 hm with ⟨y, hy, e⟩
        have := hxs y hy
        dsimp only at e
        omega
      · refine List.nodup_cons.2 ⟨?_, hn⟩
        intro hm
        rcases List.mem_map.1 hm with ⟨y, hy, e⟩
        have := hf y hy
        dsimp only at e
        omega

theorem applyRecord_slots (b : RecordBody) (h : Holding) : (applyRecord b h).slots = h.slots := by cases b <;> rfl

/-- A record keeps what a mount has rebuilt well formed; the table may pass its capacity inside a block (R118, R141; log entry
51). -/
theorem applyRecord_rebuiltOk {b : RecordBody} {h : Holding} (g : recordGood h.slots b = true) (o : h.rebuiltOk) :
    (applyRecord b h).rebuiltOk := by
  obtain ⟨o1, o2, o3, o4, o5⟩ := o
  have keep : ∀ p : Rebuilt → Bool, ({ h with order := h.order + 1, table := h.table.filter p } : Holding).rebuiltOk := by
    intro p
    refine ⟨filter_ordered _ o1, fun x hx => ?_, o3.sublist (List.filter_sublist.map _), o4, o5⟩
    obtain ⟨a, b', c⟩ := o2 x (List.mem_of_mem_filter hx)
    exact ⟨a, b', Nat.lt_succ_of_lt c⟩
  cases b with
  | entry gr region slot present lost =>
    simp only [recordGood, recordSlotGood, Bool.and_eq_true] at g
    refine ⟨insertRebuilt_ordered o1, fun x hx => ?_, insertRebuilt_orders o3 fun x hx => (o2 x hx).2.2, o4, o5⟩
    rcases mem_insertRebuilt hx with rfl | hx
    · refine ⟨g.2, ?_, Nat.lt_succ_self _⟩
      intro n hn
      have hn : slot = some n := hn
      have := g.1
      rw [hn] at this
      have : n < h.slots := by simpa using this
      exact this
    · obtain ⟨a, b', c⟩ := o2 x hx
      exact ⟨a, b', Nat.lt_succ_of_lt c⟩
  | remove gr => exact keep _
  | discard region => exact keep _
  | retire n =>
    have hn : n < h.slots := by simpa [recordGood, recordSlotGood] using g
    refine ⟨o1, fun x hx => ?_, o3, ?_, ?_⟩
    · obtain ⟨a, b', c⟩ := o2 x hx
      exact ⟨a, b', Nat.lt_succ_of_lt c⟩
    · show (if h.retired.contains n then h.retired else h.retired ++ [n]).Nodup
      split
      · exact o4
      · rename_i hc
        refine List.nodup_append.2 ⟨o4, by simp, ?_⟩
        intro x hx y hy
        rw [List.mem_singleton.1 hy]
        rintro rfl
        exact hc (by simpa using hx)
    · intro m hm
      have hm : m ∈ (if h.retired.contains n then h.retired else h.retired ++ [n]) := hm
      split at hm
      · exact o5 m hm
      · rcases List.mem_append.1 hm with hm | hm
        · exact o5 m hm
        · rw [List.mem_singleton.1 hm]
          exact hn

theorem foldl_applyRecord_rebuiltOk {recs : List RecordBody} {h : Holding} (g : recs.all (recordGood h.slots) = true)
    (o : h.rebuiltOk) : (recs.foldl (fun x r => applyRecord r x) h).rebuiltOk ∧
      (recs.foldl (fun x r => applyRecord r x) h).slots = h.slots := by
  induction recs generalizing h with
  | nil => exact ⟨o, rfl⟩
  | cons b bs ih =>
    simp only [List.all_cons, Bool.and_eq_true] at g
    have := ih (h := applyRecord b h) (by rw [applyRecord_slots]; exact g.2) (applyRecord_rebuiltOk g.1 o)
    rw [applyRecord_slots] at this
    exact this

theorem replayBlock_tableOk {bytes : Block} {h h' : Holding} (e : replayBlock bytes h = some h') (o : h.tableOk) :
    h'.tableOk := by
  unfold replayBlock at e
  split at e
  · cases e
  · split at e
    · rename_i hc
      dsimp only at e
      split at e
      · rename_i hl
        cases e
        exact ⟨rebuiltOk_of rfl rfl rfl rfl (foldl_applyRecord_rebuiltOk hc.2.2 o.1).1, hl⟩
      · cases e
    · cases e

theorem zipIdx_order {es : List Entry} {k : Nat} :
    (((es.zipIdx k).map fun x => ({ entry := x.1, order := x.2 } : Rebuilt)).map (·.order)) = List.range' k es.length := by
  induction es generalizing k with
  | nil => rfl
  | cons a es ih =>
    rw [List.zipIdx_cons, List.map_cons, List.map_cons, ih, List.length_cons, List.range'_succ]

/-- The image of a candidate that meets the conditions of R140 is well formed. -/
theorem loadImage_tableOk {c : Candidate} {h : Holding} {hdr : CkHeader} (g : imageLoads h hdr = true) :
    (loadImage c h).tableOk := by
  unfold imageLoads at g
  simp only [Bool.and_eq_true, List.all_eq_true, decide_eq_true_eq] at g
  obtain ⟨⟨⟨⟨⟨_, _⟩, hb⟩, he⟩, ha⟩, hl⟩ := g
  have hgr : (loadImage c h).table.map (·.entry.grain) = h.image.map (·.grain) := by
    unfold loadImage
    simp only [List.map_map]
    have : ∀ (l : List Entry) (k : Nat), (l.zipIdx k).map ((fun x : Rebuilt => x.entry.grain) ∘
        fun x : Entry × Nat => ({ entry := x.1, order := x.2 } : Rebuilt)) = l.map (·.grain) := by
      intro l
      induction l with
      | nil => intro k; rfl
      | cons a l ih => intro k; simp [List.zipIdx_cons, ih]
    exact this _ _
  have hord : (loadImage c h).table.map (·.order) = List.range' 0 h.image.length := zipIdx_order
  have hnd : (bitmapSlots h.bitmap).Nodup := List.nodup_range.sublist List.filter_sublist
  have hlen : (loadImage c h).table.length = h.image.length := by simp [loadImage]
  refine ⟨⟨hgr ▸ ascending_pairwise ha, ?_, hord ▸ List.nodup_range', hnd, hb⟩, hlen ▸ hl⟩
  intro x hx
  have ho : x.order ∈ List.range' 0 h.image.length := hord ▸ List.mem_map.2 ⟨x, hx, rfl⟩
  rcases List.mem_map.1 hx with ⟨y, hy, rfl⟩
  have hm : y.1 ∈ h.image := by
    have := List.mem_map (f := Prod.fst) |>.2 ⟨y, hy, rfl⟩
    rwa [List.zipIdx_map_fst] at this
  obtain ⟨hs, hc⟩ := he y.1 hm
  refine ⟨hc, ?_, ?_⟩
  · intro n hn
    have hn : y.1.slot = some n := hn
    rw [hn] at hs
    have hs : n < h.slots := by simpa using hs
    exact hs
  · simp only [List.mem_range'_1] at ho
    show y.2 < h.image.length
    omega

/-- The repair takes entries out of the table and adds none (R143). -/
theorem repair_length (m : RegionMap) (h : Holding) : (repair m h).table.length ≤ h.table.length := by
  unfold repair
  simpa using List.length_filter_le _ h.table

/-- A mount hands over no more entries than the Overlay Table holds (R20, R144). -/
theorem handOverPool_length (m : RegionMap) {h : Holding} (o : h.tableOk) (ov : OverlayUnit) :
    (handOverPool (repair m h) ov).table.length ≤ 16384 := by
  simpa [handOverPool] using (repair_length m h).trans o.2

/-- After the repair no slot is named twice, and none that is retired is named (R143). -/
theorem repair_slots {m : RegionMap} {h : Holding} (o : h.tableOk) :
    (((repair m h).table.map (·.entry)).filterMap (·.slot)).Nodup ∧
      (∀ n ∈ ((repair m h).table.map (·.entry)).filterMap (·.slot), n < h.slots ∧ n ∉ h.retired) ∧
      (((repair m h).table.map (·.entry)).map (·.grain)).Pairwise (· < ·) ∧
      ∀ e ∈ (repair m h).table.map (·.entry), maskConditions e.slot e.present e.lost = true := by
  obtain ⟨⟨o1, o2, o3, o4, o5⟩, _⟩ := o
  have hkept : ∀ x ∈ h.table.filter (fun r => inKeepRegion m r.entry), x ∈ h.table := fun x hx => List.mem_of_mem_filter hx
  have hon : ((h.table.filter fun r => inKeepRegion m r.entry).map (·.order)).Nodup :=
    o3.sublist (List.filter_sublist.map _)
  have hgr : ((h.table.filter fun r => inKeepRegion m r.entry).map (·.entry.grain)).Pairwise (· < ·) := filter_ordered _ o1
  have htab : (repair m h).table.map (·.entry) = (h.table.filter fun r => inKeepRegion m r.entry).map fun r =>
      if losesSlot (h.table.filter fun r => inKeepRegion m r.entry) h.retired r then lostOnlyEntry r.entry else r.entry := by
    unfold repair
    rw [List.map_map]
    refine List.map_congr_left fun r _ => ?_
    simp only [Function.comp_apply]
    split <;> rfl
  rw [htab]
  generalize h.table.filter (fun r => inKeepRegion m r.entry) = kept at *
  have hslot : ∀ r : Rebuilt, ∀ n,
      (if losesSlot kept h.retired r then lostOnlyEntry r.entry else r.entry).slot = some n →
        r.entry.slot = some n ∧ losesSlot kept h.retired r = false := by
    intro r n hn
    split at hn
    · cases hn
    · rename_i hl
      exact ⟨hn, by simpa using hl⟩
  refine ⟨?_, ?_, ?_, ?_⟩
  · rw [List.filterMap_map]
    refine List.pairwise_filterMap.2 (List.Pairwise.imp_of_mem ?_ (List.pairwise_map.1 hon))
    intro a b ha hb hab n hn k hk
    rintro rfl
    obtain ⟨a1, a2⟩ := hslot a n hn
    obtain ⟨b1, b2⟩ := hslot b n hk
    have key : ∀ x y : Rebuilt, y ∈ kept → x.entry.slot = some n → y.entry.slot = some n →
        losesSlot kept h.retired x = false → ¬ x.order < y.order := by
      intro x y hy hx hys hl hlt
      simp only [losesSlot, hx, Bool.or_eq_false_iff, List.any_eq_false, Bool.and_eq_true, decide_eq_true_eq,
        not_and] at hl
      exact hl.2 y hy hys hlt
    have := key a b hb a1 b1 a2
    have := key b a ha b1 a1 b2
    omega
  · intro n hn
    rcases List.mem_filterMap.1 hn with ⟨e, he, hs⟩
    rcases List.mem_map.1 he with ⟨r, hr, rfl⟩
    obtain ⟨a, b⟩ := hslot r n hs
    refine ⟨(o2 r (hkept r hr)).2.1 n a, ?_⟩
    intro hc
    simp [losesSlot, a, hc] at b
  · rw [List.map_map]
    have : ((fun e : Entry => e.grain) ∘ fun r : Rebuilt =>
        if losesSlot kept h.retired r then lostOnlyEntry r.entry else r.entry) = fun r => r.entry.grain := by
      funext r
      simp only [Function.comp_apply]
      split <;> rfl
    rw [this]
    exact hgr
  · intro e he
    rcases List.mem_map.1 he with ⟨r, hr, rfl⟩
    have hc := (o2 r (hkept r hr)).1
    split
    · show maskConditions none 0 (r.entry.lost ||| r.entry.present) = true
      refine maskConditions_none.2 ⟨rfl, ?_⟩
      rw [BitVec.or_comm]
      exact maskConditions_ne_zero hc
    · exact hc

theorem count_nodup {xs : List Nat} (h : xs.Nodup) (n : Nat) : xs.count n = if n ∈ xs then 1 else 0 := by
  split
  · rename_i hm
    exact List.count_eq_one_of_mem h hm
  · rename_i hm
    exact List.count_eq_zero_of_not_mem hm

/-- The store a mount hands over (R143, R144). -/
theorem storeOk_handOver (m : RegionMap) (ov : OverlayUnit) (j : JournalUnit) (hr : s.te.relocsOk)
    (o : s.mnt.holding.tableOk) :
    (dropNewSlots { s with ov := handOverPool (repair m s.mnt.holding) ov, jrn := j }).storeOk := by
  obtain ⟨r1, r2, r3, r4⟩ := repair_slots (m := m) o
  have hret : (repair m s.mnt.holding).retired = s.mnt.holding.retired := rfl
  have hsl : (repair m s.mnt.holding).slots = s.mnt.holding.slots := rfl
  refine ⟨⟨r3, r4⟩, fun n => ?_, dropNewSlots_relocsOk (s := { s with ov := _, jrn := j }) hr, o, List.nodup_nil, by simp [dropNewSlots, setRelocs, handOverPool]⟩
  rw [placesOf_eq, dropNewSlots_none]
  show ((List.range (repair m s.mnt.holding).slots).filter _).count n + _ + _ + _ + _ =
    if n < (repair m s.mnt.holding).slots then 1 else 0
  simp only [dropNewSlots, setRelocs, handOverPool, List.map_nil, List.count_nil, Nat.add_zero]
  rw [hret, hsl]
  rw [count_nodup (List.nodup_range.sublist List.filter_sublist), count_nodup r1, count_nodup o.1.2.2.2.1]
  generalize ((repair m s.mnt.holding).table.map (·.entry)).filterMap (·.slot) = bound at *
  have ho := o.1.2.2.2.2 n
  have hb := r2 n
  simp only [List.mem_filter, List.mem_range, Bool.and_eq_true, Bool.not_eq_true', List.contains_eq_mem,
    decide_eq_false_iff_not]
  by_cases h1 : n ∈ bound
  · obtain ⟨h2, h3⟩ := hb h1
    simp [h1, h2, h3]
  · by_cases h2 : n ∈ s.mnt.holding.retired
    · simp [h1, h2, ho h2]
    · simp [h1, h2]

end Sys2Proof.Machine
end

