-- ==== Sys2Proof/Laws/Keeps.lean ====
section
/-! SUPPORT. What every shared operation keeps: the commands that wait, the hold state, the frames sent so far, the bounds
of notice queues, charges and tags, the faces of the target operations, the link, and the overlay store's form. One lemma
per operation, in a form that composes: what held from `s` to `t` holds from `s` to the operation's result. -/

namespace Sys2Proof.Machine

/-! ## The notice queues (R178) -/

theorem offer_queueOk {b : NoticeBody} {r : Option Nat} {m : PortMgmt} (h : m.queueOk) : (offer b r m).queueOk := by
  unfold offer
  split
  · refine ⟨by simpa using h.1, ?_⟩
    have : (m.notices.map (coalesce b r)).map (fun n => (n.body.kind, n.region)) =
        m.notices.map fun n => (n.body.kind, n.region) := by
      rw [List.map_map]
      refine List.map_congr_left ?_
      intro n _
      simp only [Function.comp_apply, coalesce]
      split
      · rename_i e
        simp only [sameNotice, Bool.and_eq_true, decide_eq_true_eq] at e
        simp [e.1]
      · rfl
    simp only
    rw [this]
    exact h.2
  · split
    · rename_i hn hl
      refine ⟨?_, ?_⟩
      · simp only [List.length_append, List.length_cons, List.length_nil]
        have : Config.noticeMax = 30 := rfl
        omega
      · simp only [List.map_append, List.map_cons, List.map_nil]
        refine List.nodup_append.2 ⟨h.2, by simp, ?_⟩
        intro x hx y hy e
        simp only [List.mem_singleton] at hy
        subst hy
        subst e
        rcases List.mem_map.1 hx with ⟨n, hn', e⟩
        refine hn (List.any_eq_true.2 ⟨n, hn', ?_⟩)
        simp only [Prod.mk.injEq] at e
        simp [sameNotice, e.1, e.2]
    · exact h

/-! ## The relation -/

/-- What an operation of the part keeps. -/
structure Keeps (s t : State) : Prop where
  pending : t.pending = s.pending
  hold    : t.map.hold = s.map.hold
  outA    : s.outA <+: t.outA
  outB    : s.outB <+: t.outB
  outT    : s.outT <+: t.outT
  notices : s.noticesOk → t.noticesOk
  quota   : s.pool.withinQuota → t.pool.withinQuota
  ports   : s.portsOk → t.portsOk
  faces   : t.te.ops.map TargetOp.face = s.te.ops.map TargetOp.face
  link    : t.te.link = s.te.link
  wait    : t.te.resetWait = s.te.resetWait
  queues  : s.te.queuesOk → t.te.queuesOk
  store   : s.storeOk → t.storeOk

theorem Keeps.refl (s : State) : Keeps s s :=
  ⟨rfl, rfl, List.prefix_rfl, List.prefix_rfl, List.prefix_rfl, id, id, id, rfl, rfl, rfl, id, id⟩

theorem Keeps.trans {s t u : State} (a : Keeps s t) (b : Keeps t u) : Keeps s u :=
  ⟨b.pending.trans a.pending, b.hold.trans a.hold, a.outA.trans b.outA, a.outB.trans b.outB, a.outT.trans b.outT,
   b.notices ∘ a.notices, b.quota ∘ a.quota, b.ports ∘ a.ports, b.faces.trans a.faces, b.link.trans a.link, b.wait.trans a.wait,
   b.queues ∘ a.queues, b.store ∘ a.store⟩

/-! ## One unit changed -/

theorem Keeps.adm (s : State) (a : AdmissionUnit) : Keeps s { s with adm := a } :=
  ⟨rfl, rfl, List.prefix_rfl, List.prefix_rfl, List.prefix_rfl, id, id, id, rfl, rfl, rfl, id, id⟩

theorem Keeps.mrg (s : State) (m : MergeUnit) : Keeps s { s with mrg := m } :=
  ⟨rfl, rfl, List.prefix_rfl, List.prefix_rfl, List.prefix_rfl, id, id, id, rfl, rfl, rfl, id, id⟩

theorem Keeps.jrn (s : State) (j : JournalUnit) : Keeps s { s with jrn := j } :=
  ⟨rfl, rfl, List.prefix_rfl, List.prefix_rfl, List.prefix_rfl, id, id, id, rfl, rfl, rfl, id, id⟩

theorem Keeps.free (s : State) (n : Nat) : Keeps s { s with free := n } :=
  ⟨rfl, rfl, List.prefix_rfl, List.prefix_rfl, List.prefix_rfl, id, id, id, rfl, rfl, rfl, id, id⟩

theorem Keeps.map (s : State) (m : MapUnit) (h : m.hold = s.map.hold) : Keeps s { s with map := m } :=
  ⟨rfl, h, List.prefix_rfl, List.prefix_rfl, List.prefix_rfl, id, id, id, rfl, rfl, rfl, id, id⟩

theorem Keeps.ov (s : State) (o : OverlayUnit) (h : s.storeOk → ({ s with ov := o } : State).storeOk) :
    Keeps s { s with ov := o } :=
  ⟨rfl, rfl, List.prefix_rfl, List.prefix_rfl, List.prefix_rfl, id, id, id, rfl, rfl, rfl, id, h⟩

theorem Keeps.mnt (s : State) (m : MountUnit) (h : s.mnt.holding.tableOk → m.holding.tableOk) :
    Keeps s { s with mnt := m } :=
  ⟨rfl, rfl, List.prefix_rfl, List.prefix_rfl, List.prefix_rfl, id, id, id, rfl, rfl, rfl, id,
   fun x => ⟨x.1, x.2.1, x.2.2.1, h x.2.2.2.1, x.2.2.2.2⟩⟩

theorem Keeps.pool (s : State) (b : BufferPool) (h : s.pool.withinQuota → b.withinQuota) : Keeps s { s with pool := b } :=
  ⟨rfl, rfl, List.prefix_rfl, List.prefix_rfl, List.prefix_rfl, id, h, id, rfl, rfl, rfl, id, id⟩

theorem Keeps.te (s : State) (te : TransferEngine) (hf : te.ops.map TargetOp.face = s.te.ops.map TargetOp.face)
    (hl : te.link = s.te.link) (hw : te.resetWait = s.te.resetWait) (hq : s.te.queuesOk → te.queuesOk)
    (hr : te.relocs.map Reloc.face = s.te.relocs.map Reloc.face) : Keeps s { s with te := te } :=
  ⟨rfl, rfl, List.prefix_rfl, List.prefix_rfl, List.prefix_rfl, id, id, id, hf, hl, hw, hq, storeOk_same rfl hr rfl⟩

/-- All but the overlay store. -/
structure Rest (s t : State) : Prop where
  pending : t.pending = s.pending
  hold    : t.map.hold = s.map.hold
  outA    : s.outA <+: t.outA
  outB    : s.outB <+: t.outB
  outT    : s.outT <+: t.outT
  notices : s.noticesOk → t.noticesOk
  quota   : s.pool.withinQuota → t.pool.withinQuota
  ports   : s.portsOk → t.portsOk
  faces   : t.te.ops.map TargetOp.face = s.te.ops.map TargetOp.face
  link    : t.te.link = s.te.link
  wait    : t.te.resetWait = s.te.resetWait
  queues  : s.te.queuesOk → t.te.queuesOk

theorem Keeps.rest {s t : State} (h : Keeps s t) : Rest s t :=
  ⟨h.pending, h.hold, h.outA, h.outB, h.outT, h.notices, h.quota, h.ports, h.faces, h.link, h.wait, h.queues⟩

theorem Rest.keeps {s t : State} (h : Rest s t) (o : s.storeOk → t.storeOk) : Keeps s t :=
  ⟨h.pending, h.hold, h.outA, h.outB, h.outT, h.notices, h.quota, h.ports, h.faces, h.link, h.wait, h.queues, o⟩

theorem Rest.trans {s t u : State} (a : Rest s t) (b : Rest t u) : Rest s u :=
  ⟨b.pending.trans a.pending, b.hold.trans a.hold, a.outA.trans b.outA, a.outB.trans b.outB, a.outT.trans b.outT,
   b.notices ∘ a.notices, b.quota ∘ a.quota, b.ports ∘ a.ports, b.faces.trans a.faces, b.link.trans a.link, b.wait.trans a.wait,
   b.queues ∘ a.queues⟩

theorem Rest.ov (s : State) (o : OverlayUnit) : Rest s { s with ov := o } :=
  ⟨rfl, rfl, List.prefix_rfl, List.prefix_rfl, List.prefix_rfl, id, id, id, rfl, rfl, rfl, id⟩

theorem Rest.relocs (s : State) (rs : List Reloc) : Rest s { s with te := { s.te with relocs := rs } } :=
  ⟨rfl, rfl, List.prefix_rfl, List.prefix_rfl, List.prefix_rfl, id, id, id, rfl, rfl, rfl, id⟩

theorem Keeps.mg (s : State) (p : Port) (m : PortMgmt) (h : (s.mg p).queueOk → m.queueOk) : Keeps s (s.setMg p m) := by
  cases p
  · exact ⟨rfl, rfl, List.prefix_rfl, List.prefix_rfl, List.prefix_rfl, fun x => ⟨h x.1, x.2⟩, id, id, rfl, rfl, rfl, id, id⟩
  · exact ⟨rfl, rfl, List.prefix_rfl, List.prefix_rfl, List.prefix_rfl, fun x => ⟨x.1, h x.2⟩, id, id, rfl, rfl, rfl, id, id⟩

theorem Keeps.hp (s : State) (p : Port) (u : HostPortUnit) (h : (s.hp p).tags.length = 16 → u.tags.length = 16) :
    Keeps s (s.setHp p u) := by
  cases p
  · exact ⟨rfl, rfl, List.prefix_rfl, List.prefix_rfl, List.prefix_rfl, id, id, fun x => ⟨h x.1, x.2⟩, rfl, rfl, rfl, id, id⟩
  · exact ⟨rfl, rfl, List.prefix_rfl, List.prefix_rfl, List.prefix_rfl, id, id, fun x => ⟨x.1, h x.2⟩, rfl, rfl, rfl, id, id⟩

variable {s t : State}

theorem keeps_foldl {α : Type} {f : State → α → State} (hf : ∀ t x, Keeps s t → Keeps s (f t x)) (l : List α)
    (h : Keeps s t) : Keeps s (l.foldl f t) := by
  induction l generalizing t with
  | nil => exact h
  | cons x xs ih => exact ih (hf _ _ h)

/-! ## Ports, frames, notices and buffers -/

theorem keeps_send (p : Port) (f : HostFrame) (h : Keeps s t) : Keeps s (t.send p f) := by
  refine h.trans ?_
  cases p
  · exact ⟨rfl, rfl, List.prefix_append _ _, List.prefix_rfl, List.prefix_rfl, id, id, id, rfl, rfl, rfl, id, id⟩
  · exact ⟨rfl, rfl, List.prefix_rfl, List.prefix_append _ _, List.prefix_rfl, id, id, id, rfl, rfl, rfl, id, id⟩

theorem keeps_sendT (f : TargetFrame) (h : Keeps s t) : Keeps s (t.sendT f) :=
  h.trans ⟨rfl, rfl, List.prefix_rfl, List.prefix_rfl, List.prefix_append _ _, id, id, id, rfl, rfl, rfl, id, id⟩

theorem keeps_setTag (c : CmdId) (x : Tag) (h : Keeps s t) : Keeps s (t.setTag c x) :=
  h.trans (Keeps.hp _ _ _ (by simp))

theorem keeps_sendStatus (c : CmdId) (res : Result) (done : Nat) (d : Option Nat) (v : Nat) (h : Keeps s t) :
    Keeps s (sendStatus c res done d v t) := keeps_setTag _ _ (keeps_send _ _ h)

theorem keeps_raise (b : NoticeBody) (r : Option Nat) (h : Keeps s t) : Keeps s (raise b r t) :=
  h.trans ⟨rfl, rfl, List.prefix_rfl, List.prefix_rfl, List.prefix_rfl,
    fun x => ⟨offer_queueOk x.1, offer_queueOk x.2⟩, id, id, rfl, rfl, rfl, id, id⟩

theorem keeps_answer (o : Option Port) (res : Reply) (a b c d : Nat) (i : List (List Byte)) (h : Keeps s t) :
    Keeps s (answer o res a b c d i t) := by
  unfold answer
  split
  · exact h
  · exact h.trans (Keeps.mg _ _ _ id)

theorem keeps_answerPlain (o : Option Port) (res : Reply) (h : Keeps s t) : Keeps s (answerPlain o res t) :=
  keeps_answer _ _ _ _ _ _ _ h

theorem setClaims_withinQuota {b : BufferPool} {o : BufOwner} {l : List BufClaim} (h : b.withinQuota) :
    (b.setClaims o l).withinQuota := by
  cases o with
  | host p => cases p <;> exact h
  | internal => exact h

theorem setCharge_withinQuota {b : BufferPool} {o : BufOwner} {n : Nat} (h : b.withinQuota) (hn : n ≤ quotaOf o) :
    (b.setCharge o n).withinQuota := by
  cases o with
  | host p => cases p
              · exact ⟨hn, h.2.1, h.2.2⟩
              · exact ⟨h.1, hn, h.2.2⟩
  | internal => exact ⟨h.1, h.2.1, hn⟩

theorem charge_le_quota {b : BufferPool} (o : BufOwner) (h : b.withinQuota) : b.charge o ≤ quotaOf o := by
  cases o with
  | host p => cases p
              · exact h.1
              · exact h.2.1
  | internal => exact h.2.2

theorem keeps_placeClaim (o : BufOwner) (w : ClaimFor) (n : Nat) (h : Keeps s t) : Keeps s (placeClaim o w n t) :=
  h.trans (Keeps.pool _ _ setClaims_withinQuota)

theorem keeps_dropClaims (o : BufOwner) (w : ClaimFor → Bool) (h : Keeps s t) : Keeps s (dropClaims o w t) :=
  h.trans (Keeps.pool _ _ setClaims_withinQuota)

theorem keeps_release (o : BufOwner) (n : Nat) (h : Keeps s t) : Keeps s (release o n t) :=
  h.trans (Keeps.pool _ _ fun q => setCharge_withinQuota q (Nat.le_trans (Nat.sub_le _ _) (charge_le_quota o q)))

/-! ## The arbiter's queues -/

theorem queuesOk_setQueue {te : TransferEngine} {c : TClass} {l : List Request} (h : te.queuesOk)
    (hl : ∀ r ∈ l, r.owner ≠ .link) : (te.setQueue c l).queuesOk := by
  have key : ∀ r, r ∈ te.journalQ ∨ r ∈ te.recoveryQ ∨ r ∈ te.hostAQ ∨ r ∈ te.hostBQ ∨ r ∈ te.backQ ∨
      r ∈ te.intervals → r.owner ≠ .link := by
    intro r hr
    exact h r (by simpa [or_assoc] using hr)
  intro r hr
  cases c with
  | host p => cases p <;> simp only [TransferEngine.setQueue, List.mem_append] at hr <;> grind
  | _ => simp only [TransferEngine.setQueue, List.mem_append] at hr <;> grind

theorem queuesOk_mem_queue {te : TransferEngine} {c : TClass} (h : te.queuesOk) :
    ∀ r ∈ te.queue c, r.owner ≠ .link := by
  intro r hr
  refine h r ?_
  cases c with
  | host p => cases p <;> simp only [TransferEngine.queue] at hr <;> simp [hr]
  | _ => simp only [TransferEngine.queue] at hr <;> simp [hr]

theorem keeps_enqueue (r : Request) (hr : r.owner ≠ .link) (h : Keeps s t) : Keeps s (enqueue r t) := by
  refine h.trans (Keeps.te _ _ ?_ ?_ ?_ ?_ ?_)
  · cases hc : r.cls with
    | host p => cases p <;> rfl
    | _ => rfl
  · cases hc : r.cls with
    | host p => cases p <;> rfl
    | _ => rfl
  · cases hc : r.cls with
    | host p => cases p <;> rfl
    | _ => rfl
  · intro q
    refine queuesOk_setQueue q ?_
    intro x hx
    rcases List.mem_append.1 hx with hx | hx
    · exact queuesOk_mem_queue q x hx
    · simp only [List.mem_singleton] at hx
      exact hx ▸ hr
  · cases hc : r.cls with
    | host p => cases p <;> rfl
    | _ => rfl

theorem keeps_withdrawRequests (g : Owner → Bool) (h : Keeps s t) : Keeps s (withdrawRequests g t) := by
  refine h.trans (Keeps.te _ _ rfl rfl rfl ?_ rfl)
  intro q r hr
  refine q r ?_
  simp only [List.mem_append, List.mem_filter] at hr ⊢
  grind

theorem keeps_withdrawHost (g : Owner → Bool) (h : Keeps s t) : Keeps s (withdrawHost g t) := by
  refine h.trans (Keeps.te _ _ rfl rfl rfl ?_ rfl)
  intro q r hr
  refine q r ?_
  simp only [List.mem_append, List.mem_filter] at hr ⊢
  grind

theorem leftOwner_link {r : Record} {o : Owner} : r.leftOwner o = .link ↔ o = .link := by
  cases o <;> simp only [Record.leftOwner] <;> repeat' split
  all_goals simp_all

theorem leftOwner_journal {r : Record} {o : Owner} : r.leftOwner o = .journal ↔ o = .journal := by
  cases o <;> simp only [Record.leftOwner] <;> repeat' split
  all_goals simp_all

theorem leftOwner_face (r : Record) (o : TargetOp) : ({ o with req := o.req.rename r.leftOwner } : TargetOp).face = o.face := by
  simp only [TargetOp.face, Request.rename, leftOwner_link, leftOwner_journal]

theorem keeps_disown (r : Record) (h : Keeps s t) : Keeps s (disown r.leftOwner t) := by
  refine h.trans (Keeps.te _ _ ?_ rfl rfl ?_ rfl)
  · rw [List.map_map]
    exact List.map_congr_left fun o _ => leftOwner_face r o
  · intro q x hx
    have named : ∀ y, y ∈ t.te.recoveryQ ∨ y ∈ t.te.intervals → y.rename r.leftOwner = x → x.owner ≠ .link := by
      intro y hy e
      rw [← e]
      exact fun k => q y (by rcases hy with hy | hy <;> simp [hy]) (leftOwner_link.1 k)
    simp only [List.mem_append, List.mem_map] at hx
    rcases hx with ((((hx | ⟨y, hy, e⟩) | hx) | hx) | hx) | ⟨y, hy, e⟩
    · exact q x (by simp [hx])
    · exact named y (.inl hy) e
    · exact q x (by simp [hx])
    · exact q x (by simp [hx])
    · exact q x (by simp [hx])
    · exact named y (.inr hy) e

theorem keeps_setRelocs (f : List Reloc → List Reloc) (hf : (f t.te.relocs).map Reloc.face = t.te.relocs.map Reloc.face)
    (h : Keeps s t) : Keeps s (setRelocs f t) := h.trans (Keeps.te _ _ rfl rfl rfl id hf)

theorem keeps_mapReloc (g : Nat) (f : Reloc → Reloc) (hf : ∀ r, (f r).face = r.face) (h : Keeps s t) :
    Keeps s (mapReloc g f t) := keeps_setRelocs _ (mapReloc_faces hf _) h

/-- A relocation changes its face, and the store stays well formed. -/
theorem keeps_changeReloc (g : Nat) (f : Reloc → Reloc)
    (hf : t.storeOk → ∀ r, t.reloc? g = some r → (f r).grain = g ∧ (f r).newSlot = r.newSlot ∧ (f r).slotOk)
    (h : Keeps s t) : Keeps s (mapReloc g f t) :=
  h.trans ((Rest.relocs _ _).keeps fun o => storeOk_changeReloc (hf o) o)

/-! ## Records, order and tables -/

theorem keeps_mapRec (c : CmdId) (f : Record → Record) (h : Keeps s t) : Keeps s (mapRec c f t) := h.trans (Keeps.adm _ _)
theorem keeps_mapPiece (c : CmdId) (i : Nat) (f : Piece → Piece) (h : Keeps s t) : Keeps s (mapPiece c i f t) :=
  keeps_mapRec _ _ h
theorem keeps_unqueue (c : CmdId) (h : Keeps s t) : Keeps s (unqueue c t) := h.trans (Keeps.adm _ _)
theorem keeps_arrive (a : Arrival) (h : Keeps s t) : Keeps s (arrive a t) := h.trans (Keeps.adm _ _)
theorem keeps_setOrder (f : List Placed → List Placed) (h : Keeps s t) : Keeps s (setOrder f t) := h.trans (Keeps.adm _ _)
theorem keeps_unplace (r : ClaimRef) (h : Keeps s t) : Keeps s (unplace r t) := keeps_setOrder _ h
theorem keeps_placeAtEnd (r : ClaimRef) (h : Keeps s t) : Keeps s (placeAtEnd r t) := keeps_setOrder _ h
theorem keeps_dropDeferred (c : CmdId) (h : Keeps s t) : Keeps s (dropDeferred c t) := h.trans (Keeps.adm _ _)
theorem keeps_setPause (b : Bool) (h : Keeps s t) : Keeps s (setPause b t) := h.trans (Keeps.adm _ _)
theorem keeps_servePort (p : Port) (h : Keeps s t) : Keeps s (servePort p t) := h.trans (Keeps.adm _ _)
theorem keeps_setMrg (f : MergeUnit → MergeUnit) (h : Keeps s t) : Keeps s (setMrg f t) := h.trans (Keeps.mrg _ _)
theorem keeps_mapGrain (f : MergeGrain → MergeGrain) (h : Keeps s t) : Keeps s (mapGrain f t) := keeps_setMrg _ h
theorem keeps_setJrn (f : JournalUnit → JournalUnit) (h : Keeps s t) : Keeps s (setJrn f t) := h.trans (Keeps.jrn _ _)
theorem keeps_setFormat (f : Option Formatting → Option Formatting) (h : Keeps s t) : Keeps s (setFormat f t) :=
  h.trans (Keeps.mnt _ _ id)
theorem keeps_setMap (f : MapUnit → MapUnit) (hf : (f t.map).hold = t.map.hold) (h : Keeps s t) : Keeps s (setMap f t) :=
  h.trans (Keeps.map _ _ hf)
theorem keeps_clearUnavailable (h : Keeps s t) : Keeps s (clearUnavailable t) := h.trans (Keeps.map _ _ rfl)
theorem keeps_countDown (h : Keeps s t) : Keeps s (countDown t) := h.trans (Keeps.map _ _ rfl)
theorem keeps_setEntryState (g : Nat) (st : EntryState) (h : Keeps s t) : Keeps s (setEntryState g st t) :=
  h.trans (Keeps.ov _ _ fun o => storeOwing_nil.1 (storeOwing_setEntryState g st (storeOwing_nil.2 o)))
theorem keeps_drawIndex (n : Nat) (h : Keeps s t) : Keeps s (drawIndex n t).2 := h.trans (Keeps.free _ _)
theorem keeps_setMnt (f : MountUnit → MountUnit) (hf : t.mnt.holding.tableOk → (f t.mnt).holding.tableOk) (h : Keeps s t) :
    Keeps s (setMnt f t) := h.trans (Keeps.mnt _ _ hf)
theorem keeps_setHolding (f : Holding → Holding) (hf : t.mnt.holding.tableOk → (f t.mnt.holding).tableOk) (h : Keeps s t) :
    Keeps s (setHolding f t) := keeps_setMnt _ hf h

/-! ## The overlay store alone -/

theorem rest_putEntry (e : Entry) (h : Rest s t) : Rest s (putEntry e t) := h.trans (Rest.ov _ _)
theorem rest_removeEntry (g : Nat) (h : Rest s t) : Rest s (removeEntry g t) := h.trans (Rest.ov _ _)
theorem rest_joinRing (n : Nat) (h : Rest s t) : Rest s (joinRing n t) := h.trans (Rest.ov _ _)
theorem rest_retire (n : Nat) (h : Rest s t) : Rest s (retire n t) := h.trans (Rest.ov _ _)
theorem rest_setReservations (f : List Reservation → List Reservation) (h : Rest s t) : Rest s (setReservations f t) :=
  h.trans (Rest.ov _ _)
theorem rest_endReservation (g : Nat) (h : Rest s t) : Rest s (endReservation g t) := rest_setReservations _ h
theorem rest_mapReloc (g : Nat) (f : Reloc → Reloc) (h : Rest s t) : Rest s (mapReloc g f t) := h.trans (Rest.relocs _ _)
theorem rest_setRelocs (f : List Reloc → List Reloc) (h : Rest s t) : Rest s (setRelocs f t) := h.trans (Rest.relocs _ _)

theorem rest_foldl {α : Type} {f : State → α → State} (hf : ∀ t x, Rest s t → Rest s (f t x)) (l : List α)
    (h : Rest s t) : Rest s (l.foldl f t) := by
  induction l generalizing t with
  | nil => exact h
  | cons x xs ih => exact ih (hf _ _ h)

theorem rest_joinAll (slots : List Nat) (h : Rest s t) : Rest s (joinAll slots t) :=
  rest_foldl (fun _ _ k => rest_joinRing _ k) _ h

theorem rest_retireAll (slots : List Nat) (h : Rest s t) : Rest s (slots.foldl (fun t m => retire m t) t) :=
  rest_foldl (fun _ _ k => rest_retire _ k) _ h

theorem rest_takeRing (n : Nat) (h : Rest s t) : Rest s (takeRing n t) := by
  unfold takeRing
  dsimp only
  split
  · exact h.trans ((Rest.ov _ _).trans (keeps_raise _ _ (Keeps.refl _)).rest)
  · exact h.trans (Rest.ov _ _)

theorem rest_releaseSlot (slot : Nat) (record : Option Nat) (h : Rest s t) : Rest s (releaseSlot slot record t) := by
  unfold releaseSlot
  split
  · exact rest_joinRing _ h
  · exact h.trans (Rest.ov _ _)

/-! ## Machine/Overlay.lean -/

theorem keeps_takeReservations (c : CmdId) (grains : List Nat) {needed : List Nat}
    (hn : needed.length ≤ t.ov.ring.length) (hd : needed.Nodup) (hr : ∀ g ∈ needed, t.reservation? g = none)
    (h : Keeps s t) : Keeps s (takeReservations c grains needed t) :=
  h.trans ((rest_setReservations _ (rest_takeRing _ (Keeps.refl t).rest)).keeps
    fun o => storeOk_takeReservations c grains hn hd hr o)

theorem keeps_reserve {c : CmdId} {grains : List Nat} {u : State} (e : reserve c grains t = some u)
    (hd : grains.Nodup) (h : Keeps s t) : Keeps s u := by
  refine h.trans (Rest.keeps ?_ fun o => storeOk_reserve e hd o)
  unfold reserve at e
  extract_lets needed at e
  split at e
  · cases e
    unfold takeReservations
    exact rest_setReservations _ (rest_takeRing _ (Keeps.refl t).rest)
  · cases e

theorem keeps_giveUp (c : CmdId) (g : Nat) (h : Keeps s t) : Keeps s (giveUp c g t) := by
  refine h.trans (Rest.keeps ?_ fun o => storeOk_giveUp c g o)
  have r := (Keeps.refl t).rest
  unfold giveUp
  repeat' split
  · exact r
  · exact rest_setReservations _ r
  · exact rest_joinRing _ (rest_endReservation _ r)
  · exact rest_setReservations _ r

theorem keeps_giveUpAll (c : CmdId) (h : Keeps s t) : Keeps s (giveUpAll c t) :=
  keeps_foldl (fun _ _ k => keeps_giveUp _ _ k) _ h

theorem keeps_bindBlocks {g slot : Nat} (region : Nat) {m : Mask} (hs : t.servesGrain g slot = true) (hm : m ≠ 0)
    (h : Keeps s t) : Keeps s (bindBlocks g region slot m t).2 := by
  refine h.trans (Rest.keeps ?_ fun o => storeOk_bindBlocks region hs hm o)
  have r := (Keeps.refl t).rest
  unfold bindBlocks
  refine rest_putEntry _ ?_
  split
  · exact rest_endReservation _ r
  · exact r

theorem keeps_markLost (g : Nat) (m : Mask) (h : Keeps s t) : Keeps s (markLost g m t).2 := by
  refine h.trans (Rest.keeps ?_ fun o => storeOk_markLost g m o)
  have r := (Keeps.refl t).rest
  unfold markLost
  split
  · exact r
  · extract_lets marked left e'
    repeat' split
    · exact r
    · exact rest_retire _ (rest_putEntry _ r)
    · exact rest_putEntry _ r
    · exact rest_putEntry _ r

theorem keeps_freePending (durable : Nat → Bool) (h : Keeps s t) : Keeps s (freePending durable t) :=
  h.trans ((rest_joinAll _ (Rest.ov _ _)).keeps fun o => storeOk_freePending durable o)

/-! ## Machine/Journal.lean -/

theorem keeps_nameRecords (bodies : List RecordBody) (h : Keeps s t) : Keeps s (nameRecords bodies t).2 := by
  unfold nameRecords
  repeat' first
    | assumption
    | with_reducible apply keeps_setJrn

theorem keeps_claimBody (h : Keeps s t) : Keeps s (claimBody t) := by
  unfold claimBody
  repeat' first
    | assumption
    | with_reducible apply keeps_placeClaim
    | with_reducible apply keeps_setJrn
    | split

theorem keeps_startRun (origin : CkOrigin) (owed : Option Port) (h : Keeps s t) : Keeps s (startRun origin owed t) := by
  unfold startRun
  repeat' first
    | assumption
    | with_reducible apply keeps_setJrn
    | with_reducible apply keeps_claimBody

theorem keeps_autoCheckpoint (h : Keeps s t) : Keeps s (autoCheckpoint t) := by
  unfold autoCheckpoint
  repeat' first
    | assumption
    | with_reducible apply keeps_startRun
    | split

theorem keeps_closeBlock (h : Keeps s t) : Keeps s (closeBlock t) := by
  unfold closeBlock
  repeat' first
    | assumption
    | with_reducible apply keeps_enqueue
    | with_reducible apply keeps_setJrn
    | with_reducible apply keeps_autoCheckpoint
    | split
    | dsimp only
    | simp [newRequest]

theorem keeps_takeRecords (recs : List JRecord) (h : Keeps s t) : Keeps s (takeRecords recs t) := by
  unfold takeRecords
  repeat' first
    | assumption
    | with_reducible apply keeps_setJrn

theorem keeps_markMissed (h : Keeps s t) : Keeps s (markMissed t) := by
  unfold markMissed
  repeat' first
    | assumption
    | with_reducible apply keeps_setJrn

theorem keeps_dropRecords (recs : List JRecord) (h : Keeps s t) : Keeps s (dropRecords recs t) := by
  unfold dropRecords
  repeat' first
    | assumption
    | with_reducible apply keeps_setJrn
    | with_reducible apply keeps_markMissed

theorem keeps_takePart (recs : List JRecord) (h : Keeps s t) : Keeps s (takePart recs t).2 := by
  unfold takePart
  repeat' first
    | assumption
    | with_reducible apply keeps_closeBlock
    | with_reducible apply keeps_takeRecords
    | split
    | dsimp only

theorem keeps_takeParts (n : Nat) (recs : List JRecord) (h : Keeps s t) : Keeps s (takeParts n recs t).2 := by
  induction n generalizing recs t with
  | zero => exact h
  | succ n ih =>
    unfold takeParts
    dsimp only
    split
    · exact h
    · split
      · exact ih _ (keeps_takePart _ h)
      · exact keeps_takePart _ h

theorem keeps_handOff (by' : Producer) (recs : List JRecord) (h : Keeps s t) : Keeps s (handOff by' recs t).2 := by
  unfold handOff
  repeat' first
    | assumption
    | with_reducible apply keeps_setJrn
    | with_reducible apply keeps_dropRecords
    | with_reducible apply keeps_takeParts
    | split
    | dsimp only

theorem keeps_orphanHandOffs (by' : Producer) (h : Keeps s t) : Keeps s (orphanHandOffs by' t) := by
  unfold orphanHandOffs
  repeat' first
    | assumption
    | with_reducible apply keeps_setJrn

/-! ## Machine/Records.lean -/

theorem keeps_removeRecord (c : CmdId) (h : Keeps s t) : Keeps s (removeRecord c t) :=
  h.trans ⟨rfl, rfl, List.prefix_rfl, List.prefix_rfl, List.prefix_rfl, id, id, id, rfl, rfl, rfl, id, id⟩

theorem keeps_undepend (c : CmdId) (h : Keeps s t) : Keeps s (undepend c t) :=
  keeps_setRelocs _ (by simp only [List.map_map]; rfl) h

theorem keeps_lateCreation (c : CmdId) (h : Keeps s t) : Keeps s (lateCreation c t) := by
  unfold lateCreation
  repeat' split
  · exact keeps_arrive _ (keeps_dropDeferred _ h)
  · exact h
  · exact h

theorem keeps_sendResetDone (p : Port) (h : Keeps s t) : Keeps s (sendResetDone p t) :=
  (keeps_send _ _ h).trans (Keeps.hp _ _ _ fun _ => rfl)

theorem keeps_resetDoneCheck (p : Port) (h : Keeps s t) : Keeps s (resetDoneCheck p t) := by
  unfold resetDoneCheck
  split
  · exact keeps_sendResetDone _ h
  · exact h

theorem keeps_letGo (r : Record) (h : Keeps s t) : Keeps s (letGo r t) :=
  keeps_orphanHandOffs _ (keeps_undepend _ (keeps_disown _ (keeps_withdrawHost _ (keeps_release _ _
    (keeps_dropClaims _ _ h)))))

theorem keeps_leave (c : CmdId) (h : Keeps s t) : Keeps s (leave c t) := by
  unfold leave
  split
  · exact h
  · refine keeps_resetDoneCheck _ (keeps_lateCreation _ (keeps_removeRecord _ (keeps_letGo _ ?_)))
    split
    · exact keeps_countDown (keeps_giveUpAll _ h)
    · exact keeps_giveUpAll _ h

theorem keeps_endRecord (c : CmdId) (res : Result) (done : Nat) (detail : Option Nat) (value : Nat) (h : Keeps s t) : Keeps s (endRecord c res done detail value t) := by
  unfold endRecord
  repeat' first
    | assumption
    | with_reducible apply keeps_sendStatus
    | with_reducible apply keeps_leave

theorem keeps_claimNext (c : CmdId) (h : Keeps s t) : Keeps s (claimNext c t) := by
  unfold claimNext
  repeat' first
    | assumption
    | with_reducible apply keeps_placeClaim
    | split

theorem keeps_sendGrants (n : Nat) (c : CmdId) (h : Keeps s t) : Keeps s (sendGrants n c t) := by
  induction n generalizing t with
  | zero => exact h
  | succ n ih =>
    unfold sendGrants
    repeat' first
      | assumption
      | exact ih (keeps_setTag _ _ (keeps_send _ _ h))
      | split
      | dsimp only

theorem keeps_finishWrite (r : Record) (h : Keeps s t) : Keeps s (finishWrite r t) := by
  unfold finishWrite
  repeat' first
    | assumption
    | with_reducible apply keeps_mapRec
    | with_reducible apply keeps_setJrn
    | with_reducible apply keeps_endRecord
    | split

theorem keeps_endCheck (c : CmdId) (h : Keeps s t) : Keeps s (endCheck c t) := by
  unfold endCheck
  repeat' first
    | assumption
    | with_reducible apply keeps_endRecord
    | with_reducible apply keeps_finishWrite
    | split

theorem keeps_releaseBlock (c : CmdId) (b : Nat) (h : Keeps s t) : Keeps s (releaseBlock c b t) := by
  unfold releaseBlock
  repeat' first
    | assumption
    | with_reducible apply keeps_release
    | with_reducible apply keeps_mapPiece
    | split

theorem keeps_deliverBlocks (n : Nat) (c : CmdId) (h : Keeps s t) : Keeps s (deliverBlocks n c t) := by
  induction n generalizing t with
  | zero => exact h
  | succ n ih =>
    unfold deliverBlocks
    repeat' first
      | assumption
      | exact ih (keeps_releaseBlock _ _ (keeps_setTag _ _ (keeps_send _ _ h)))
      | split
      | dsimp only

theorem keeps_deliveryCheck (c : CmdId) (h : Keeps s t) : Keeps s (deliveryCheck c t) := by
  unfold deliveryCheck
  repeat' first
    | assumption
    | with_reducible apply keeps_endRecord
    | split

theorem keeps_deliver (c : CmdId) (h : Keeps s t) : Keeps s (deliver c t) := by
  unfold deliver
  repeat' first
    | assumption
    | with_reducible apply keeps_deliverBlocks
    | with_reducible apply keeps_deliveryCheck

theorem keeps_withdrawPieces (c : CmdId) (which : Piece → Bool) (h : Keeps s t) : Keeps s (withdrawPieces c which t) := by
  unfold withdrawPieces
  repeat' first
    | assumption
    | with_reducible apply keeps_dropClaims
    | with_reducible apply keeps_release
    | with_reducible apply keeps_mapRec
    | with_reducible apply keeps_withdrawHost
    | split

theorem keeps_freePieces (c : CmdId) (which : Piece → Bool) (h : Keeps s t) : Keeps s (freePieces c which t) := by
  unfold freePieces
  split
  · exact h
  · exact keeps_release _ _ (keeps_mapRec _ _ h)

theorem keeps_freeEnded (c : CmdId) (h : Keeps s t) : Keeps s (freeEnded c t) := by
  unfold freeEnded
  split
  · exact keeps_freePieces _ _ h
  · exact h

theorem keeps_cutRead (c : CmdId) (res : Result) (f : Nat) (h : Keeps s t) : Keeps s (cutRead c res f t) := by
  unfold cutRead
  repeat' first
    | assumption
    | with_reducible apply keeps_mapRec
    | with_reducible apply keeps_withdrawPieces
    | with_reducible apply keeps_freePieces
    | split

theorem keeps_windDown (c : CmdId) (stopped : Bool) (cause : Option PendingResult) (h : Keeps s t) : Keeps s (windDown c stopped cause t) := by
  unfold windDown
  repeat' first
    | assumption
    | with_reducible apply keeps_mapRec
    | with_reducible apply keeps_withdrawHost
    | with_reducible apply keeps_endCheck
    | with_reducible apply keeps_freeEnded
    | with_reducible apply keeps_withdrawPieces

theorem keeps_failWrite (c : CmdId) (res : Result) (f : Nat) (h : Keeps s t) : Keeps s (failWrite c res f t) := by
  unfold failWrite
  repeat' first
    | assumption
    | with_reducible apply keeps_mapRec
    | with_reducible apply keeps_endCheck
    | with_reducible apply keeps_windDown
    | split

theorem keeps_orphan (c : CmdId) (h : Keeps s t) : Keeps s (orphan c t) := by
  unfold orphan
  repeat' first
    | assumption
    | with_reducible apply keeps_mapRec
    | with_reducible apply keeps_withdrawHost
    | with_reducible apply keeps_freeEnded
    | with_reducible apply keeps_withdrawPieces
    | split

theorem keeps_orphanOrLeave (c : CmdId) (h : Keeps s t) : Keeps s (orphanOrLeave c t) := by
  unfold orphanOrLeave
  repeat' first
    | assumption
    | with_reducible apply keeps_leave
    | with_reducible apply keeps_orphan
    | split
    | dsimp only

theorem keeps_cutOff (c : CmdId) (h : Keeps s t) : Keeps s (cutOff c t) := by
  unfold cutOff
  repeat' first
    | assumption
    | with_reducible apply keeps_leave
    | with_reducible apply keeps_orphanOrLeave
    | split

theorem keeps_protocolError (c : CmdId) (h : Keeps s t) : Keeps s (protocolError c t) := by
  unfold protocolError
  repeat' first
    | assumption
    | with_reducible apply keeps_sendStatus
    | with_reducible apply keeps_cutOff
    | with_reducible apply keeps_dropDeferred
    | split

/-! ## Machine/Relocation.lean -/

theorem keeps_placeReloc (g : Nat) (hn : t.storeOk → ∀ r, t.reloc? g = some r → r.newSlot = none) (h : Keeps s t) :
    Keeps s (placeReloc g t) := by
  unfold placeReloc
  refine keeps_setOrder _ (keeps_changeReloc _ _ ?_ h)
  intro o r hr
  exact ⟨(reloc_mem hr).2, rfl, slotOk_none (hn o r hr)⟩

theorem placeQueued_of_full {s : State} (h : Config.relocClaims ≤ s.relocClaims) : placeQueued s = s := by
  unfold placeQueued
  rw [if_neg (Nat.not_lt.2 h)]

theorem placeQueued_of_none {s : State} (h : (s.te.relocs.find? fun r => decide (r.stage = .queued)) = none) :
    placeQueued s = s := by
  unfold placeQueued
  rw [h]
  exact ite_self s

theorem placeQueued_of_first {s : State} {r : Reloc} (h : s.relocClaims < Config.relocClaims)
    (hr : (s.te.relocs.find? fun r => decide (r.stage = .queued)) = some r) : placeQueued s = placeReloc r.grain s := by
  unfold placeQueued
  rw [if_pos h, hr]

theorem keeps_placeQueued (h : Keeps s t) : Keeps s (placeQueued t) := by
  unfold placeQueued
  split
  · split
    · rename_i q hq
      refine keeps_placeReloc _ (fun o x hx => ?_) h
      have hst : q.stage = .queued := by simpa using List.find?_some hq
      have hm : q ∈ t.te.relocs := List.mem_of_find?_eq_some hq
      rw [reloc?_of_mem o.2.2.1 hm] at hx
      cases hx
      cases hn : q.newSlot with
      | none => rfl
      | some n =>
        have := o.2.2.1.2 q hm (by simp [hn])
        rw [hst] at this
        simp at this
    · exact h
  · exact h

theorem keeps_requestReloc (g : Nat) (region : Nat) (cause : RelocCause) (deps : List Dependant) (lost : Mask)
    (retired : List Nat) (hg : t.reloc? g = none) (h : Keeps s t) :
    Keeps s (requestReloc g region cause deps lost retired t) := by
  unfold requestReloc
  extract_lets r room u
  have hu : Keeps s u := h.trans ((rest_setRelocs _ (Keeps.refl t).rest).keeps fun o => storeOk_addReloc (r := r) rfl hg o)
  split
  · refine keeps_placeReloc _ ?_ hu
    intro _ x hx
    have : x = r := by
      have hx : (t.te.relocs ++ [r]).find? (fun y => y.grain == g) = some x := hx
      rw [List.find?_append, show t.te.relocs.find? (fun y => y.grain == g) = none from hg] at hx
      simp only [Option.none_or, List.find?_cons, List.find?_nil] at hx
      split at hx
      · cases hx
        rfl
      · cases hx
    rw [this]
  · exact hu

theorem keeps_relocWrites (g : Nat) (m : Mask) (h : Keeps s t) : Keeps s (relocWrites g m t) := by
  unfold relocWrites
  repeat' first
    | assumption
    | refine keeps_foldl (fun _ _ _ => ?_) _ ?_
    | with_reducible apply keeps_foldl
    | with_reducible apply keeps_enqueue
    | split
    | dsimp only
    | simp [newRequest]

theorem keeps_joinReloc (g : Nat) (d : Dependant) (h : Keeps s t) : Keeps s (joinReloc g d t) := by
  unfold joinReloc
  extract_lets u
  have hu : Keeps s u := keeps_mapReloc _ _ (fun _ => rfl) h
  repeat' split
  · exact keeps_relocWrites _ _ hu
  · exact keeps_relocWrites _ _ (keeps_withdrawRequests _ hu)
  · exact hu
  · exact hu

theorem keeps_issuePiece (c : CmdId) (i : Nat) (h : Keeps s t) : Keeps s (issuePiece c i t) := by
  unfold issuePiece
  repeat' first
    | assumption
    | with_reducible apply keeps_enqueue
    | with_reducible apply keeps_mapPiece
    | split
    | dsimp only
    | simp [newRequest]

theorem keeps_retireAlone (region : Nat) (slots : List Nat) (h : Keeps s t) : Keeps s (retireAlone region slots t) := by
  unfold retireAlone
  repeat' first
    | assumption
    | with_reducible apply keeps_raise
    | with_reducible apply keeps_nameRecords
    | with_reducible apply keeps_handOff
    | split

theorem keeps_handPiece (c : CmdId) (i : Nat) (retired : List Nat) (h : Keeps s t) : Keeps s (handPiece c i retired t) := by
  unfold handPiece
  split
  · exact h
  · split
    · exact h
    · extract_lets g region handed redirect
      have hh : Keeps s handed := keeps_mapPiece _ _ _ h
      have hr : ∀ n, Keeps s (redirect n) := fun n => keeps_issuePiece _ _ (keeps_mapPiece _ _ _ h)
      split
      · split
        · refine keeps_retireAlone _ _ ?_
          repeat' split
          · exact hh
          · exact hr _
          · exact hh
        · exact keeps_retireAlone _ _ hh
        · exact keeps_mapReloc _ _ (fun _ => rfl) (keeps_joinReloc _ _ hh)
      · rename_i hn
        repeat' split
        · exact keeps_requestReloc _ _ _ _ _ _ hn hh
        · exact hr _
        · exact keeps_requestReloc _ _ _ _ _ _ hn hh

theorem keeps_handReady (slot : Nat) (h : Keeps s t) : Keeps s (handReady slot t) :=
  keeps_foldl (fun _ _ k => keeps_handPiece _ _ _ (keeps_withdrawRequests _ k)) _ h

theorem keeps_handReadyAll (slots : List Nat) (h : Keeps s t) : Keeps s (handReadyAll slots t) :=
  keeps_foldl (fun _ _ k => keeps_handReady _ k) _ h

theorem keeps_takeOutOfService (g slot : Nat) (h : Keeps s t) : Keeps s (takeOutOfService g slot t).2 := by
  refine h.trans (Rest.keeps ?_ fun o => storeOk_takeOutOfService g slot o)
  have r := (Keeps.refl t).rest
  unfold takeOutOfService
  split
  · exact r.trans (Rest.ov _ _)
  · split
    · exact rest_retire _ (rest_endReservation _ r)
    · exact r

theorem keeps_relocReads (g : Nat) (m : Mask) (h : Keeps s t) : Keeps s (relocReads g m t) := by
  unfold relocReads
  repeat' first
    | assumption
    | refine keeps_foldl (fun _ _ _ => ?_) _ ?_
    | with_reducible apply keeps_foldl
    | with_reducible apply keeps_enqueue
    | split
    | dsimp only
    | simp [newRequest]

theorem keeps_endPieces (deps : List Dependant) (st : PieceState) (latest : Option Nat) (h : Keeps s t) : Keeps s (endPieces deps st latest t) := by
  unfold endPieces
  repeat' first
    | assumption
    | refine keeps_foldl (fun _ _ _ => ?_) _ ?_
    | with_reducible apply keeps_foldl
    | with_reducible apply keeps_release
    | with_reducible apply keeps_mapRec
    | with_reducible apply keeps_mapPiece
    | split

theorem keeps_failDependants (deps : List Dependant) (res : Result) (h : Keeps s t) : Keeps s (failDependants deps res t) := by
  unfold failDependants
  repeat' first
    | assumption
    | refine keeps_foldl (fun _ _ _ => ?_) _ ?_
    | with_reducible apply keeps_foldl
    | with_reducible apply keeps_failWrite
    | split

theorem keeps_relocNotices (region : Nat) (grain : Nat) (retired : List Nat) (anyLost : Bool) (h : Keeps s t) : Keeps s (relocNotices region grain retired anyLost t) := by
  unfold relocNotices
  repeat' first
    | assumption
    | with_reducible apply keeps_raise
    | split

theorem keeps_clearReloc (r : Reloc) (h : Keeps s t) : Keeps s (clearReloc r t) :=
  keeps_mapReloc _ _ (fun _ => rfl) (keeps_release _ _ (keeps_dropClaims _ _ (keeps_withdrawRequests _ h)))

theorem keeps_relocLeave (g : Nat) (h : Keeps s t) : Keeps s (relocLeave g t) := by
  unfold relocLeave
  split
  · exact h
  · rename_i r hr
    split
    · rename_i hst
      extract_lets u v
      have hu : Keeps s u := keeps_placeQueued (keeps_unplace _ (h.trans ((rest_setRelocs _ (Keeps.refl t).rest).keeps fun o =>
        storeOk_dropReloc (fun x hx => by
          have e : x = r := Option.some.inj (hx.symm.trans hr)
          rw [e]
          cases hn : r.newSlot with
          | none => rfl
          | some n =>
            have := o.2.2.1.2 r (reloc_mem hr).1 (by simp [hn])
            rw [hst] at this
            simp at this) o)))
      have hv : Keeps s v := keeps_foldl (fun _ _ k => keeps_endCheck _ k) _ hu
      exact keeps_foldl (fun _ _ k => keeps_handPiece _ _ _ k) _ hv
    · exact h

theorem keeps_relocHand (g : Nat) (recs : List JRecord) (h : Keeps s t) : Keeps s (relocHand g recs t) := by
  unfold relocHand
  repeat' first
    | assumption
    | with_reducible apply keeps_handOff
    | with_reducible apply keeps_relocLeave
    | split
    | dsimp only

theorem keeps_allocate {g : Nat} {u : State} (e : allocate g t = some u)
    (hr : s.storeOk → ∃ r, t.reloc? g = some r ∧ r.newSlot = none ∧ (r.stage = .copying ∨ r.stage = .writing))
    (h : Keeps s t) : Keeps s u := by
  refine (h.rest.trans ?_).keeps fun o => ?_
  · unfold allocate at e
    split at e
    · cases e
    · cases e
      exact rest_takeRing _ (rest_mapReloc _ _ (Keeps.refl t).rest)
  · obtain ⟨r, hr, hn, hst⟩ := hr o
    exact storeOk_allocate e hr hn hst (h.store o)

/-- The faces of two changes of one relocation. -/
theorem mapReloc_twice {g : Nat} {f f' k : Reloc → Reloc} (hg : ∀ r, (f r).grain = r.grain)
    (hf : ∀ r, (f' (f r)).face = (k r).face) (rs : List Reloc) :
    ((rs.map fun r => if r.grain = g then f r else r).map fun r => if r.grain = g then f' r else r).map Reloc.face =
      (rs.map fun r => if r.grain = g then k r else r).map Reloc.face := by
  rw [List.map_map, List.map_map, List.map_map]
  refine List.map_congr_left fun r _ => ?_
  simp only [Function.comp_apply]
  by_cases h : r.grain = g
  · simp only [h, if_true, hg, hf]
  · simp only [h, if_false]

/-- What the three ends have in common: the store when the relocation has given up its new slot, and then something has been
done with it and the entry. -/
theorem storeOk_relocEnd {u v : State} {r x : Reloc} {how : RelocEnd} {retired : List Nat} (hx : t.reloc? r.grain = some x)
    (hv : (mapReloc r.grain (fun y => { y with stage := .ending how, newSlot := none }) t).storeOwing x.newSlot.toList →
      v.storeOk)
    (hov : u.ov = v.ov) (hm : u.mnt.holding = v.mnt.holding) (hu : u.te.relocs = t.te.relocs)
    (hvr : v.te.relocs = (mapReloc r.grain (fun y => { y with stage := .ending how, newSlot := none }) t).te.relocs)
    (o : t.storeOk) :
    (mapReloc r.grain (fun y => { y with stage := .ending how, newSlot := none, retired := retired })
      (clearReloc r u)).storeOk := by
  refine storeOk_same (s := v) hov ?_ hm (hv (storeOwing_endReloc _ hx (reloc_mem hx).2 rfl o))
  rw [hvr]
  show ((u.te.relocs.map _).map _).map Reloc.face = _
  rw [hu]
  exact mapReloc_twice (f := fun y => { y with held := 0, claiming := false, data := [] })
    (f' := fun y => { y with stage := .ending how, newSlot := none, retired := retired })
    (k := fun y => { y with stage := .ending how, newSlot := none }) (fun _ => rfl) (fun _ => rfl) _

theorem keeps_relocMove (r : Reloc) (n : Nat) (hr : ∃ x, t.reloc? r.grain = some x ∧ x.newSlot = some n)
    (hm : r.copied ||| t.dependantMask r ≠ 0) (h : Keeps s t) : Keeps s (relocMove r n t) := by
  unfold relocMove
  extract_lets written present old region oldSlot retired e s1 s2 named latest
  have h2 : Keeps t s2 := by
    refine Rest.keeps (rest_mapReloc _ _ ?_) ?_
    · exact (rest_retireAll _ (rest_putEntry _ (Keeps.refl t).rest)).trans (keeps_clearReloc r (Keeps.refl s1)).rest
    · intro o
      obtain ⟨x, hx, hn⟩ := hr
      refine storeOk_relocEnd (x := x) (v := oldSlot.toList.foldl (fun t m => retire m t)
        (putEntry e (mapReloc r.grain (fun y => { y with stage := .ending .move, newSlot := none }) t))) hx ?_
        (retireAll_ov _ rfl) ?_ ?_ ?_ o
      · intro w
        rw [hn] at w
        rw [← storeOwing_nil]
        exact storeOwing_retireAll (storeOwing_putEntry (l := []) (e := e) (maskConditions_some.2 ⟨mask_less_self, hm⟩) w)
      · refine congrArg (·.holding) (Eq.trans (b := t.mnt) ?_ (Eq.symm ?_))
        · exact (retireAll_fields _ _).2.1
        · exact (retireAll_fields _ _).2.1
      · rw [(retireAll_fields _ _).1]
        rfl
      · rw [(retireAll_fields _ _).1]
        rfl
  exact keeps_relocHand _ _ (keeps_handReadyAll _ (keeps_relocNotices _ _ _ _ (keeps_endPieces _ _ _
    (keeps_nameRecords _ (h.trans h2)))))

theorem keeps_relocLost (r : Reloc) (hr : ∃ x, t.reloc? r.grain = some x ∧ x.newSlot = r.newSlot) (h : Keeps s t) :
    Keeps s (relocLost r t) := by
  unfold relocLost
  extract_lets old region oldSlot lost retired e s0 s1 s2 named
  have h2 : Keeps t s2 := by
    refine Rest.keeps (rest_mapReloc _ _ ?_) ?_
    · refine (rest_joinAll _ (rest_retireAll _ ?_)).trans (keeps_clearReloc r (Keeps.refl s1)).rest
      unfold s0
      split
      · exact (Keeps.refl t).rest
      · exact rest_putEntry _ (Keeps.refl t).rest
    · intro o
      obtain ⟨x, hx, hn⟩ := hr
      let v0 := mapReloc r.grain (fun y => { y with stage := .ending .lost, newSlot := none }) t
      let v1 := if lost = 0 then v0 else putEntry e v0
      have hf1 : s0.te = t.te ∧ s0.mnt = t.mnt ∧ s0.map = t.map ∧ v1.te = v0.te ∧ v1.mnt = t.mnt ∧ v1.map = t.map ∧
          s0.ov = v1.ov := by
        unfold s0 v1
        split
        · exact ⟨rfl, rfl, rfl, rfl, rfl, rfl, rfl⟩
        · exact ⟨rfl, rfl, rfl, rfl, rfl, rfl, rfl⟩
      obtain ⟨f1, f2, f3, f4, f5, f6, f7⟩ := hf1
      refine storeOk_relocEnd (x := x) (v := joinAll x.newSlot.toList (oldSlot.toList.foldl (fun t m => retire m t) v1)) hx ?_
        ?_ ?_ ?_ ?_ o
      · intro w
        have w : v0.storeOwing (x.newSlot.toList ++ []) := by simpa using w
        rw [← storeOwing_nil]
        refine storeOwing_joinAll (storeOwing_retireAll ?_)
        show v1.storeOwing (oldSlot.toList ++ (x.newSlot.toList ++ []))
        by_cases hl : lost = 0
        · have hno : old = none := by
            cases ho : old with
            | none => rfl
            | some y =>
              refine absurd hl ?_
              have hy := maskConditions_ne_zero (o.1.2 y (entry_mem ho).1)
              unfold lost
              rw [ho, BitVec.or_assoc]
              exact mask_or_ne_zero' hy
          have hos : oldSlot = none := by
            unfold oldSlot
            rw [hno]
            rfl
          unfold v1
          rw [if_pos hl, hos]
          exact w
        · unfold v1
          rw [if_neg hl]
          exact storeOwing_putEntry (e := e) (maskConditions_none.2 ⟨rfl, hl⟩) w
      · unfold s1
        rw [hn]
        exact joinAll_ov _ (retireAll_ov _ f7) (by rw [(retireAll_fields _ _).2.2, (retireAll_fields _ _).2.2, f3, f6])
      · unfold s1
        rw [(joinAll_fields _ _).2, (joinAll_fields _ _).2, (retireAll_fields _ _).2.1, (retireAll_fields _ _).2.1, f2, f5]
      · unfold s1
        rw [(joinAll_fields _ _).1, (retireAll_fields _ _).1, f1]
      · rw [(joinAll_fields _ _).1, (retireAll_fields _ _).1, f4]
  exact keeps_relocHand _ _ (keeps_handReadyAll _ (keeps_failDependants _ _ (keeps_endPieces _ _ _ (keeps_relocNotices _ _ _ _
    (keeps_nameRecords _ (h.trans h2))))))

theorem keeps_relocCut (r : Reloc) (hr : ∃ x, t.reloc? r.grain = some x ∧ x.newSlot = r.newSlot) (h : Keeps s t) :
    Keeps s (relocCut r t) := by
  unfold relocCut
  extract_lets m retired region s1 s2 named
  have h2 : Keeps t s2 := by
    refine Rest.keeps (rest_mapReloc _ _ ?_) ?_
    · exact (rest_joinAll _ (keeps_setEntryState _ _ (keeps_markLost _ _ (Keeps.refl t))).rest).trans
        (keeps_clearReloc r (Keeps.refl s1)).rest
    · intro o
      obtain ⟨x, hx, hn⟩ := hr
      let v0 := mapReloc r.grain (fun y => { y with stage := .ending .cut, newSlot := none }) t
      have hml := markLost_ov (a := t) (b := v0) r.grain (maskLess r.copySet r.copied) rfl
      have hmt := markLost_fields r.grain (maskLess r.copySet r.copied) t
      have hmv := markLost_fields r.grain (maskLess r.copySet r.copied) v0
      refine storeOk_relocEnd (x := x) (v := joinAll x.newSlot.toList (setEntryState r.grain .resident
        (markLost r.grain (maskLess r.copySet r.copied) v0).2)) hx ?_ ?_ ?_ ?_ ?_ o
      · intro w
        rw [← storeOwing_nil]
        refine storeOwing_joinAll ?_
        rw [List.append_nil]
        exact storeOwing_setEntryState _ _ (storeOwing_markLost _ _ w)
      · unfold s1
        rw [hn]
        refine joinAll_ov _ ?_ ?_
        · unfold setEntryState
          rw [← hml.1]
        · exact hmt.2.2.trans hmv.2.2.symm
      · unfold s1
        rw [(joinAll_fields _ _).2, (joinAll_fields _ _).2]
        show (markLost _ _ t).2.mnt.holding = (markLost _ _ v0).2.mnt.holding
        rw [hmt.2.1, hmv.2.1]
        rfl
      · unfold s1
        rw [(joinAll_fields _ _).1]
        show (markLost _ _ t).2.te.relocs = _
        rw [hmt.1]
      · rw [(joinAll_fields _ _).1]
        show (markLost _ _ v0).2.te.relocs = _
        rw [hmv.1]
  exact keeps_relocHand _ _ (keeps_handReadyAll _ (keeps_failDependants _ _ (keeps_endPieces _ _ _ (keeps_relocNotices _ _ _ _
    (keeps_nameRecords _ (h.trans h2))))))

/-- The relocation of a grain, after a change of it that keeps the grain. -/
theorem reloc?_mapReloc {g : Nat} {f : Reloc → Reloc} {r : Reloc} (hr : t.reloc? g = some r) (hf : ∀ x, (f x).grain = x.grain) :
    (mapReloc g f t).reloc? g = some (f r) := by
  show (t.te.relocs.map fun x => if x.grain = g then f x else x).find? (fun x => x.grain == g) = _
  rw [List.find?_map]
  have : ((fun x : Reloc => x.grain == g) ∘ fun x => if x.grain = g then f x else x) = fun x => x.grain == g := by
    funext x
    simp only [Function.comp_apply]
    split
    · rw [hf]
    · rfl
  rw [this, show t.te.relocs.find? (fun x => x.grain == g) = some r from hr]
  simp [(reloc_mem hr).2]

theorem keeps_startAttempt (g : Nat) (h : Keeps s t) : Keeps s (startAttempt g t) := by
  unfold startAttempt
  split
  · exact h
  · rename_i r hr
    extract_lets m u
    have hu : Keeps s u := keeps_changeReloc _ _ (fun o x hx => ⟨(reloc_mem hx).2, rfl, fun hs =>
      ⟨Or.inr rfl, (o.2.2.1.2 x (reloc_mem hx).1 hs).2⟩⟩) h
    split
    · refine keeps_relocLost _ ⟨{ r with stage := .writing }, ?_, rfl⟩ hu
      exact (congrArg u.reloc? (reloc_mem hr).2).trans
        (reloc?_mapReloc (f := fun x => { x with stage := .writing }) hr fun _ => rfl)
    · exact keeps_relocWrites _ _ hu

theorem keeps_endAttempt (r : Reloc) (hr : t.reloc? r.grain = some r) (hst : r.stage = .writing) (h : Keeps s t) :
    Keeps s (endAttempt r t) := by
  unfold endAttempt
  split
  · rename_i hf
    split
    · split
      · rename_i e
        refine keeps_startAttempt _ (keeps_allocate e ?_ h)
        intro o
        have o := h.store o
        refine ⟨r, hr, ?_, Or.inr hst⟩
        cases hn : r.newSlot with
        | none => rfl
        | some n =>
          have := (o.2.2.1.2 r (reloc_mem hr).1 (by simp [hn])).2
          rw [hf] at this
          cases this
      · exact keeps_relocLost _ ⟨r, hr, rfl⟩ h
    · exact keeps_relocLost _ ⟨r, hr, rfl⟩ h
  · split
    · rename_i n hn
      split
      · exact keeps_relocLost _ ⟨r, hr, rfl⟩ h
      · rename_i hm
        exact keeps_relocMove _ _ ⟨r, hr, hn⟩ hm h
    · exact h

theorem keeps_relocAdvance (g : Nat) (h : Keeps s t) : Keeps s (relocAdvance g t) := by
  unfold relocAdvance
  split
  · exact h
  · rename_i r hr
    have hr' : t.reloc? r.grain = some r := by
      rw [(reloc_mem hr).2]
      exact hr
    repeat' split
    · exact h
    · exact h
    · exact keeps_relocCut _ ⟨r, hr', rfl⟩ h
    · exact h
    · exact keeps_startAttempt _ h
    · rename_i h1 _ _ h2
      refine keeps_endAttempt _ hr' ?_ h
      simp only [not_and_or, ne_eq, not_not] at h1
      exact h1.resolve_left h2

theorem keeps_relocBegin (g : Nat) (hst : ∀ r, t.reloc? g = some r → r.stage = .held) (h : Keeps s t) :
    Keeps s (relocBegin g t) := by
  unfold relocBegin
  split
  · exact h
  · rename_i r hr
    extract_lets old present copy n s1
    have hn : t.storeOk → ∀ x, t.reloc? g = some x → x.newSlot = none := by
      intro o x hx
      cases hx' : x.newSlot with
      | none => rfl
      | some k =>
        have := (o.2.2.1.2 x (reloc_mem hx).1 (by simp [hx'])).1
        rw [hst x hx] at this
        simp at this
    have hm : Keeps t (setEntryState g .moving t) := keeps_setEntryState _ _ (Keeps.refl t)
    have h1 : Keeps s s1 := by
      refine h.trans (Rest.keeps (rest_mapReloc _ _ hm.rest) fun o => storeOk_changeReloc ?_ (hm.store o))
      exact fun x hx => ⟨(reloc_mem hx).2, rfl, slotOk_none (hn o x hx)⟩
    have hr1 : ∃ x, s1.reloc? g = some x ∧ x.newSlot = r.newSlot ∧ x.stage = .copying :=
      ⟨_, reloc?_mapReloc (t := setEntryState g .moving t) (r := r) hr fun _ => rfl, rfl, rfl⟩
    split
    · split
      · rename_i x hx
        refine keeps_relocLost _ ⟨x, ?_, rfl⟩ h1
        rw [(reloc_mem hx).2]
        exact hx
      · exact h1
    · rename_i u e
      have hu : Keeps s u := by
        refine keeps_allocate e ?_ h1
        intro o
        obtain ⟨x, hx, hxn, hxs⟩ := hr1
        exact ⟨x, hx, hxn.trans (hn (h.store o) r hr), Or.inl hxs⟩
      refine keeps_relocAdvance _ ?_
      split
      · exact keeps_placeClaim _ _ _ hu
      · exact hu

theorem keeps_relocReadEnd (g : Nat) (off : Nat) (count : Nat) (got : List Block) (out : TOutcome) (h : Keeps s t) : Keeps s (relocReadEnd g off count got out t) := by
  unfold relocReadEnd
  dsimp only
  repeat' first
    | assumption
    | with_reducible apply keeps_mapReloc
    | with_reducible apply keeps_relocReads
    | with_reducible apply keeps_relocAdvance
    | split
    | exact fun _ => rfl

theorem keeps_relocWriteEnd (g : Nat) (out : TOutcome) (h : Keeps s t) : Keeps s (relocWriteEnd g out t) := by
  unfold relocWriteEnd
  refine keeps_relocAdvance _ ?_
  repeat' split
  · exact h
  · rename_i n hn
    cases hr : t.reloc? g with
    | none => simp [hr] at hn
    | some r =>
      simp only [hr, Option.bind_some] at hn
      exact h.trans ((rest_retire _ (rest_mapReloc _ _ (Keeps.refl t).rest)).keeps fun o =>
        storeOk_newSlotRetired hr hn (reloc_mem hr).2 rfl o)
  · rename_i hn
    refine keeps_changeReloc _ _ ?_ h
    intro _ r hr
    simp only [hr, Option.bind_some] at hn
    exact ⟨(reloc_mem hr).2, rfl, slotOk_none hn⟩
  · exact keeps_mapReloc _ _ (fun _ => rfl) h

theorem keeps_readFaultReloc (g : Nat) (region : Nat) (m : Mask) (h : Keeps s t) : Keeps s (readFaultReloc g region m t) := by
  unfold readFaultReloc
  split
  · exact keeps_mapReloc _ _ (fun _ => rfl) h
  · rename_i hn
    split
    · exact keeps_requestReloc _ _ _ _ _ _ hn h
    · exact h

/-! ## Machine/MergeDiscard.lean -/

theorem keeps_mergeEnd (cause : Option MergeCause) (h : Keeps s t) : Keeps s (mergeEnd cause t) := by
  unfold mergeEnd
  repeat' first
    | assumption
    | refine keeps_foldl (fun _ _ _ => ?_) _ ?_
    | with_reducible apply keeps_foldl
    | with_reducible apply keeps_raise
    | with_reducible apply keeps_answerPlain
    | with_reducible apply keeps_setMrg

theorem keeps_mergeSearch (h : Keeps s t) : Keeps s (mergeSearch t) := by
  unfold mergeSearch
  repeat' first
    | assumption
    | with_reducible apply keeps_placeAtEnd
    | with_reducible apply keeps_setMrg
    | with_reducible apply keeps_mergeEnd
    | split

theorem keeps_mergeNextGrain (h : Keeps s t) : Keeps s (mergeNextGrain t) := by
  unfold mergeNextGrain
  repeat' first
    | assumption
    | with_reducible apply keeps_unplace
    | with_reducible apply keeps_setMrg
    | with_reducible apply keeps_mergeSearch

theorem keeps_mergeEndHere (cause : MergeCause) (h : Keeps s t) : Keeps s (mergeEndHere cause t) := by
  unfold mergeEndHere
  repeat' first
    | assumption
    | with_reducible apply keeps_unplace
    | with_reducible apply keeps_mergeEnd

theorem keeps_mergeReads (slot : Nat) (m : Mask) (h : Keeps s t) : Keeps s (mergeReads slot m t) := by
  unfold mergeReads
  repeat' first
    | assumption
    | refine keeps_foldl (fun _ _ _ => ?_) _ ?_
    | with_reducible apply keeps_foldl
    | with_reducible apply keeps_enqueue
    | split
    | dsimp only
    | simp [newRequest]

theorem keeps_mergeWrites (mg : MergeGrain) (h : Keeps s t) : Keeps s (mergeWrites mg t) := by
  unfold mergeWrites
  repeat' first
    | assumption
    | refine keeps_foldl (fun _ _ _ => ?_) _ ?_
    | with_reducible apply keeps_foldl
    | with_reducible apply keeps_enqueue
    | split
    | dsimp only
    | simp [newRequest]

theorem keeps_mergeTake (h : Keeps s t) : Keeps s (mergeTake t) := by
  unfold mergeTake
  repeat' first
    | assumption
    | with_reducible apply keeps_placeClaim
    | with_reducible apply keeps_setEntryState
    | with_reducible apply keeps_mapGrain
    | with_reducible apply keeps_mergeNextGrain
    | with_reducible apply keeps_mergeEndHere
    | split

theorem keeps_clearGrain (mg : MergeGrain) (h : Keeps s t) : Keeps s (clearGrain mg t) := by
  unfold clearGrain
  repeat' first
    | assumption
    | with_reducible apply keeps_dropClaims
    | with_reducible apply keeps_release
    | with_reducible apply keeps_withdrawRequests
    | with_reducible apply keeps_mapGrain

theorem keeps_setCause (c : MergeCause) (h : Keeps s t) : Keeps s (setCause c t) := by
  unfold setCause
  repeat' first
    | assumption
    | with_reducible apply keeps_setMrg

theorem keeps_mergeStop (mg : MergeGrain) (cause : MergeCause) (h : Keeps s t) : Keeps s (mergeStop mg cause t) :=
  keeps_mergeEndHere _ (keeps_setEntryState _ _ (keeps_orphanHandOffs _ (keeps_clearGrain _ h)))

theorem keeps_mergeEnding (h : Keeps s t) : Keeps s (mergeEnding t) := by
  unfold mergeEnding
  repeat' first
    | assumption
    | with_reducible apply keeps_mergeNextGrain
    | split

theorem keeps_mergeGrainEnd (mg : MergeGrain) (h : Keeps s t) : Keeps s (mergeGrainEnd mg t) := by
  unfold mergeGrainEnd
  extract_lets g keep
  split
  · rename_i e slot he hs
    extract_lets e' s1 bad bodies named s2 s3
    have hslot : e.slot = some slot := by simpa [State.slotOf, he] using hs
    have hr1 : Rest t s1 := by
      unfold s1
      split
      · exact rest_removeEntry _ (Keeps.refl t).rest
      · exact rest_putEntry _ (Keeps.refl t).rest
    have hrn : Rest t named.2 := hr1.trans (keeps_nameRecords _ (Keeps.refl s1)).rest
    have h2 : Keeps t s2 := by
      refine Rest.keeps ?_ ?_
      · unfold s2
        split
        · exact (rest_retire _ hrn).trans (keeps_raise _ _ (Keeps.refl _)).rest
        · exact rest_releaseSlot _ _ hrn
      · intro o
        have w : s1.storeOwing [slot] := storeOwing_mergeUpdate he hslot o
        have w : named.2.storeOwing [slot] := storeOwing_of rfl rfl rfl w
        rw [← storeOwing_nil]
        unfold s2
        split
        · exact storeOwing_of rfl rfl rfl (storeOwing_retire w)
        · exact storeOwing_releaseSlot _ w
    exact keeps_mergeEnding (keeps_handOff _ _ (keeps_setMrg _ (keeps_mapGrain _ (keeps_clearGrain _ (h.trans h2)))))
  · exact keeps_mergeNextGrain (keeps_setEntryState _ _ (keeps_clearGrain _ h))

theorem keeps_mergeAdvance (h : Keeps s t) : Keeps s (mergeAdvance t) := by
  unfold mergeAdvance
  repeat' first
    | assumption
    | with_reducible apply keeps_setEntryState
    | with_reducible apply keeps_mapGrain
    | with_reducible apply keeps_mergeWrites
    | with_reducible apply keeps_clearGrain
    | with_reducible apply keeps_mergeStop
    | with_reducible apply keeps_mergeEnding
    | with_reducible apply keeps_mergeGrainEnd
    | split

theorem keeps_mergeLost (m : Mask) (h : Keeps s t) : Keeps s (mergeLost m t) := by
  unfold mergeLost
  repeat' first
    | assumption
    | with_reducible apply keeps_raise
    | with_reducible apply keeps_markLost
    | with_reducible apply keeps_nameRecords
    | with_reducible apply keeps_handOff
    | with_reducible apply keeps_mapGrain
    | split
    | dsimp only

theorem keeps_mergeReadEnd (off : Nat) (count : Nat) (got : List Block) (out : TOutcome) (h : Keeps s t) : Keeps s (mergeReadEnd off count got out t) := by
  unfold mergeReadEnd
  repeat' first
    | assumption
    | with_reducible apply keeps_mapGrain
    | with_reducible apply keeps_mergeReads
    | with_reducible apply keeps_setCause
    | with_reducible apply keeps_mergeAdvance
    | with_reducible apply keeps_mergeLost
    | split

theorem keeps_mergeWriteEnd (out : TOutcome) (h : Keeps s t) : Keeps s (mergeWriteEnd out t) := by
  unfold mergeWriteEnd
  repeat' first
    | assumption
    | with_reducible apply keeps_setCause
    | with_reducible apply keeps_mergeAdvance
    | split

theorem keeps_discardAnswer (h : Keeps s t) : Keeps s (discardAnswer t) := by
  unfold discardAnswer
  repeat' first
    | assumption
    | with_reducible apply keeps_answer
    | with_reducible apply keeps_setMrg
    | split

theorem keeps_discardPlace (h : Keeps s t) : Keeps s (discardPlace t) := by
  unfold discardPlace
  repeat' first
    | assumption
    | with_reducible apply keeps_placeAtEnd
    | with_reducible apply keeps_setMrg
    | split

theorem keeps_discardTaken (h : Keeps s t) : Keeps s (discardTaken t) := by
  unfold discardTaken
  extract_lets u
  have hu : Keeps s u := keeps_setOrder _ h
  repeat' split
  · exact hu
  · exact keeps_discardPlace hu
  · exact keeps_discardAnswer hu
  · exact keeps_discardAnswer hu
  · exact hu

theorem keeps_discardTake (d : Discard) (h : Keeps s t) : Keeps s (discardTake d t) := by
  unfold discardTake
  extract_lets keep slots bad bodies named record u ov1 map1 mrg1 s1 s2 x
  have h2 : Keeps t s2 := by
    refine Rest.keeps ?_ ?_
    · have hu : Rest t u := (keeps_nameRecords _ (Keeps.refl t)).rest
      refine rest_foldl (fun _ _ k => ?_) _ (hu.trans
        ⟨rfl, rfl, List.prefix_rfl, List.prefix_rfl, List.prefix_rfl, id, id, id, rfl, rfl, rfl, id⟩)
      split
      · exact (rest_retire _ k).trans (keeps_raise _ _ (Keeps.refl _)).rest
      · exact rest_releaseSlot _ _ k
    · intro o
      have w : s1.storeOwing slots := storeOwing_of (s := ({ t with ov := { t.ov with
        table := (t.ov.table.filter fun e => decide (e.region ≠ d.region)) } } : State)) rfl rfl rfl
        (storeOwing_removeRegion d.region o)
      have each : ∀ (ks : List Nat) (v : State), v.storeOwing ks → (ks.foldl (fun u n =>
          if bad.contains n then raise (.slotRetired n) (some d.region) (retire n u) else releaseSlot n record u)
            v).storeOwing [] := by
        intro ks
        induction ks with
        | nil => exact fun _ w => w
        | cons k ks ih =>
          intro v w
          refine ih _ ?_
          dsimp only
          split
          · exact storeOwing_of rfl rfl rfl (storeOwing_retire w)
          · exact storeOwing_releaseSlot _ w
      exact storeOwing_nil.1 (each slots s1 w)
  have hx : Keeps s x.2 := keeps_handOff _ _ (h.trans h2)
  split
  · exact keeps_discardTaken hx
  · exact hx

/-! ## Machine/Checkpoint.lean -/

theorem keeps_produced (by' : Producer) (h : Keeps s t) : Keeps s (produced by' t) := by
  unfold produced
  repeat' first
    | assumption
    | with_reducible apply keeps_endCheck
    | with_reducible apply keeps_relocLeave
    | with_reducible apply keeps_mergeEnding
    | with_reducible apply keeps_discardTaken
    | split

theorem keeps_dropWaiting (n : Nat) (h : Keeps s t) : Keeps s (dropWaiting n t) := by
  induction n generalizing t with
  | zero => exact h
  | succ n ih =>
    unfold dropWaiting
    split
    · exact h
    · exact ih (keeps_produced _ (keeps_dropRecords _ (keeps_setJrn _ h)))

theorem keeps_enterFault (notice : NoticeBody) (failed : List JRecord) (h : Keeps s t) : Keeps s (enterFault notice failed t) := by
  unfold enterFault
  repeat' first
    | assumption
    | refine keeps_foldl (fun _ _ _ => ?_) _ ?_
    | with_reducible apply keeps_foldl
    | with_reducible apply keeps_raise
    | with_reducible apply keeps_setJrn
    | with_reducible apply keeps_markMissed
    | with_reducible apply keeps_endRecord
    | with_reducible apply keeps_discardAnswer
    | with_reducible apply keeps_dropWaiting
    | split

theorem keeps_takeWaiting (n : Nat) (h : Keeps s t) : Keeps s (takeWaiting n t).2 := by
  induction n generalizing t with
  | zero => exact h
  | succ n ih =>
    unfold takeWaiting
    split
    · exact h
    · extract_lets r more
      have hr : Keeps s r.2 := keeps_takeParts _ _ h
      split
      · exact ih (keeps_setJrn _ hr)
      · dsimp only
        exact keeps_setJrn _ hr

theorem keeps_tellProducers (ps : List Producer) (h : Keeps s t) : Keeps s (tellProducers ps t) :=
  keeps_foldl (fun _ _ k => keeps_produced _ k) _ h

theorem keeps_takeHandOffs (h : Keeps s t) : Keeps s (takeHandOffs t) := by
  unfold takeHandOffs
  split
  · exact keeps_dropWaiting _ h
  · exact keeps_tellProducers _ (keeps_takeWaiting _ h)

theorem keeps_closeAndTake (h : Keeps s t) : Keeps s (closeAndTake t) := keeps_takeHandOffs (keeps_closeBlock h)

theorem keeps_closeTest (h : Keeps s t) : Keeps s (closeTest t) := by
  unfold closeTest
  split
  · exact keeps_closeAndTake h
  · exact h

theorem keeps_journalGoesOn (h : Keeps s t) : Keeps s (journalGoesOn t) := by
  unfold journalGoesOn
  refine keeps_closeTest ?_
  split
  · exact keeps_closeAndTake h
  · exact keeps_takeHandOffs h

theorem keeps_journalBlockEnd (out : TOutcome) (h : Keeps s t) : Keeps s (journalBlockEnd out t) := by
  unfold journalBlockEnd
  split
  · exact h
  · extract_lets ids s1 s2 s3
    split
    · have h2 : Keeps s s2 := keeps_foldl (fun _ _ k => keeps_endRecord _ _ _ _ _ k) _ (keeps_setJrn _ h)
      have h3 : Keeps s s3 := keeps_freePending _ h2
      refine keeps_closeTest ?_
      split
      · split
        · exact keeps_discardAnswer h3
        · exact h3
      · exact h3
    · exact keeps_enterFault _ _ (keeps_setJrn _ h)

theorem keeps_withdrawBodies (serial : Nat) (h : Keeps s t) : Keeps s (withdrawBodies serial t) := by
  refine h.trans (Keeps.te _ _ rfl rfl rfl ?_ rfl)
  intro q r hr
  refine q r ?_
  simp only [List.mem_append, List.mem_filter] at hr ⊢
  grind

theorem keeps_removeRun (r : CkRun) (h : Keeps s t) : Keeps s (removeRun r t) :=
  keeps_setJrn _ (keeps_dropClaims _ _ (keeps_release _ _ (keeps_withdrawBodies _ h)))

theorem keeps_runFails (r : CkRun) (h : Keeps s t) : Keeps s (runFails r t) := by
  unfold runFails
  repeat' first
    | assumption
    | with_reducible apply keeps_answerPlain
    | with_reducible apply keeps_enterFault
    | with_reducible apply keeps_removeRun

theorem keeps_runAnswer (r : CkRun) (h : Keeps s t) : Keeps s (runAnswer r t) := by
  unfold runAnswer
  repeat' first
    | assumption
    | with_reducible apply keeps_answer

theorem keeps_faultClear (r : CkRun) (h : Keeps s t) : Keeps s (faultClear r t) := by
  unfold faultClear
  repeat' first
    | assumption
    | with_reducible apply keeps_raise
    | with_reducible apply keeps_freePending
    | with_reducible apply keeps_setJrn
    | with_reducible apply keeps_clearUnavailable

theorem keeps_runCompletes (r : CkRun) (h : Keeps s t) : Keeps s (runCompletes r t) := by
  unfold runCompletes
  repeat' first
    | assumption
    | with_reducible apply keeps_setJrn
    | with_reducible apply keeps_startRun
    | with_reducible apply keeps_autoCheckpoint
    | with_reducible apply keeps_journalGoesOn
    | with_reducible apply keeps_runAnswer
    | with_reducible apply keeps_clearUnavailable
    | with_reducible apply keeps_faultClear
    | split
    | dsimp only

theorem keeps_runAdvance (h : Keeps s t) : Keeps s (runAdvance t) := by
  unfold runAdvance
  repeat' first
    | assumption
    | with_reducible apply keeps_placeClaim
    | with_reducible apply keeps_setJrn
    | with_reducible apply keeps_claimBody
    | split

theorem keeps_writeBody (r : CkRun) (offset : Nat) (b : Block) (h : Keeps s t) : Keeps s (writeBody r offset b t) := by
  unfold writeBody
  repeat' first
    | assumption
    | with_reducible apply keeps_enqueue
    | with_reducible apply keeps_setJrn
    | with_reducible apply keeps_runAdvance
    | split
    | dsimp only
    | simp [newRequest]

theorem keeps_formBody (h : Keeps s t) : Keeps s (formBody t) := by
  unfold formBody
  split
  · exact h
  · extract_lets r
    split
    · exact keeps_writeBody _ _ _ h
    · split
      · exact keeps_runAdvance (keeps_release _ _ (keeps_setJrn _ h))
      · split
        · exact keeps_startRun _ _ (keeps_release _ _ (keeps_removeRun _ h))
        · exact keeps_writeBody _ _ _ h
    · exact h

theorem keeps_formHeader (h : Keeps s t) : Keeps s (formHeader t) := by
  unfold formHeader
  repeat' first
    | assumption
    | with_reducible apply keeps_enqueue
    | with_reducible apply keeps_setJrn
    | split
    | dsimp only
    | simp [newRequest]

theorem keeps_ckBodyEnd (serial : Nat) (out : TOutcome) (h : Keeps s t) : Keeps s (ckBodyEnd serial out t) := by
  unfold ckBodyEnd
  repeat' first
    | assumption
    | with_reducible apply keeps_release
    | with_reducible apply keeps_setJrn
    | with_reducible apply keeps_runFails
    | with_reducible apply keeps_runAdvance
    | split
    | dsimp only

theorem keeps_ckHeaderEnd (serial : Nat) (out : TOutcome) (h : Keeps s t) : Keeps s (ckHeaderEnd serial out t) := by
  unfold ckHeaderEnd
  repeat' first
    | assumption
    | with_reducible apply keeps_release
    | with_reducible apply keeps_runFails
    | with_reducible apply keeps_runCompletes
    | split
    | dsimp only

/-! ## Machine/Region.lean -/

theorem keeps_activationFails (a : Activation) (res : Reply) (items : List (List Byte)) (h : Keeps s t) : Keeps s (activationFails a res items t) := by
  unfold activationFails
  repeat' first
    | assumption
    | with_reducible apply keeps_answer
    | with_reducible apply keeps_setMap
    | with_reducible apply keeps_setPause
    | split
    | dsimp only

theorem keeps_endDrain (a : Activation) (h : Keeps s t) : Keeps s (endDrain a t) := by
  unfold endDrain
  repeat' first
    | assumption
    | with_reducible apply keeps_placeClaim
    | with_reducible apply keeps_setMap
    | with_reducible apply keeps_activationFails
    | split
    | dsimp only

theorem keeps_anchorMet (h : Keeps s t) : Keeps s (anchorMet t) := by
  unfold anchorMet
  split
  · exact keeps_enqueue _ (by simp [anchorRequest, newRequest]) h
  · exact h

theorem keeps_leaveBlank (h : Keeps s t) : Keeps s (leaveBlank t) := by
  unfold leaveBlank
  split
  · exact h.trans (Keeps.mnt _ _ id)
  · exact h

theorem keeps_activationSucceeds (a : Activation) (h : Keeps s t) : Keeps s (activationSucceeds a t) := by
  unfold activationSucceeds
  repeat' first
    | assumption
    | with_reducible apply keeps_raise
    | with_reducible apply keeps_answer
    | with_reducible apply keeps_setMap
    | with_reducible apply keeps_setPause
    | with_reducible apply keeps_leaveBlank
    | split
    | dsimp only
    | rfl

theorem keeps_anchorEnd (out : TOutcome) (h : Keeps s t) : Keeps s (anchorEnd out t) := by
  unfold anchorEnd
  repeat' first
    | assumption
    | with_reducible apply keeps_release
    | with_reducible apply keeps_activationFails
    | with_reducible apply keeps_activationSucceeds
    | split
    | dsimp only

/-! ## Machine/LayoutFormat.lean -/

theorem keeps_formatClaim (f : Formatting) (h : Keeps s t) : Keeps s (formatClaim f t) := by
  unfold formatClaim
  repeat' first
    | assumption
    | with_reducible apply keeps_placeClaim
    | with_reducible apply keeps_setFormat

theorem keeps_formatMet (h : Keeps s t) : Keeps s (formatMet t) := by
  unfold formatMet
  split
  · refine keeps_enqueue _ ?_ h
    unfold formatRequest
    dsimp only
    repeat' split
    all_goals simp [newRequest, anchorRequest]
  · exact h

theorem keeps_formatSucceeds (f : Formatting) (h : Keeps s t) : Keeps s (formatSucceeds f t) := by
  unfold formatSucceeds
  extract_lets gen s1 s2
  have h1 : Keeps s s1 := keeps_setMap _ rfl (keeps_dropWaiting _ h)
  have h2 : Keeps s s2 := h1.trans (Rest.keeps
    ⟨rfl, rfl, List.prefix_rfl, List.prefix_rfl, List.prefix_rfl, id, id, id, rfl, rfl, rfl, id⟩
    fun o => storeOk_same (s := dropNewSlots { s1 with ov := freshPool f.layout.slots }) rfl rfl rfl
      (storeOk_freshPool _ o.2.2.1 o.2.2.2.1))
  exact keeps_answer _ _ _ _ _ _ _ (keeps_leaveBlank (keeps_raise _ _ (keeps_setFormat _ h2)))

theorem keeps_formatEnd (out : TOutcome) (h : Keeps s t) : Keeps s (formatEnd out t) := by
  unfold formatEnd
  repeat' first
    | assumption
    | with_reducible apply keeps_answerPlain
    | with_reducible apply keeps_release
    | with_reducible apply keeps_setFormat
    | with_reducible apply keeps_formatClaim
    | with_reducible apply keeps_formatSucceeds
    | split

/-! ## Machine/Mount.lean -/

theorem keeps_mountGo (stage : MountStage) (buffers : Nat) (h : Keeps s t) : Keeps s (mountGo stage buffers t) := by
  unfold mountGo
  repeat' first
    | assumption
    | with_reducible apply keeps_placeClaim
    | with_reducible apply keeps_setMnt
    | split
    | dsimp only
    | exact id

theorem keeps_mountAnchor (h : Keeps s t) : Keeps s (mountAnchor t) :=
  keeps_mountGo _ _ (keeps_setMnt _ (fun _ => holding_empty_tableOk) h)

theorem keeps_mountAbandon (h : Keeps s t) : Keeps s (mountAbandon t) := by
  unfold mountAbandon
  exact keeps_setMnt _ (fun _ => holding_empty_tableOk) (keeps_dropClaims _ _ (keeps_withdrawRequests _ h))

theorem keeps_mountMet (h : Keeps s t) : Keeps s (mountMet t) := by
  unfold mountMet
  repeat' first
    | assumption
    | with_reducible apply keeps_enqueue
    | split
    | dsimp only
    | simp [newRequest]

theorem keeps_mountFinish (h : Keeps s t) : Keeps s (mountFinish t) := by
  unfold mountFinish
  split
  · exact h
  · rename_i copy a _
    extract_lets x flags s1 s2 s3 s4 q s5
    have h1 : Keeps s s1 := keeps_setMap _ rfl h
    have h2 : Keeps s s2 := h1.trans (Rest.keeps
      ⟨rfl, rfl, List.prefix_rfl, List.prefix_rfl, List.prefix_rfl, id, id, id, rfl, rfl, rfl, id⟩
      fun o => storeOk_handOver (s := s1) a.map s1.ov _ o.2.2.1 o.2.2.2.1)
    have h3 : Keeps s s3 := keeps_foldl (fun _ _ k => keeps_raise _ _ k) _ h2
    have h4 : Keeps s s4 := keeps_setMnt _ (fun _ => holding_empty_tableOk) h3
    have h5 : Keeps s s5 := keeps_raise _ _ h4
    split
    · exact keeps_startRun _ _ h5
    · exact h5

theorem keeps_scanFrom (k : Nat) (h : Keeps s t) : Keeps s (scanFrom k t) := by
  unfold scanFrom
  repeat' first
    | assumption
    | with_reducible apply keeps_mountGo
    | with_reducible apply keeps_mountFinish
    | split
    | dsimp only

theorem keeps_replayNext (h : Keeps s t) : Keeps s (replayNext t) := by
  unfold replayNext
  repeat' first
    | assumption
    | with_reducible apply keeps_mountGo
    | with_reducible apply keeps_scanFrom
    | split
    | dsimp only

theorem keeps_tryCandidate (h : Keeps s t) : Keeps s (tryCandidate t) := by
  unfold tryCandidate
  repeat' first
    | assumption
    | with_reducible apply keeps_setHolding
    | with_reducible apply keeps_mountGo
    | with_reducible apply keeps_scanFrom
    | split
    | dsimp only
    | exact fun o => tableOk_of rfl rfl rfl rfl o

theorem keeps_dropCandidate (h : Keeps s t) : Keeps s (dropCandidate t) := by
  unfold dropCandidate
  repeat' first
    | assumption
    | with_reducible apply keeps_setHolding
    | with_reducible apply keeps_tryCandidate
    | split
    | dsimp only
    | exact fun o => tableOk_of rfl rfl rfl rfl o

theorem keeps_mountRead (bytes : Option (List Byte)) (h : Keeps s t) : Keeps s (mountRead bytes t) := by
  unfold mountRead
  extract_lets x
  split
  · rename_i copy _
    extract_lets u h1
    have hu : Keeps s u := by
      refine keeps_setHolding _ ?_ h
      intro o
      unfold noteCopy
      dsimp only
      repeat' split
      all_goals exact tableOk_of rfl rfl rfl rfl o
    split
    · exact keeps_mountGo _ _ hu
    · split
      · exact (keeps_setMap _ rfl (keeps_setMnt _ (fun _ => holding_empty_tableOk) hu)).trans (Keeps.ov _ _ id)
      · rename_i c hc
        extract_lets v
        have hv : Keeps s v := keeps_setHolding _ (fun _ => holding_chosen_tableOk c) hu
        split
        · exact keeps_mountGo _ _ hv
        · exact keeps_mountFinish hv
  · extract_lets u
    have hu : Keeps s u := by
      unfold u
      repeat' split
      · exact keeps_setHolding _ (fun o => tableOk_of rfl rfl rfl rfl o) h
      · exact h
      · exact h
    split
    · exact keeps_mountGo _ _ hu
    · exact keeps_tryCandidate hu
  · rename_i k _
    split
    · rename_i b c _ _
      extract_lets h1 u
      have hu : Keeps s u := keeps_setHolding _ (fun o => by
        show (noteImage k b x).tableOk
        unfold noteImage
        dsimp only
        repeat' split
        all_goals exact tableOk_of rfl rfl rfl rfl o) h
      split
      · exact keeps_mountGo _ _ hu
      · split
        · rename_i g
          exact keeps_replayNext (keeps_setHolding _ (fun _ => loadImage_tableOk (h := h1) g) hu)
        · exact keeps_dropCandidate hu
    · exact keeps_dropCandidate h
  · split
    · rename_i h1 e
      refine keeps_replayNext (keeps_setHolding _ ?_ h)
      intro o
      cases bytes with
      | none => cases e
      | some b => exact replayBlock_tableOk e o
    · exact keeps_scanFrom _ h
  · refine keeps_scanFrom _ (keeps_setHolding _ ?_ h)
    intro o
    unfold noteScan
    repeat' split
    all_goals exact tableOk_of rfl rfl rfl rfl o
  · exact h

theorem keeps_mountCleared (ok : Bool) (h : Keeps s t) : Keeps s (mountCleared ok t) := by
  unfold mountCleared
  repeat' first
    | assumption
    | with_reducible apply keeps_setHolding
    | with_reducible apply keeps_mountGo
    | with_reducible apply keeps_mountFinish
    | split
    | dsimp only
    | exact id

theorem keeps_mountEnd (got : List Block) (out : TOutcome) (h : Keeps s t) : Keeps s (mountEnd got out t) := by
  unfold mountEnd
  repeat' first
    | assumption
    | with_reducible apply keeps_release
    | with_reducible apply keeps_mountAbandon
    | with_reducible apply keeps_mountRead
    | with_reducible apply keeps_mountCleared
    | split
    | dsimp only

/-! ## Machine/Pieces.lean -/

theorem keeps_leadingBlocks (n : Nat) (got : List Block) (h : Keeps s t) : Keeps s (leadingBlocks n got t).2 := by
  unfold leadingBlocks
  split
  · exact h
  · exact h.trans (Keeps.free _ _)

theorem keeps_readDone (c : CmdId) (i : Nat) (r : Record) (p : Piece) (got : List Block) (h : Keeps s t) : Keeps s (readDone c i r p got t) := by
  unfold readDone
  repeat' first
    | assumption
    | with_reducible apply keeps_release
    | with_reducible apply keeps_mapPiece
    | split

theorem keeps_readFailed (c : CmdId) (i : Nat) (n : Nat) (r : Record) (p : Piece) (got : List Block) (h : Keeps s t) : Keeps s (readFailed c i n r p got t) := by
  unfold readFailed
  repeat' first
    | assumption
    | with_reducible apply keeps_release
    | with_reducible apply keeps_mapPiece
    | split

theorem keeps_readLost (x : Nat) (h : Keeps s t) : Keeps s (readLost x t) := by
  unfold readLost
  extract_lets g m region mark named u
  have hn : Keeps s named.2 := keeps_nameRecords _ (keeps_markLost _ _ h)
  have hu : Keeps s u := by
    unfold u
    split
    · exact keeps_raise _ _ (keeps_raise _ _ hn)
    · exact hn
  exact keeps_handReadyAll _ (keeps_handOff _ _ (keeps_readFaultReloc _ _ _ hu))

theorem keeps_readGoesOn (c : CmdId) (h : Keeps s t) : Keeps s (readGoesOn c t) := by
  unfold readGoesOn
  repeat' first
    | assumption
    | with_reducible apply keeps_endCheck
    | with_reducible apply keeps_deliver

theorem keeps_readPieceEnd (c : CmdId) (i : Nat) (r : Record) (p : Piece) (got : List Block) (out : TOutcome) (h : Keeps s t) : Keeps s (readPieceEnd c i r p got out t) := by
  unfold readPieceEnd
  repeat' first
    | assumption
    | with_reducible apply keeps_cutRead
    | with_reducible apply keeps_leadingBlocks
    | with_reducible apply keeps_readDone
    | with_reducible apply keeps_readFailed
    | with_reducible apply keeps_readLost
    | with_reducible apply keeps_readGoesOn
    | split

theorem keeps_slotWritten (c : CmdId) (slot : Nat) (region : Nat) (p : Piece) (h : Keeps s t) :
    Keeps s (slotWritten c slot region p t) := by
  unfold slotWritten
  extract_lets g b named u
  split
  · exact h
  · rename_i hc
    simp only [not_or, Bool.not_eq_false] at hc
    have hb : Keeps s b.2 := keeps_bindBlocks _ hc.1 hc.2 h
    split
    · exact keeps_handOff _ _ (keeps_mapRec _ _ (keeps_nameRecords _ hb))
    · exact hb

theorem keeps_writeFailed (c : CmdId) (i : Nat) (p : Piece) (res : Result) (f : Nat) (h : Keeps s t) : Keeps s (writeFailed c i p res f t) := by
  unfold writeFailed
  repeat' first
    | assumption
    | with_reducible apply keeps_release
    | with_reducible apply keeps_mapPiece
    | with_reducible apply keeps_failWrite

theorem keeps_writePieceEnd (c : CmdId) (i : Nat) (r : Record) (p : Piece) (out : TOutcome) (h : Keeps s t) : Keeps s (writePieceEnd c i r p out t) := by
  unfold writePieceEnd
  repeat' first
    | assumption
    | with_reducible apply keeps_release
    | with_reducible apply keeps_mapPiece
    | with_reducible apply keeps_endCheck
    | with_reducible apply keeps_handPiece
    | with_reducible apply keeps_handReady
    | with_reducible apply keeps_takeOutOfService
    | with_reducible apply keeps_slotWritten
    | with_reducible apply keeps_writeFailed
    | split

theorem keeps_pieceEnd (c : CmdId) (i : Nat) (got : List Block) (out : TOutcome) (h : Keeps s t) : Keeps s (pieceEnd c i got out t) := by
  unfold pieceEnd
  repeat' first
    | assumption
    | with_reducible apply keeps_readPieceEnd
    | with_reducible apply keeps_writePieceEnd
    | split

theorem keeps_flushEnd (c : CmdId) (out : TOutcome) (h : Keeps s t) : Keeps s (flushEnd c out t) := by
  unfold flushEnd
  repeat' first
    | assumption
    | with_reducible apply keeps_endRecord
    | split

/-! ## Machine/Target.lean -/

theorem strayEnd_of_not_resident {s : State} {n first : Nat} (h : s.residentOn (grainOf first) n = false) (out : TOutcome) :
    strayEnd (some n) first out s = s := by
  unfold strayEnd
  split
  · rename_i hn
    cases hn
    rw [h]
    rfl
  · rfl

theorem keeps_strayEnd (slot : Option Nat) (first : Nat) (out : TOutcome) (h : Keeps s t) :
    Keeps s (strayEnd slot first out t) := by
  unfold strayEnd
  repeat' first
    | assumption
    | with_reducible apply keeps_readLost
    | split

theorem keeps_finalOutcome (r : Request) (got : List Block) (out : TOutcome) (h : Keeps s t) : Keeps s (finalOutcome r got out t) := by
  unfold finalOutcome
  repeat' first
    | assumption
    | with_reducible apply keeps_relocReadEnd
    | with_reducible apply keeps_relocWriteEnd
    | with_reducible apply keeps_mergeReadEnd
    | with_reducible apply keeps_mergeWriteEnd
    | with_reducible apply keeps_journalBlockEnd
    | with_reducible apply keeps_ckBodyEnd
    | with_reducible apply keeps_ckHeaderEnd
    | with_reducible apply keeps_anchorEnd
    | with_reducible apply keeps_formatEnd
    | with_reducible apply keeps_mountEnd
    | with_reducible apply keeps_pieceEnd
    | with_reducible apply keeps_flushEnd
    | with_reducible apply keeps_strayEnd
    | split

theorem keeps_popQueued {r : Request} {te : TransferEngine} (e : t.te.popQueued = some (r, te)) (h : Keeps s t) :
    Keeps s { t with te := te } := by
  refine h.trans ?_
  unfold TransferEngine.popQueued at e
  repeat' split at e
  all_goals first
    | (cases e
       refine Keeps.te _ _ rfl rfl rfl ?_ rfl
       intro q y hy
       refine q y ?_
       simp only [List.mem_append] at hy ⊢
       simp only [*, List.mem_cons]
       grind)
    | cases e

theorem keeps_downDrain (n : Nat) (h : Keeps s t) : Keeps s (downDrain n t) := by
  induction n generalizing t with
  | zero => exact h
  | succ n ih =>
    unfold downDrain
    split
    · exact h
    · rename_i e
      exact ih (keeps_finalOutcome _ _ _ (keeps_popQueued e h))

theorem keeps_settleDown (h : Keeps s t) : Keeps s (settleDown t) := by
  unfold settleDown
  repeat' first
    | assumption
    | with_reducible apply keeps_downDrain
    | split





/-! ## Machine/Admission.lean -/

theorem keeps_cutLost (c : CmdId) (plan : List Piece) (h : Keeps s t) : Keeps s (cutLost c plan t) := by
  unfold cutLost
  split
  · exact keeps_cutRead _ _ _ h
  · exact h

theorem keeps_settle (c : CmdId) (first count : Nat) (h : Keeps s t) : Keeps s (settle c (grainsOf first count) t).2 := by
  have hb : Keeps s (settleBound c (grainsOf first count) t) := keeps_foldl (fun _ _ k => keeps_giveUp _ _ k) _ h
  unfold settle
  dsimp only
  split
  · rename_i e
    exact keeps_reserve e ((nodup_grainsOf _ _).sublist List.filter_sublist) hb
  · exact hb

theorem keeps_settleRecord (r : Record) (v : RegionView) (h : Keeps s t) : Keeps s (settleRecord r v t).2 := by
  unfold settleRecord
  split
  · exact keeps_settle _ _ _ h
  · exact h

theorem keeps_startRegion (c : CmdId) (h : Keeps s t) : Keeps s (startRegion c t) := by
  unfold startRegion
  split
  · exact h
  · split
    · exact h
    · extract_lets o plan
      have ho : Keeps s o.2 := keeps_settleRecord _ _ h
      split
      · exact keeps_deliver _ (keeps_claimNext _ (keeps_cutLost _ _ (keeps_mapRec _ _ ho)))
      · exact keeps_endRecord _ _ _ _ _ ho

theorem keeps_startWindow (c : CmdId) (r : Record) (h : Keeps s t) : Keeps s (startWindow c r t) := by
  unfold startWindow
  repeat' first
    | assumption
    | with_reducible apply keeps_setTag
    | with_reducible apply keeps_send
    | with_reducible apply keeps_mapRec
    | with_reducible apply keeps_deliver
    | split

theorem keeps_placePlain (c : CmdId) (path : Path) (h : Keeps s t) : Keeps s (placePlain c path t) := by
  unfold placePlain
  repeat' first
    | assumption
    | with_reducible apply keeps_mapRec
    | with_reducible apply keeps_unqueue
    | with_reducible apply keeps_placeAtEnd

theorem keeps_placeRegion (c : CmdId) (h : Keeps s t) : Keeps s (placeRegion c t) := by
  unfold placeRegion
  repeat' first
    | assumption
    | with_reducible apply keeps_mapRec
    | with_reducible apply keeps_unqueue
    | with_reducible apply keeps_placeAtEnd
    | with_reducible apply keeps_startRegion
    | split
    | dsimp only

theorem keeps_admitRegion (r : Record) (h : Keeps s t) : Keeps s (admitRegion r t) := by
  unfold admitRegion
  split
  · exact keeps_endRecord _ _ _ _ _ h
  · exact keeps_endRecord _ _ _ _ _ h
  · extract_lets v write
    split
    · exact keeps_endRecord _ _ _ _ _ h
    · split
      · split
        · rename_i e
          exact keeps_placeRegion _ (keeps_reserve e (nodup_grainsOf _ _) (keeps_mapRec _ _ h))
        · exact keeps_endRecord _ _ _ _ _ (keeps_mapRec _ _ h)
      · exact keeps_placeRegion _ (keeps_mapRec _ _ h)

theorem keeps_admitTransfer (r : Record) (h : Keeps s t) : Keeps s (admitTransfer r t) := by
  unfold admitTransfer
  repeat' first
    | assumption
    | with_reducible apply keeps_endRecord
    | with_reducible apply keeps_startWindow
    | with_reducible apply keeps_placePlain
    | with_reducible apply keeps_admitRegion
    | split

theorem keeps_admitRecord (r : Record) (h : Keeps s t) : Keeps s (admitRecord r t) := by
  unfold admitRecord
  repeat' split
  · exact keeps_endRecord _ _ _ _ _ h
  · exact keeps_endRecord _ _ _ _ _ h
  · exact keeps_enqueue _ (by simp [flushRequest, newRequest]) (keeps_placePlain _ _ h)
  · exact keeps_endRecord _ _ _ _ _ (keeps_placePlain _ _ h)
  · exact keeps_admitTransfer _ h

theorem keeps_startPlace (x : Placed) (h : Keeps s t) : Keeps s (startPlace x t) := by
  unfold startPlace
  repeat' first
    | assumption
    | with_reducible apply keeps_setOrder
    | with_reducible apply keeps_startRegion
    | split

theorem keeps_reexamine (n : Nat) (h : Keeps s t) : Keeps s (reexamine n t) := by
  induction n generalizing t with
  | zero => exact h
  | succ n ih =>
    unfold reexamine
    split
    · exact h
    · exact ih (keeps_startPlace _ h)

/-! ## Machine/Management.lean -/

theorem keeps_setStaged (p : Port) (m : RegionMap) (h : Keeps s t) : Keeps s (setStaged p m t) := by
  unfold setStaged
  repeat' first
    | assumption
    | with_reducible apply keeps_setMap
    | split
    | dsimp only

theorem keeps_refuseMap (p : Port) (i : Nat) (why : MapReason) (h : Keeps s t) : Keeps s (refuseMap p i why t) := by
  unfold refuseMap
  repeat' first
    | assumption
    | with_reducible apply keeps_answer

theorem keeps_reqStage (p : Port) (h : Keeps s t) : Keeps s (reqStage p t) := by
  unfold reqStage
  repeat' first
    | assumption
    | with_reducible apply keeps_answerPlain
    | with_reducible apply keeps_setStaged
    | split

theorem keeps_reqPutRegion (p : Port) (index : Nat) (policy : Nat) (rp : PortSet) (wp : PortSet) (first : Nat) (count : Nat) (target : Nat) (h : Keeps s t) : Keeps s (reqPutRegion p index policy rp wp first count target t) := by
  unfold reqPutRegion
  repeat' first
    | assumption
    | with_reducible apply keeps_answerPlain
    | with_reducible apply keeps_setStaged
    | with_reducible apply keeps_refuseMap
    | split

theorem keeps_reqClearRegion (p : Port) (index : Nat) (h : Keeps s t) : Keeps s (reqClearRegion p index t) := by
  unfold reqClearRegion
  repeat' first
    | assumption
    | with_reducible apply keeps_answerPlain
    | with_reducible apply keeps_setStaged
    | split

theorem keeps_reqSetCapacity (p : Port) (c : Nat) (h : Keeps s t) : Keeps s (reqSetCapacity p c t) := by
  unfold reqSetCapacity
  repeat' first
    | assumption
    | with_reducible apply keeps_answerPlain
    | with_reducible apply keeps_setStaged
    | split

theorem keeps_reqUnstage (p : Port) (h : Keeps s t) : Keeps s (reqUnstage p t) := by
  unfold reqUnstage
  repeat' first
    | assumption
    | with_reducible apply keeps_answerPlain
    | with_reducible apply keeps_setMap
    | split
    | dsimp only
    | rfl

theorem keeps_startActivation (p : Port) (m : RegionMap) (h : Keeps s t) : Keeps s (startActivation p m t) := by
  unfold startActivation
  extract_lets n a map1 adm1 u
  have hu : Keeps s u := h.trans
    ⟨rfl, rfl, List.prefix_rfl, List.prefix_rfl, List.prefix_rfl, id, id, id, rfl, rfl, rfl, id, id⟩
  split
  · exact keeps_endDrain _ hu
  · exact hu

theorem keeps_reqActivate (p : Port) (h : Keeps s t) : Keeps s (reqActivate p t) := by
  unfold reqActivate
  repeat' first
    | assumption
    | with_reducible apply keeps_answer
    | with_reducible apply keeps_answerPlain
    | with_reducible apply keeps_refuseMap
    | with_reducible apply keeps_startActivation
    | split

theorem keeps_reqSetLayout (p : Port) (l : Layout) (h : Keeps s t) : Keeps s (reqSetLayout p l t) := by
  unfold reqSetLayout
  repeat' first
    | assumption
    | with_reducible apply keeps_answerPlain
    | with_reducible apply keeps_formatClaim
    | split

theorem keeps_startMerge (p : Port) (selection : List Nat) (all : Bool) (h : Keeps s t) : Keeps s (startMerge p selection all t) := by
  unfold startMerge
  repeat' first
    | assumption
    | with_reducible apply keeps_answer
    | with_reducible apply keeps_setMrg
    | with_reducible apply keeps_mergeSearch

theorem keeps_reqMerge (p : Port) (index : Nat) (h : Keeps s t) : Keeps s (reqMerge p index t) := by
  unfold reqMerge
  repeat' first
    | assumption
    | with_reducible apply keeps_answerPlain
    | with_reducible apply keeps_startMerge
    | split

theorem keeps_haltLater (p : Port) (h : Keeps s t) : Keeps s (haltLater p t) := by
  unfold haltLater
  repeat' first
    | assumption
    | with_reducible apply keeps_setMrg

theorem keeps_reqHaltMerge (p : Port) (h : Keeps s t) : Keeps s (reqHaltMerge p t) := by
  unfold reqHaltMerge
  repeat' first
    | assumption
    | with_reducible apply keeps_answerPlain
    | with_reducible apply keeps_mergeEnd
    | with_reducible apply keeps_mergeEndHere
    | with_reducible apply keeps_haltLater
    | split

theorem keeps_reqDiscard (p : Port) (index : Nat) (h : Keeps s t) : Keeps s (reqDiscard p index t) := by
  unfold reqDiscard
  repeat' first
    | assumption
    | with_reducible apply keeps_answerPlain
    | with_reducible apply keeps_discardPlace
    | with_reducible apply keeps_setMrg
    | split
    | dsimp only

theorem keeps_reqCheckpoint (p : Port) (h : Keeps s t) : Keeps s (reqCheckpoint p t) := by
  unfold reqCheckpoint
  repeat' first
    | assumption
    | with_reducible apply keeps_answerPlain
    | with_reducible apply keeps_startRun
    | split

theorem keeps_reqQueryRegion (p : Port) (index : Nat) (map : Nat) (h : Keeps s t) : Keeps s (reqQueryRegion p index map t) := by
  unfold reqQueryRegion
  repeat' first
    | assumption
    | with_reducible apply keeps_answer
    | with_reducible apply keeps_answerPlain
    | split

theorem keeps_reqQueryOverlay (p : Port) (grain : Nat) (h : Keeps s t) : Keeps s (reqQueryOverlay p grain t) := by
  unfold reqQueryOverlay
  repeat' first
    | assumption
    | with_reducible apply keeps_answer
    | with_reducible apply keeps_answerPlain
    | split

theorem keeps_reqQuerySlots (p : Port) (h : Keeps s t) : Keeps s (reqQuerySlots p t) := by
  unfold reqQuerySlots
  repeat' first
    | assumption
    | with_reducible apply keeps_answer

theorem keeps_reqQueryRetired (p : Port) (start : Nat) (h : Keeps s t) : Keeps s (reqQueryRetired p start t) := by
  unfold reqQueryRetired
  repeat' first
    | assumption
    | with_reducible apply keeps_answer
    | with_reducible apply keeps_answerPlain
    | split

theorem keeps_reqQueryJournal (p : Port) (h : Keeps s t) : Keeps s (reqQueryJournal p t) := by
  unfold reqQueryJournal
  repeat' first
    | assumption
    | with_reducible apply keeps_answer

theorem ackQueue_queueOk {n : BitVec 32} {m : PortMgmt} (h : m.queueOk) : (ackQueue n m).queueOk :=
  ⟨Nat.le_trans (List.length_filter_le _ _) h.1, h.2.sublist (List.filter_sublist.map _)⟩

theorem keeps_reqAckNotices (p : Port) (n : BitVec 32) (h : Keeps s t) : Keeps s (reqAckNotices p n t) := by
  unfold reqAckNotices
  exact keeps_answer _ _ _ _ _ _ _ (h.trans (Keeps.mg _ _ _ ackQueue_queueOk))

theorem keeps_takeOwner (p : Port) (r : MReq) (h : Keeps s t) : Keeps s (takeOwner p r t) := by
  unfold takeOwner
  repeat' first
    | assumption
    | with_reducible apply keeps_answerPlain
    | with_reducible apply keeps_reqStage
    | with_reducible apply keeps_reqPutRegion
    | with_reducible apply keeps_reqClearRegion
    | with_reducible apply keeps_reqSetCapacity
    | with_reducible apply keeps_reqUnstage
    | with_reducible apply keeps_reqActivate
    | with_reducible apply keeps_reqSetLayout
    | with_reducible apply keeps_reqMerge
    | with_reducible apply keeps_reqHaltMerge
    | with_reducible apply keeps_reqDiscard
    | with_reducible apply keeps_reqCheckpoint
    | with_reducible apply keeps_reqQueryRegion
    | with_reducible apply keeps_reqQueryOverlay
    | with_reducible apply keeps_reqQuerySlots
    | with_reducible apply keeps_reqQueryRetired
    | with_reducible apply keeps_reqQueryJournal
    | with_reducible apply keeps_reqAckNotices
    | split

theorem keeps_acceptAndTake (p : Port) (q : BitVec 16) (r : MReq) (h : Keeps s t) : Keeps s (acceptAndTake p q r t) := by
  unfold acceptAndTake
  extract_lets u
  have hu : Keeps s u := h.trans (Keeps.mg _ _ _ id)
  split
  · exact keeps_answerPlain _ _ hu
  · exact keeps_takeOwner _ _ hu

theorem keeps_post (p : Port) (q : BitVec 16) (r : MReq) (h : Keeps s t) : Keeps s (post p q r t).2 := by
  unfold post
  dsimp only
  repeat' split
  · exact h
  · exact h
  · exact keeps_acceptAndTake _ _ _ h
  · exact h.trans (Keeps.mg _ _ _ id)

theorem keeps_request (p : Port) (q : BitVec 16) (r : MReq) (h : Keeps s t) : Keeps s (request p q r t) := by
  unfold request
  repeat' first
    | assumption
    | with_reducible apply keeps_post

/-! ## Machine/HostLink.lean -/

theorem keeps_acceptCmd (c : CmdId) (op : HostOp) (first count : Nat) (durable : Bool) (h : Keeps s t) :
    Keeps s (acceptCmd c op first count durable t) := by
  unfold acceptCmd
  dsimp only
  repeat' split
  · exact h
  · exact keeps_protocolError _ h
  · exact (keeps_setTag _ _ h).trans (Keeps.adm _ _)
  · exact keeps_arrive _ (keeps_setTag _ _ h)

theorem keeps_takeGrant (c : CmdId) (count : Nat) (h : Keeps s t) : Keeps s (takeGrant c count t) := by
  unfold takeGrant
  repeat' first
    | assumption
    | with_reducible apply keeps_setTag
    | with_reducible apply keeps_deliver
    | with_reducible apply keeps_protocolError
    | split
    | dsimp only

theorem keeps_gather (c : CmdId) (b : Nat) (block : Block) (h : Keeps s t) : Keeps s (gather c b block t) := by
  unfold gather
  repeat' first
    | assumption
    | with_reducible apply keeps_mapPiece
    | with_reducible apply keeps_issuePiece
    | with_reducible apply keeps_handPiece
    | split
    | dsimp only

theorem keeps_takeWindowBlock (c : CmdId) (block : Block) (h : Keeps s t) : Keeps s (takeWindowBlock c block t) := by
  unfold takeWindowBlock
  repeat' first
    | assumption
    | with_reducible apply keeps_endRecord
    | with_reducible apply keeps_post
    | split
    | dsimp only

theorem keeps_placeData (c : CmdId) (block : Block) (h : Keeps s t) : Keeps s (placeData c block t) := by
  unfold placeData
  repeat' first
    | assumption
    | with_reducible apply keeps_setTag
    | with_reducible apply keeps_sendGrants
    | with_reducible apply keeps_gather
    | with_reducible apply keeps_takeWindowBlock
    | split

theorem keeps_takeData (c : CmdId) (index : Nat) (block : Block) (check : BitVec 32) (h : Keeps s t) : Keeps s (takeData c index block check t) := by
  unfold takeData
  repeat' first
    | assumption
    | with_reducible apply keeps_setTag
    | with_reducible apply keeps_windDown
    | with_reducible apply keeps_protocolError
    | with_reducible apply keeps_placeData
    | split
    | dsimp only

theorem keeps_takeStop (c : CmdId) (h : Keeps s t) : Keeps s (takeStop c t) := by
  unfold takeStop
  repeat' first
    | assumption
    | with_reducible apply keeps_sendStatus
    | with_reducible apply keeps_mapRec
    | with_reducible apply keeps_endRecord
    | with_reducible apply keeps_windDown
    | with_reducible apply keeps_dropDeferred
    | split

theorem keeps_detach (p : Port) (h : Keeps s t) : Keeps s (detach p t) :=
  h.trans ⟨rfl, rfl, List.prefix_rfl, List.prefix_rfl, List.prefix_rfl, id, id, id, rfl, rfl, rfl, id, id⟩

theorem keeps_startResetting (p : Port) (h : Keeps s t) : Keeps s (startResetting p t) :=
  h.trans (Keeps.hp _ _ _ fun e => (List.length_map _).trans e)

theorem keeps_portReset (p : Port) (h : Keeps s t) : Keeps s (portReset p t) := by
  unfold portReset
  extract_lets adm1 s1 s2 s3
  have h1 : Keeps s s1 := h.trans (Keeps.adm t _)
  have h2 : Keeps s s2 := keeps_startResetting _ (keeps_foldl (fun _ _ k => keeps_cutOff _ k) _ h1)
  have h3 : Keeps s s3 := keeps_setMap _ rfl (keeps_detach _ h2)
  exact keeps_raise _ _ (h3.trans (Keeps.mg _ _ _ id))

/-! ## Machine/Internal.lean -/

theorem keeps_claimMet (who : ClaimFor) (n : Nat) (h : Keeps s t) : Keeps s (claimMet who n t) := by
  unfold claimMet
  repeat' first
    | assumption
    | with_reducible apply keeps_mapPiece
    | with_reducible apply keeps_mapReloc
    | with_reducible apply keeps_claimNext
    | with_reducible apply keeps_sendGrants
    | with_reducible apply keeps_issuePiece
    | with_reducible apply keeps_relocReads
    | with_reducible apply keeps_mapGrain
    | with_reducible apply keeps_mergeReads
    | with_reducible apply keeps_formBody
    | with_reducible apply keeps_formHeader
    | with_reducible apply keeps_anchorMet
    | with_reducible apply keeps_formatMet
    | with_reducible apply keeps_mountMet
    | split
    | exact fun _ => rfl

theorem keeps_meetClaim (o : BufOwner) (h : Keeps s t) : Keeps s (meetClaim o t) := by
  unfold meetClaim
  split
  · exact h
  · split
    · rename_i hq
      exact keeps_claimMet _ _ (h.trans (Keeps.pool _ _ fun q => setCharge_withinQuota (setClaims_withinQuota q) hq))
    · exact h

end Sys2Proof.Machine
end

