-- ==== Sys2Proof/Laws/Records.lean ====
section
/-! SUPPORT. How ports, tags, frames and records read after an update, and what the end of a record does. -/

namespace Sys2Proof.Machine

/-! ## Ports, tags and frames -/

theorem out_congr {s t : State} (p : Port) (ha : t.outA = s.outA) (hb : t.outB = s.outB) : t.out p = s.out p := by
  cases p
  · exact ha
  · exact hb

theorem hp_congr {s t : State} (p : Port) (ha : t.hpA = s.hpA) (hb : t.hpB = s.hpB) : t.hp p = s.hp p := by
  cases p
  · exact ha
  · exact hb

theorem mg_congr {s t : State} (p : Port) (ha : t.mgA = s.mgA) (hb : t.mgB = s.mgB) : t.mg p = s.mg p := by
  cases p
  · exact ha
  · exact hb

theorem tag_congr {s t : State} (c : CmdId) (ha : t.hpA = s.hpA) (hb : t.hpB = s.hpB) : t.tag c = s.tag c := by
  unfold State.tag
  rw [hp_congr c.port ha hb]

theorem rec_congr {s t : State} (c : CmdId) (h : t.adm.records = s.adm.records) : t.rec? c = s.rec? c := by
  unfold State.rec?
  rw [h]

theorem deferred_congr {s t : State} (c : CmdId) (h : t.adm.deferred = s.adm.deferred) : t.deferred? c = s.deferred? c := by
  unfold State.deferred?
  rw [h]

@[simp] theorem hp_setHp (s : State) (p : Port) (u : HostPortUnit) : (s.setHp p u).hp p = u := by cases p <;> rfl
@[simp] theorem hp_setHp_other (s : State) (p : Port) (u : HostPortUnit) : (s.setHp p u).hp p.other = s.hp p.other := by
  cases p <;> rfl
@[simp] theorem hp_send (s : State) (p q : Port) (f : HostFrame) : (s.send p f).hp q = s.hp q := by
  cases p <;> cases q <;> rfl
@[simp] theorem out_send (s : State) (p : Port) (f : HostFrame) : (s.send p f).out p = s.out p ++ [f] := by
  cases p <;> rfl
@[simp] theorem out_setHp (s : State) (p q : Port) (u : HostPortUnit) : (s.setHp p u).out q = s.out q := by
  cases p <;> cases q <;> rfl
@[simp] theorem out_setTag (s : State) (c : CmdId) (t : Tag) (q : Port) : (s.setTag c t).out q = s.out q := out_setHp ..
@[simp] theorem mg_send (s : State) (p q : Port) (f : HostFrame) : (s.send p f).mg q = s.mg q := by
  cases p <;> cases q <;> rfl
@[simp] theorem mg_setTag (s : State) (c : CmdId) (t : Tag) (q : Port) : (s.setTag c t).mg q = s.mg q := by
  unfold State.setTag
  cases c.port <;> cases q <;> rfl
@[simp] theorem tag_send (s : State) (p : Port) (f : HostFrame) (c : CmdId) : (s.send p f).tag c = s.tag c := by
  unfold State.tag
  rw [hp_send]

/-- A tag of the port reads as written. -/
theorem tag_setTag {s : State} {c : CmdId} {t : Tag} (h : c.tag < (s.hp c.port).tags.length) : (s.setTag c t).tag c = t := by
  unfold State.tag State.setTag
  rw [hp_setHp]
  simp [h]

/-- A tag set FREE reads FREE. -/
@[simp] theorem tag_setTag_free (s : State) (c : CmdId) : (s.setTag c Tag.free).tag c = Tag.free := by
  unfold State.tag State.setTag
  rw [hp_setHp]
  simp only [List.getD_eq_getElem?_getD, List.getElem?_set]
  split
  · split <;> rfl
  · rename_i h
    exact absurd trivial h

/-- An OPEN tag is a tag of the port. -/
theorem tag_lt_of_open {s : State} {c : CmdId} (h : (s.tag c).isOpen = true) : c.tag < (s.hp c.port).tags.length := by
  unfold State.tag at h
  by_contra hn
  rw [List.getD_eq_getElem?_getD, List.getElem?_eq_none (Nat.le_of_not_lt hn)] at h
  cases h

theorem sendStatus_facts (c : CmdId) (res : Result) (done : Nat) (d : Option Nat) (v : Nat) (s : State) :
    ((sendStatus c res done d v s).tag c).isOpen = false ∧
      (sendStatus c res done d v s).out c.port = s.out c.port ++ [s.statusFor c res done d v] := by
  unfold sendStatus State.statusFor
  refine ⟨?_, by simp⟩
  rw [tag_setTag_free]
  rfl

/-! ## Records -/

theorem rec?_id {s : State} {c : CmdId} {r : Record} (h : s.rec? c = some r) : r.id = c := by
  simpa using List.find?_some h

/-- A record after a change of it that keeps its name. -/
theorem rec?_mapRec {s : State} {c : CmdId} {f : Record → Record} (hf : ∀ r, (f r).id = r.id) :
    (mapRec c f s).rec? c = (s.rec? c).map f := by
  unfold State.rec? mapRec
  dsimp only
  induction s.adm.records with
  | nil => rfl
  | cons x xs ih =>
    by_cases e : x.id = c
    · simp [List.find?_cons, e, hf]
    · simp [List.find?_cons, e, ih]

/-- The records of the other tags are untouched by a change of one. -/
theorem rec?_mapRec_other {s : State} {c d : CmdId} {f : Record → Record} (hf : ∀ r, (f r).id = r.id) (h : d ≠ c) :
    (mapRec c f s).rec? d = s.rec? d := by
  unfold State.rec? mapRec
  dsimp only
  induction s.adm.records with
  | nil => rfl
  | cons x xs ih =>
    by_cases e : x.id = c
    · have : c ≠ d := fun x => h x.symm
      simp [List.find?_cons, e, hf, this, ih]
    · by_cases e' : x.id = d
      · simp [List.find?_cons, e', h]
      · simp [List.find?_cons, e, e', ih]

theorem rec?_mapPiece {s : State} {c : CmdId} {i : Nat} {f : Piece → Piece} :
    (mapPiece c i f s).rec? c = (s.rec? c).map fun r => { r with plan := r.plan.modify i f } :=
  rec?_mapRec fun _ => rfl

@[simp] theorem rec?_setTag (s : State) (c d : CmdId) (t : Tag) : (s.setTag c t).rec? d = s.rec? d :=
  rec_congr d (by simp)
@[simp] theorem rec?_send (s : State) (p : Port) (f : HostFrame) (d : CmdId) : (s.send p f).rec? d = s.rec? d :=
  rec_congr d (by simp)
@[simp] theorem rec?_sendStatus (c d : CmdId) (res : Result) (done : Nat) (x : Option Nat) (v : Nat) (s : State) :
    (sendStatus c res done x v s).rec? d = s.rec? d := rec_congr d (by simp)

/-- The part of leaving that comes before the deferred arrival and RESET_DONE. -/
theorem leave_eq {c : CmdId} {s : State} {r : Record} (h : s.rec? c = some r) : ∃ t, leave c s = resetDoneCheck c.port (lateCreation c t) ∧
    t.rec? c = none ∧ t.adm.deferred = s.adm.deferred ∧ t.hpA = s.hpA ∧ t.hpB = s.hpB ∧ t.outA = s.outA ∧
    t.outB = s.outB := by
  refine ⟨removeRecord c (letGo r (if r.counted then countDown (giveUpAll c s) else giveUpAll c s)),
    ?_, ?_, ?_⟩
  · unfold leave
    rw [h]
  · unfold removeRecord State.rec?
    dsimp only
    rw [List.find?_eq_none]
    intro x hx
    simpa using (List.mem_filter.1 hx).2
  · unfold removeRecord
    have hq : ∀ v : State, (unplace (.cmd c) (unqueue c v)).adm.deferred = v.adm.deferred := by
      intro v
      unfold unplace setOrder unqueue AdmissionUnit.setQueue
      cases c.port <;> rfl
    refine ⟨(hq _).trans ?_, ?_⟩
    · split <;> simp
    · split <;> simp

/-- The record of a tag after it has left: none, or that of the deferred arrival of the tag (R40, R53). -/
theorem leave_rec? {c : CmdId} {s : State} (hd : s.deferred? c = none) : (leave c s).rec? c = none := by
  cases h : s.rec? c with
  | none =>
    unfold leave
    rw [h]
    exact h
  | some r =>
    obtain ⟨t, e, hr, hdt, _⟩ := leave_eq h
    have hn : t.deferred? c = none := (deferred_congr c hdt).trans hd
    have hl : lateCreation c t = t := by
      unfold lateCreation
      rw [hn]
    rw [e, hl, rec_congr (s := t) c (by simp)]
    exact hr

/-- While its port is not RESETTING, a record that leaves sends nothing and touches no tag (R163). -/
theorem leave_port {c : CmdId} {s : State} (h : (s.hp c.port).condition ≠ .resetting) :
    (leave c s).hpA = s.hpA ∧ (leave c s).hpB = s.hpB ∧ (leave c s).outA = s.outA ∧ (leave c s).outB = s.outB := by
  cases hr : s.rec? c with
  | none =>
    unfold leave
    rw [hr]
    exact ⟨rfl, rfl, rfl, rfl⟩
  | some r =>
    obtain ⟨t, e, _, _, ha, hb, oa, ob⟩ := leave_eq hr
    have hl : resetDoneCheck c.port (lateCreation c t) = lateCreation c t := by
      unfold resetDoneCheck
      rw [if_neg]
      rintro ⟨x, _⟩
      refine h ?_
      rw [← hp_congr c.port ha hb, ← hp_congr (s := t) (t := lateCreation c t) c.port (by simp) (by simp)]
      exact x
    rw [e, hl]
    simp [ha, hb, oa, ob]

theorem sendStatus_condition (c : CmdId) (res : Result) (done : Nat) (d : Option Nat) (v : Nat) (s : State) (p : Port) :
    ((sendStatus c res done d v s).hp p).condition = (s.hp p).condition := by
  unfold sendStatus State.setTag
  cases hc : c.port <;> cases p <;> rfl

/-- The end of a record: its STATUS is sent, its tag is FREE and its record is gone (R53, R159). The port is not RESETTING, and
no arrival of the tag is deferred. -/
theorem endRecord_ends (c : CmdId) (res : Result) (done : Nat) (d : Option Nat) (v : Nat) {s : State}
    (hp : (s.hp c.port).condition ≠ .resetting) (hd : s.deferred? c = none) :
    (endRecord c res done d v s).endedWith s c [s.statusFor c res done d v] := by
  unfold endRecord
  have h := sendStatus_facts c res done d v s
  have k := leave_port (c := c) (s := sendStatus c res done d v s) (by rw [sendStatus_condition]; exact hp)
  refine ⟨leave_rec? ((deferred_congr c (by simp)).trans hd), ?_, ?_⟩
  · rw [tag_congr c k.1 k.2.1]
    exact h.1
  · rw [out_congr (s := sendStatus c res done d v s) c.port k.2.2.1 k.2.2.2]
    exact h.2

/-- A record ends the same way after updates that send nothing on its port and leave its notice queue, its port's condition and
its deferred arrival alone. -/
theorem endRecord_ends_of {s t : State} {c : CmdId} (res : Result) (done : Nat) (d : Option Nat) (v : Nat)
    (ho : t.out c.port = s.out c.port) (hm : t.mg c.port = s.mg c.port) (hp : (t.hp c.port).condition ≠ .resetting)
    (hd : t.deferred? c = none) : (endRecord c res done d v t).endedWith s c [s.statusFor c res done d v] := by
  have h := endRecord_ends c res done d v hp hd
  refine ⟨h.1, h.2.1, ?_⟩
  rw [h.2.2, ho]
  unfold State.statusFor
  rw [hm]

/-! ## The end of an act -/

/-- While the link is not DOWN nothing waits to fail at the end of an act (R99). -/
theorem settleDown_of_link {s : State} (h : s.te.link ≠ .down) : settleDown s = s := by
  unfold settleDown
  rw [if_neg h]

/-- What a port reset or a protocol error does to a record leaves ports and frames alone while its port is not RESETTING. -/
theorem cutOff_port {c : CmdId} {s : State} (h : (s.hp c.port).condition ≠ .resetting) :
    (cutOff c s).hpA = s.hpA ∧ (cutOff c s).hpB = s.hpB ∧ (cutOff c s).outA = s.outA ∧ (cutOff c s).outB = s.outB := by
  have ho : ∀ u : State, u.hpA = s.hpA ∧ u.hpB = s.hpB ∧ u.outA = s.outA ∧ u.outB = s.outB →
      (leave c u).hpA = s.hpA ∧ (leave c u).hpB = s.hpB ∧ (leave c u).outA = s.outA ∧ (leave c u).outB = s.outB := by
    rintro u ⟨a, b, oa, ob⟩
    have k := leave_port (c := c) (s := u) (by rw [hp_congr c.port a b]; exact h)
    exact ⟨k.1.trans a, k.2.1.trans b, k.2.2.1.trans oa, k.2.2.2.trans ob⟩
  have horph : (orphanOrLeave c s).hpA = s.hpA ∧ (orphanOrLeave c s).hpB = s.hpB ∧ (orphanOrLeave c s).outA = s.outA ∧
      (orphanOrLeave c s).outB = s.outB := by
    unfold orphanOrLeave
    dsimp only
    split
    · simp
    · split
      · exact ho _ (by simp)
      · simp
  unfold cutOff
  repeat' split
  all_goals first
    | exact horph
    | exact ho s ⟨rfl, rfl, rfl, rfl⟩
    | exact ⟨rfl, rfl, rfl, rfl⟩

/-- A protocol error sends STATUS PROTOCOL and frees the tag (R155), on a port that is not RESETTING. -/
theorem protocolError_ends {c : CmdId} {s : State} (hp : (s.hp c.port).condition ≠ .resetting) :
    ((protocolError c s).tag c).isOpen = false ∧
    (protocolError c s).out c.port = s.out c.port ++ [.status c.tag .protocol 0 none 0 (s.mg c.port).attention] := by
  have h := sendStatus_facts c .protocol 0 none 0 s
  unfold protocolError
  dsimp only
  split
  · refine ⟨?_, ?_⟩
    · rw [tag_congr (s := sendStatus c .protocol 0 none 0 s) c (by simp) (by simp)]
      exact h.1
    · rw [out_congr (s := sendStatus c .protocol 0 none 0 s) c.port (by simp) (by simp)]
      exact h.2
  · have k := cutOff_port (c := c) (s := sendStatus c .protocol 0 none 0 s) (by rw [sendStatus_condition]; exact hp)
    refine ⟨?_, ?_⟩
    · rw [tag_congr (s := sendStatus c .protocol 0 none 0 s) c k.1 k.2.1]
      exact h.1
    · rw [out_congr (s := sendStatus c .protocol 0 none 0 s) c.port k.2.2.1 k.2.2.2]
      exact h.2

/-- A record that is not ACTIVE, STOPPING or ORPHANED leaves when it is cut off (R58). -/
theorem cutOff_leave {c : CmdId} {s : State} {r : Record} (h : s.rec? c = some r)
    (hs : r.state = .waiting ∨ r.state = .held ∨ r.state = .journalWait) : cutOff c s = leave c s := by
  unfold cutOff
  rw [h]
  dsimp only
  rcases hs with e | e | e <;> rw [e]

/-- An ACTIVE or STOPPING record is orphaned when it is cut off (R58). -/
theorem cutOff_orphan {c : CmdId} {s : State} {r : Record} (h : s.rec? c = some r)
    (hs : r.state = .active ∨ r.state = .stopping) : cutOff c s = orphanOrLeave c s := by
  unfold cutOff
  rw [h]
  dsimp only
  rcases hs with e | e <;> rw [e]

/-- The record after pieces of it are withdrawn. -/
theorem withdrawPieces_rec? {c : CmdId} {w : Piece → Bool} {s : State} {r : Record} (h : s.rec? c = some r) :
    (withdrawPieces c w s).rec? c = some { r with plan := r.plan.map fun p => if w p then p.drop .withdrawn else p } := by
  unfold withdrawPieces
  rw [h]
  dsimp only
  refine (rec_congr c ?_).trans ((rec?_mapRec (s := s) (c := c)
    (f := fun x => { x with plan := x.plan.map fun p => if w p then p.drop .withdrawn else p }) fun _ => rfl).trans
    (by rw [h]; rfl))
  simp

/-- The record after pieces of it have given back their buffers (R67). -/
theorem freePieces_rec? {c : CmdId} {w : Piece → Bool} {s : State} {r : Record} (h : s.rec? c = some r) :
    (freePieces c w s).rec? c = some { r with plan := r.plan.map fun p => if w p then p.drop p.state else p } := by
  unfold freePieces
  rw [h]
  dsimp only
  refine (rec_congr c ?_).trans ((rec?_mapRec (s := s) (c := c)
    (f := fun x => { x with plan := x.plan.map fun p => if w p then p.drop p.state else p }) fun _ => rfl).trans
    (by rw [h]; rfl))
  simp

/-- The record after its ended READ pieces have given back their buffers: the pieces of a WRITE stay as they are (R67). -/
theorem freeEnded_rec? {c : CmdId} {s : State} {r : Record} (h : s.rec? c = some r) :
    (freeEnded c s).rec? c = some { r with
      plan := r.plan.map fun p => if decide (r.op = .read) && p.isOver then p.drop p.state else p } := by
  unfold freeEnded
  rw [h]
  by_cases ho : r.op = .read
  · rw [if_pos (by simp [ho]), freePieces_rec? h]
    simp [ho]
  · rw [if_neg (by simp [ho]), h]
    simp [ho]

/-- The record after it is orphaned: its pending pieces stay as they are (R79). -/
theorem orphan_rec? {c : CmdId} {s : State} {r : Record} (h : s.rec? c = some r) :
    ∃ f : Piece → Piece, (∀ p, p.isPending = true → f p = p) ∧
      (orphan c s).rec? c = some { r with state := .orphaned, winding := false, plan := r.plan.map f } := by
  unfold orphan
  rw [h]
  dsimp only
  have hw : (withdrawHost (Owner.ofFlush c)
      (mapRec c (fun x => { x with state := .orphaned, winding := false }) s)).rec? c =
        some { r with state := .orphaned, winding := false } :=
    (rec_congr c (by simp)).trans ((rec?_mapRec (s := s) (c := c)
      (f := fun x => { x with state := .orphaned, winding := false }) fun _ => rfl).trans (by rw [h]; rfl))
  have e := freeEnded_rec? (withdrawPieces_rec? (w := Piece.orphanDrops r.op) hw)
  rw [List.map_map] at e
  refine ⟨_, ?_, e⟩
  intro p hp
  have : Piece.orphanDrops r.op p = false := by
    unfold Piece.orphanDrops
    unfold Piece.isPending at hp
    cases hs : p.state <;> simp [hs] at hp ⊢
  have ho : p.isOver = false := by
    unfold Piece.isOver
    unfold Piece.isPending at hp
    cases hs : p.state <;> simp [hs] at hp ⊢
  simp [this, ho]

/-- An orphan with a piece whose outcome is still to come stays (R59). -/
theorem orphanOrLeave_pending {c : CmdId} {s : State} {r : Record} (h : s.rec? c = some r)
    (hp : r.plan.any Piece.isPending = true) : ∃ r', (orphanOrLeave c s).rec? c = some r' ∧ r'.state = .orphaned := by
  obtain ⟨f, hf, e⟩ := orphan_rec? h
  unfold orphanOrLeave
  dsimp only
  rw [e]
  dsimp only
  obtain ⟨x, hx, hxp⟩ := List.any_eq_true.1 hp
  have : State.orphanMayLeave (orphan c s) { r with state := .orphaned, winding := false, plan := r.plan.map f } = false := by
    unfold State.orphanMayLeave
    have a : (r.plan.map f).any Piece.isUnended = true :=
      List.any_eq_true.2 ⟨x, List.mem_map.2 ⟨x, hx, hf x hxp⟩, by simp [Piece.isUnended, hxp]⟩
    dsimp only
    rw [a]
    simp
  rw [this]
  exact ⟨_, e, rfl⟩

/-- The record after one of its buffers is given back. -/
theorem releaseBlock_rec? {c : CmdId} {b : Nat} {s : State} {r : Record} (h : s.rec? c = some r) :
    ∃ plan, (releaseBlock c b s).rec? c = some { r with plan := plan } := by
  unfold releaseBlock
  rw [h]
  dsimp only
  split
  · exact ⟨r.plan, h⟩
  · rename_i i _
    split
    · exact ⟨r.plan, h⟩
    · refine ⟨r.plan.modify i fun p => { p with held := p.held - 1 }, (rec_congr
        (s := mapPiece c i (fun p => { p with held := p.held - 1 }) s) c (by simp)).trans (rec?_mapPiece.trans (by rw [h]; rfl))⟩

/-- Nothing is delivered without an unused grant (R69). -/
theorem deliverBlocks_stop {c : CmdId} {s : State} {r : Record} (n : Nat) (h : s.rec? c = some r)
    (hn : ¬ (s.tag c).moved < (s.tag c).granted) : deliverBlocks n c s = s := by
  cases n with
  | zero => rfl
  | succ n =>
    unfold deliverBlocks
    rw [h]
    dsimp only
    rw [if_neg (by simp [hn])]

end Sys2Proof.Machine
end

