-- ==== Sys2Proof/Laws/Requests.lean ====
section
/-! SUPPORT. What handing over a request block does: the judgement of its sequence, its acceptance and its answer. -/

namespace Sys2Proof.Machine

variable {s : State} {p : Port} {q : BitVec 16} {r : MReq}

@[simp] theorem mg_setMg (s : State) (p : Port) (m : PortMgmt) : (s.setMg p m).mg p = m := by cases p <;> rfl
@[simp] theorem mg_setMg_other (s : State) (p : Port) (m : PortMgmt) : (s.setMg p m).mg p.other = s.mg p.other := by
  cases p <;> rfl
@[simp] theorem setMg_setMg (s : State) (p : Port) (m n : PortMgmt) : (s.setMg p m).setMg p n = s.setMg p n := by
  cases p <;> rfl
@[simp] theorem setMg_mg (s : State) (p : Port) : s.setMg p (s.mg p) = s := by cases p <;> rfl

/-- The next sequence of a port, or its first one, is case 3 of R169. -/
theorem canPost_all {m : PortMgmt} (h : m.canPost q) : m.lastSeq ≠ some q ∧
    (m.lastSeq.all fun l => decide (q = l + 1)) = true := by
  refine ⟨?_, ?_⟩
  · intro e
    have hq := h.2 q e
    have h1 : q + 1 ≠ q := by
      intro e
      have h2 : (1 : BitVec 16) = 0 := by simpa using e
      exact absurd h2 (by decide)
    exact h1 hq.symm
  · cases e : m.lastSeq with
    | none => rfl
    | some l => simpa using h.2 l e

/-- A request while one is in progress is not received (R169). -/
theorem request_busy (h : (s.mg p).inProgress ≠ none) : request p q r s = s := by
  unfold request post
  simp [Option.isSome_iff_ne_none.2 h]

/-- A duplicate is received and changes nothing (R169). -/
theorem request_duplicate (h : (s.mg p).inProgress = none) (hq : (s.mg p).lastSeq = some q) : request p q r s = s := by
  unfold request post
  simp [h, hq]

/-- A request out of sequence is answered SEQUENCE_ERROR and is not accepted (R169). -/
theorem request_outOfSequence {l : BitVec 16} (h : (s.mg p).inProgress = none) (hl : (s.mg p).lastSeq = some l)
    (h1 : q ≠ l) (h2 : q ≠ l + 1) : request p q r s = s.setMg p (sequenceError q r.code (s.mg p)) := by
  have a : (s.mg p).lastSeq ≠ some q := fun e => h1 (Option.some.inj (e.symm.trans hl))
  have b : ((s.mg p).lastSeq.all fun l => decide (q = l + 1)) = false := by
    rw [hl]
    simpa using h2
  unfold request post
  simp only [h, Option.isSome_none, Bool.false_eq_true, if_false, a, b]

/-- A request in sequence is accepted and taken by its owner (R169, R170). -/
theorem request_taken (h : s.accepts p q) : request p q r s = takeOwner p r (s.inProgressFor p q r.code) := by
  obtain ⟨hc, hm⟩ := h
  have ha := canPost_all hc
  have e : (s.setMg p (acceptRequest q r.code (s.mg p))).unmounted = false := by
    unfold State.unmounted
    rw [setMg_mnt]
    rcases hm with hm | hm <;> rw [hm] <;> rfl
  unfold request post acceptAndTake
  simp only [hc.1, Option.isSome_none, Bool.false_eq_true, if_false, ha.1, ha.2, if_true, e]
  rfl

/-- A request in sequence before the mount is answered NOT_READY (R170). -/
theorem request_notReady (hc : (s.mg p).canPost q) (hm : s.mnt.dev = .mounting ∨ s.mnt.dev = .offline) :
    request p q r s = s.plainly p q r.code .notReady := by
  have ha := canPost_all hc
  have e : (s.setMg p (acceptRequest q r.code (s.mg p))).unmounted = true := by
    unfold State.unmounted
    rw [setMg_mnt]
    rcases hm with hm | hm <;> rw [hm] <;> rfl
  unfold request post acceptAndTake
  simp only [hc.1, Option.isSome_none, Bool.false_eq_true, if_false, ha.1, ha.2, if_true, e]
  unfold answerPlain answer State.plainly State.answered acceptRequest Response.empty
  simp

/-- A request in progress that is answered (R171). -/
theorem answer_inProgressFor (code : Nat) (res : Reply) (n1 n2 n3 n4 : Nat) (items : List (List Byte)) :
    answer (some p) res n1 n2 n3 n4 items (s.inProgressFor p q code) = s.answered p q code res n1 n2 n3 n4 items := by
  unfold answer State.inProgressFor State.answered
  simp

/-- A refusal, or a DONE_OK without payload, of a request in progress. -/
theorem answerPlain_inProgressFor (code : Nat) (res : Reply) :
    answerPlain (some p) res (s.inProgressFor p q code) = s.plainly p q code res := answer_inProgressFor ..

/-- A request in progress whose effect has changed the maps is answered. -/
theorem answerPlain_setMap (f : MapUnit → MapUnit) (code : Nat) (res : Reply) :
    answerPlain (some p) res (setMap f (s.inProgressFor p q code)) =
      State.plainly { s with map := f s.map } p q code res := by
  unfold answerPlain answer setMap State.inProgressFor State.plainly State.answered
  cases p <;> rfl

/-- While a request is in progress only its port's Management Unit state differs. -/
@[simp] theorem inProgressFor_units (s : State) (p : Port) (q : BitVec 16) (code : Nat) :
    (s.inProgressFor p q code).map = s.map ∧ (s.inProgressFor p q code).ov = s.ov ∧
    (s.inProgressFor p q code).adm = s.adm ∧ (s.inProgressFor p q code).te = s.te ∧
    (s.inProgressFor p q code).pool = s.pool ∧ (s.inProgressFor p q code).mrg = s.mrg ∧
    (s.inProgressFor p q code).jrn = s.jrn ∧ (s.inProgressFor p q code).mnt = s.mnt ∧
    (s.inProgressFor p q code).hpA = s.hpA ∧ (s.inProgressFor p q code).hpB = s.hpB ∧
    (s.inProgressFor p q code).outA = s.outA ∧ (s.inProgressFor p q code).outB = s.outB ∧
    (s.inProgressFor p q code).outT = s.outT ∧ (s.inProgressFor p q code).free = s.free ∧
    (s.inProgressFor p q code).pending = s.pending := by
  unfold State.inProgressFor
  simp

/-- The index that blocks a map depends on the Overlay Table and the active map alone (R15). -/
theorem blockedIndex_congr {t : State} (m : RegionMap) (ho : t.ov.table = s.ov.table) (ha : t.map.active = s.map.active) :
    t.blockedIndex m = s.blockedIndex m := by
  unfold State.blockedIndex State.entryCount
  rw [ho, ha]

/-- A drain that ends with no index blocked claims the buffers of the anchor write (R16, R17). -/
theorem endDrain_free {a : Activation} (h : s.blockedIndex a.map = none) :
    endDrain a s = placeClaim .internal .anchor 3
      (setMap (fun m => { m with activation := some { a with draining := false } }) s) := by
  unfold endDrain
  rw [h]

/-- A drain that ends with an index blocked fails the activation (R16, R18). -/
theorem endDrain_blocked {a : Activation} {i : Nat} (h : s.blockedIndex a.map = some i) :
    endDrain a s = activationFails a .regionHasOverlay [indexItem i 0] s := by
  unfold endDrain
  rw [h]

/-- The staging map of a port that does not hold the stage claim. -/
theorem stagedBy_none (h : ∀ m, s.map.stage ≠ some (p, m)) : s.stagedBy p = none := by
  unfold State.stagedBy
  split
  · rename_i o m e
    split
    · rename_i ho
      exact absurd (ho ▸ e) (h m)
    · rfl
  · rfl

/-- The staging map of the port that holds the stage claim. -/
theorem stagedBy_some {m : RegionMap} (h : s.map.stage = some (p, m)) : s.stagedBy p = some m := by
  unfold State.stagedBy
  rw [h]
  simp

/-- The stage claim does not depend on the request in progress. -/
@[simp] theorem stagedBy_inProgressFor (s : State) (p p' : Port) (q : BitVec 16) (code : Nat) :
    (s.inProgressFor p q code).stagedBy p' = s.stagedBy p' := by
  unfold State.stagedBy
  simp

end Sys2Proof.Machine
end

