-- ==== Sys2Proof/Laws/Stays.lean ====
section
/-! SUPPORT. What the operations of the target port and of the link keep: as Laws/Keeps.lean, but for the table of target
operations and the link, whose own rules they keep. -/

namespace Sys2Proof.Machine

/-- What a command's meaning keeps. -/
structure Stays (s t : State) : Prop where
  pending : t.pending = s.pending
  hold    : t.map.hold = s.map.hold
  outA    : s.outA <+: t.outA
  outB    : s.outB <+: t.outB
  outT    : s.outT <+: t.outT
  notices : s.noticesOk → t.noticesOk
  quota   : s.pool.withinQuota → t.pool.withinQuota
  ports   : s.portsOk → t.portsOk
  engine  : s.te.tableOk ∧ s.te.queuesOk → t.te.tableOk ∧ t.te.queuesOk
  store   : s.storeOk → t.storeOk

theorem tableOk_of_faces {a b : TransferEngine} (hf : b.ops.map TargetOp.face = a.ops.map TargetOp.face)
    (hl : b.link = a.link) (hw : b.resetWait = a.resetWait) (h : a.tableOk) : b.tableOk := by
  unfold TransferEngine.tableOk TransferEngine.held at *
  rw [hf, hl, hw]
  exact h

theorem Keeps.stays {s t : State} (h : Keeps s t) : Stays s t :=
  ⟨h.pending, h.hold, h.outA, h.outB, h.outT, h.notices, h.quota, h.ports,
   fun e => ⟨tableOk_of_faces h.faces h.link h.wait e.1, h.queues e.2⟩, h.store⟩

theorem Stays.trans {s t u : State} (a : Stays s t) (b : Stays t u) : Stays s u :=
  ⟨b.pending.trans a.pending, b.hold.trans a.hold, a.outA.trans b.outA, a.outB.trans b.outB, a.outT.trans b.outT,
   b.notices ∘ a.notices, b.quota ∘ a.quota, b.ports ∘ a.ports, b.engine ∘ a.engine, b.store ∘ a.store⟩

/-- A change of the Transfer Engine alone. -/
theorem Stays.te (s : State) (te : TransferEngine) (h : s.te.tableOk ∧ s.te.queuesOk → te.tableOk ∧ te.queuesOk)
    (hr : te.relocs = s.te.relocs) : Stays s { s with te := te } :=
  ⟨rfl, rfl, List.prefix_rfl, List.prefix_rfl, List.prefix_rfl, id, id, id, h, storeOk_same rfl (by rw [hr]) rfl⟩

/-- A table with no operation is in order unless the RESET_DONE wait runs on a link that is UP. -/
theorem tableOk_empty {te : TransferEngine} (h : te.ops = []) (hw : te.resetWait = true → te.link ≠ .up) : te.tableOk := by
  unfold TransferEngine.tableOk TransferEngine.held
  rw [h]
  simpa using hw

/-- A part of the table is in order when the table is. -/
theorem tableOk_filter {te : TransferEngine} (p : TargetOp → Bool) (h : te.tableOk) :
    TransferEngine.tableOk { te with ops := te.ops.filter p } := by
  have hs : ((te.ops.filter p).map TargetOp.face).Sublist (te.ops.map TargetOp.face) := List.filter_sublist.map _
  obtain ⟨h1, h2, h3, h4, h5, h6, h7, h8, h9, h10⟩ := h
  unfold TransferEngine.held at h3 h4 h5 h6 h7
  refine ⟨h1.sublist (hs.map _), fun f hf => h2 f (hs.subset hf), ?_, ?_, ?_, ?_, ?_, fun f hf => h8 f (hs.subset hf),
    fun f hf => h9 f (hs.subset hf), fun hw => ⟨(h10 hw).1, List.eq_nil_of_subset_nil ((h10 hw).2 ▸ hs.subset)⟩⟩
  all_goals
    unfold TransferEngine.held
    exact Nat.le_trans ((hs.filter _).length_le) (by assumption)

variable {s t : State}

theorem mapOp_stop_faces (tag : Nat) (f : TargetOp → TargetOp) (hf : ∀ o, (f o).face = o.face) (s : State) :
    (mapOp tag f s).te.ops.map TargetOp.face = s.te.ops.map TargetOp.face := by
  unfold mapOp
  rw [List.map_map]
  refine List.map_congr_left ?_
  intro o _
  simp only [Function.comp_apply]
  split
  · exact hf o
  · rfl

theorem keeps_mapOp (tag : Nat) (f : TargetOp → TargetOp) (hf : ∀ o, (f o).face = o.face) (h : Keeps s t) :
    Keeps s (mapOp tag f t) := h.trans (Keeps.te _ _ (mapOp_stop_faces tag f hf t) rfl rfl id rfl)

theorem keeps_stopOp (tag : Nat) (c : StopCause) (h : Keeps s t) : Keeps s (stopOp tag c t) :=
  keeps_mapOp _ _ (fun _ => rfl) (keeps_sendT _ h)

theorem keeps_grantTarget (n tag : Nat) (h : Keeps s t) : Keeps s (grantTarget n tag t) := by
  induction n generalizing t with
  | zero => exact h
  | succ n ih =>
    unfold grantTarget
    dsimp only
    repeat' split
    · exact h
    · exact ih (keeps_mapOp _ _ (fun _ => rfl) (keeps_sendT _ h))
    · exact h

theorem keeps_takeTargetGrant (o : TargetOp) (n : Nat) (h : Keeps s t) : Keeps s (takeTargetGrant o n t) := by
  unfold takeTargetGrant
  split
  · exact keeps_stopOp _ _ h
  · exact keeps_mapOp _ _ (fun _ => rfl) (keeps_foldl (fun _ _ k => keeps_sendT _ k) _ h)

theorem keeps_takeTargetData (o : TargetOp) (i : Nat) (b : Block) (c : BitVec 32) (h : Keeps s t) :
    Keeps s (takeTargetData o i b c t) := by
  unfold takeTargetData
  repeat' split
  · exact keeps_stopOp _ _ h
  · exact keeps_stopOp _ _ h
  · exact keeps_grantTarget _ _ (keeps_mapOp _ _ (fun _ => rfl) h)

/-! ## The end of an operation -/

theorem stays_removeOp (tag : Nat) : Stays s (removeOp tag s) :=
  Stays.te _ _ (fun e => ⟨tableOk_filter _ e.1, e.2⟩) rfl

theorem mem_of_op? {tag : Nat} {o : TargetOp} (h : s.op? tag = some o) : o ∈ s.te.ops := List.mem_of_find?_eq_some h

theorem owner_ne_link {o : TargetOp} (ho : o ∈ s.te.ops) (hl : s.te.link = .up) (h : s.te.tableOk) :
    o.req.owner ≠ .link := by
  have := h.2.2.2.2.2.2.2.1 o.face (List.mem_map.2 ⟨o, ho, rfl⟩)
  simpa [TargetOp.face, hl] using this

theorem stays_enqueue (r : Request) (hr : s.te.tableOk ∧ s.te.queuesOk → r.owner ≠ .link) (h : Stays s t) :
    Stays s (enqueue r t) := by
  by_cases e : r.owner = .link
  · have no : ¬ (s.te.tableOk ∧ s.te.queuesOk) := fun x => hr x e
    refine ⟨h.pending, h.hold, h.outA, h.outB, h.outT, h.notices, h.quota, h.ports, fun x => absurd x no, ?_⟩
    refine fun o => storeOk_same (s := t) rfl ?_ rfl (h.store o)
    unfold enqueue
    dsimp only
    cases r.cls with
    | host p => cases p <;> rfl
    | _ => rfl
  · exact h.trans (keeps_enqueue r e (Keeps.refl t)).stays

theorem stays_finalOutcome (r : Request) (got : List Block) (out : TOutcome) (h : Stays s t) :
    Stays s (finalOutcome r got out t) := h.trans (keeps_finalOutcome r got out (Keeps.refl t)).stays

theorem stays_ownerGoesOn (o : Owner) (h : Stays s t) : Stays s (ownerGoesOn o t) := by
  refine h.trans (Keeps.stays ?_)
  cases o <;> unfold ownerGoesOn
  all_goals first
    | exact Keeps.refl t
    | exact keeps_relocAdvance _ (Keeps.refl t)
    | exact keeps_mergeAdvance (Keeps.refl t)

theorem stays_retry (r : Request) (hr : s.te.tableOk ∧ s.te.queuesOk → r.owner ≠ .link) (h : Stays s t) :
    Stays s (retry r t) := stays_ownerGoesOn _ (stays_enqueue _ hr h)

theorem stays_waitInterval (r : Request) (hr : s.te.tableOk ∧ s.te.queuesOk → r.owner ≠ .link) (h : Stays s t) :
    Stays s (waitInterval r t) := by
  refine stays_ownerGoesOn _ ⟨h.pending, h.hold, h.outA, h.outB, h.outT, h.notices, h.quota, h.ports, ?_,
    fun o => storeOk_same (s := t) rfl rfl rfl (h.store o)⟩
  intro e
  refine ⟨tableOk_of_faces rfl rfl rfl (h.engine e).1, ?_⟩
  intro x hx
  simp only [List.mem_append, List.mem_singleton, ← or_assoc] at hx
  rcases hx with hx | rfl
  · exact (h.engine e).2 x (by simpa only [List.mem_append] using hx)
  · exact hr e

theorem stays_dataCheckEnd (r : Request) (hr : s.te.tableOk ∧ s.te.queuesOk → r.owner ≠ .link) (h : Stays s t) :
    Stays s (dataCheckEnd r t) := by
  unfold dataCheckEnd
  split
  · exact stays_retry _ hr h
  · exact stays_finalOutcome _ _ _ h

theorem stays_notReadyEnd (r : Request) (hr : s.te.tableOk ∧ s.te.queuesOk → r.owner ≠ .link) (h : Stays s t) :
    Stays s (notReadyEnd r t) := by
  unfold notReadyEnd
  split
  · exact stays_waitInterval _ hr h
  · exact stays_finalOutcome _ _ _ h

theorem stays_mediaEnd (o : TargetOp) (n : Nat) (d : Option Nat)
    (hr : s.te.tableOk ∧ s.te.queuesOk → o.req.owner ≠ .link) (h : Stays s t) : Stays s (mediaEnd o n d t) := by
  unfold mediaEnd
  repeat' split
  · exact stays_finalOutcome _ _ _ h
  · exact stays_retry _ hr h
  · refine stays_finalOutcome _ _ _ (h.trans ?_)
    unfold failingPlace
    dsimp only
    split
    · exact (Keeps.refl t).stays
    · exact (keeps_drawIndex _ (Keeps.refl t)).stays

theorem stays_endOp (o : TargetOp) (res n : Nat) (d : Option Nat) (ho : o ∈ s.te.ops) (hl : s.te.link = .up) :
    Stays s (endOp o res n d s) := by
  have hr : s.te.tableOk ∧ s.te.queuesOk → o.req.owner ≠ .link := fun e => owner_ne_link ho hl e.1
  have h : Stays s (removeOp o.tag s) := stays_removeOp _
  unfold endOp
  dsimp only
  repeat' split
  all_goals first
    | exact stays_finalOutcome _ _ _ h
    | exact stays_dataCheckEnd _ hr h
    | exact stays_notReadyEnd _ hr h
    | exact stays_mediaEnd _ _ _ hr h

/-! ## The arbiter -/

theorem held_append (te : TransferEngine) (o : TargetOp) (p : Nat × TClass × Bool × Bool → Bool) :
    TransferEngine.held { te with ops := te.ops ++ [o] } p = te.held p + if p o.face then 1 else 0 := by
  unfold TransferEngine.held
  rw [List.map_append, List.filter_append]
  simp only [List.map_cons, List.map_nil, List.length_append]
  by_cases h : p o.face <;> simp [h]

theorem tagsHeld_eq_held (p : Nat × TClass × Bool × Bool → Bool) :
    s.tagsHeld (fun o => p o.face) = s.te.held p := by
  unfold State.tagsHeld TransferEngine.held
  rw [List.filter_map, List.length_map]
  rfl

/-- A request within its cap, on a free tag, keeps the table in order. -/
theorem tableOk_issue {tag : Nat} {r : Request} (h : s.te.tableOk) (hl : s.te.link = .up) (hr : r.owner ≠ .link)
    (hc : s.withinCap r = true) (ht : s.freeTag = some tag) :
    TransferEngine.tableOk { s.te with
      ops := s.te.ops ++ [{ tag := tag, req := r, granted := 0, moved := 0, got := [], stop := none }] } := by
  obtain ⟨h1, h2, h3, h4, h5, h6, h7, h8, h9, h10⟩ := h
  have hfree : ∀ o ∈ s.te.ops, o.tag ≠ tag := by
    have := List.find?_some ht
    simpa using this
  have hlt : tag < 32 := by simpa [Config.targetTags] using List.mem_range.1 (List.mem_of_find?_eq_some ht)
  have hw : s.te.resetWait = false := by
    cases e : s.te.resetWait with
    | false => rfl
    | true => exact absurd hl (h10 e).1
  have cap : ∀ (p : Nat × TClass × Bool × Bool → Bool) (n : Nat), s.te.held p ≤ n →
      (p (tag, r.cls, decide (r.owner = .journal), decide (r.owner = .link)) = true → s.te.held p < n) →
      TransferEngine.held { s.te with
        ops := s.te.ops ++ [{ tag := tag, req := r, granted := 0, moved := 0, got := [], stop := none }] } p ≤ n := by
    intro p n a b
    rw [held_append]
    split
    · rename_i e
      have := b e
      omega
    · omega
  unfold State.withinCap at hc
  refine ⟨?_, ?_, cap _ _ h3 ?_, cap _ _ h4 ?_, cap _ _ h5 ?_, cap _ _ h6 ?_, cap _ _ h7 ?_, ?_, ?_, ?_⟩
  · rw [List.map_append, List.map_append]
    refine List.nodup_append.2 ⟨h1, by simp, ?_⟩
    intro x hx y hy e
    simp only [List.map_map, List.mem_map, Function.comp_apply] at hx
    rcases hx with ⟨o, ho, rfl⟩
    simp only [List.map_cons, List.map_nil, List.mem_singleton, TargetOp.face] at hy e
    exact hfree o ho (e.trans hy)
  · intro f hf
    rw [List.map_append] at hf
    rcases List.mem_append.1 hf with hf | hf
    · exact h2 f hf
    · simp only [List.map_cons, List.map_nil, List.mem_singleton] at hf
      rw [hf]
      exact hlt
  · intro e
    simp only [decide_eq_true_eq] at e
    rw [e] at hc
    rw [← tagsHeld_eq_held]
    exact of_decide_eq_true hc
  · intro e
    simp only [decide_eq_true_eq] at e
    rw [e] at hc
    rw [← tagsHeld_eq_held]
    exact of_decide_eq_true hc
  · intro e
    simp only [decide_eq_true_eq] at e
    rw [e] at hc
    rw [← tagsHeld_eq_held]
    exact of_decide_eq_true hc
  · intro e
    simp only [Bool.and_eq_true, decide_eq_true_eq] at e
    rw [e.1] at hc
    rw [← tagsHeld_eq_held]
    simp only [e.2, decide_true, beq_true] at hc
    exact of_decide_eq_true hc
  · intro e
    simp only [Bool.and_eq_true, decide_eq_true_eq, Bool.not_eq_true', decide_eq_false_iff_not] at e
    rw [e.1] at hc
    rw [← tagsHeld_eq_held]
    simp only [e.2, decide_false, beq_false] at hc
    exact of_decide_eq_true hc
  · intro f hf
    rw [List.map_append] at hf
    rcases List.mem_append.1 hf with hf | hf
    · exact h8 f hf
    · simp only [List.map_cons, List.map_nil, List.mem_singleton] at hf
      rw [hf]
      simp [TargetOp.face, hl, hr]
  · intro f hf e
    rw [List.map_append] at hf
    rcases List.mem_append.1 hf with hf | hf
    · exact h9 f hf e
    · simp only [List.map_cons, List.map_nil, List.mem_singleton] at hf
      rw [hf] at e
      simp [TargetOp.face, hr] at e
  · intro e
    exact absurd (hw.symm.trans e) (by simp)

theorem keeps_afterIssue (tag : Nat) (r : Request) (o : TargetOp) :
    Keeps { s with te := { s.te with ops := s.te.ops ++ [o] } }
      (grantTarget grantRounds tag ((match r.owner with
        | .piece c i => mapPiece c i (fun p => { p with state := .issued }) { s with te := { s.te with ops := s.te.ops ++ [o] } }
        | .relocWrite g _ => mapReloc g (fun x => { x with issued := true }) { s with te := { s.te with ops := s.te.ops ++ [o] } }
        | _ => { s with te := { s.te with ops := s.te.ops ++ [o] } }).sendT (.cmd tag r.op r.first r.count r.durable))) := by
  refine keeps_grantTarget _ _ (keeps_sendT _ ?_)
  split
  · exact keeps_mapPiece _ _ _ (Keeps.refl _)
  · exact keeps_mapReloc _ _ (fun _ => rfl) (Keeps.refl _)
  · exact Keeps.refl _

theorem queuesOk_erase {te : TransferEngine} (c : TClass) (i : Nat) (h : te.queuesOk) :
    (te.setQueue c ((te.queue c).eraseIdx i)).queuesOk :=
  queuesOk_setQueue h fun r hr => queuesOk_mem_queue h r ((List.eraseIdx_sublist _ _).subset hr)

theorem setQueue_faces (te : TransferEngine) (c : TClass) (l : List Request) :
    (te.setQueue c l).ops = te.ops ∧ (te.setQueue c l).link = te.link ∧ (te.setQueue c l).resetWait = te.resetWait ∧
      (te.setQueue c l).relocs = te.relocs := by
  cases c with
  | host p => cases p <;> exact ⟨rfl, rfl, rfl, rfl⟩
  | _ => exact ⟨rfl, rfl, rfl, rfl⟩

theorem afterGrant_faces (c : TClass) (b : Bool) (te : TransferEngine) :
    (afterGrant c b te).ops = te.ops ∧ (afterGrant c b te).link = te.link ∧
      (afterGrant c b te).resetWait = te.resetWait ∧ (te.queuesOk → (afterGrant c b te).queuesOk) ∧
      (afterGrant c b te).relocs = te.relocs := by
  cases c <;> exact ⟨rfl, rfl, rfl, id, rfl⟩

theorem stays_grantOne : Stays s (grantOne s) := by
  unfold grantOne
  split
  · exact (Keeps.refl s).stays
  · rename_i hl
    have hl : s.te.link = .up := by simpa using hl
    split
    · rename_i tag c ht hc
      split
      · exact (Keeps.refl s).stays
      · rename_i i hi
        split
        · exact (Keeps.refl s).stays
        · rename_i r hr
          dsimp only
          unfold issueOp
          have a := setQueue_faces s.te c ((s.te.queue c).eraseIdx i)
          have b := afterGrant_faces c (s.oldest .background).isSome (s.te.setQueue c ((s.te.queue c).eraseIdx i))
          refine Stays.trans (Stays.te s _ ?_ ?_) (keeps_afterIssue (s := ({ s with te := (afterGrant c
            (s.oldest .background).isSome (s.te.setQueue c ((s.te.queue c).eraseIdx i))) } : State)) tag r _).stays
          swap
          · exact b.2.2.2.2.trans a.2.2.2
          intro e
          have hcap : s.withinCap r = true := by
            have := List.findIdx?_eq_some_iff_getElem.1 hi
            obtain ⟨hlt, hp, _⟩ := this
            rw [List.getElem?_eq_getElem hlt] at hr
            cases hr
            exact hp
          have hown : r.owner ≠ .link := queuesOk_mem_queue e.2 r (List.mem_of_getElem? hr)
          refine ⟨tableOk_of_faces ?_ ?_ ?_ (tableOk_issue e.1 hl hown hcap ht), ?_⟩
          · show List.map _ (_ ++ _) = _
            rw [b.1, a.1]
          · exact b.2.1.trans a.2.1
          · exact b.2.2.1.trans a.2.2.1
          · exact b.2.2.2.1 (queuesOk_erase c i e.2)
    · exact (Keeps.refl s).stays

/-! ## The target link -/

theorem endReset_faces (tag : Nat) :
    (endReset tag s).te.ops.map TargetOp.face = (s.te.ops.map TargetOp.face).filter fun f => decide (f.1 ≠ tag) := by
  unfold endReset
  split
  · rename_i h
    symm
    refine List.filter_eq_self.2 ?_
    intro f hf
    rcases List.mem_map.1 hf with ⟨o, ho, rfl⟩
    have := List.find?_eq_none.1 h o ho
    simp only [beq_iff_eq] at this
    simp [TargetOp.face, this]
  · rename_i o h
    have e := (keeps_finalOutcome o.req o.got .reset (Keeps.refl (removeOp tag s))).faces
    rw [e]
    unfold removeOp
    rw [List.filter_map]
    rfl

/-- All but the faces of the operations: what the end of one of them keeps. -/
structure KeepsBut (s t : State) : Prop where
  pending : t.pending = s.pending
  hold    : t.map.hold = s.map.hold
  outA    : s.outA <+: t.outA
  outB    : s.outB <+: t.outB
  outT    : s.outT <+: t.outT
  notices : s.noticesOk → t.noticesOk
  quota   : s.pool.withinQuota → t.pool.withinQuota
  ports   : s.portsOk → t.portsOk
  link    : t.te.link = s.te.link
  wait    : t.te.resetWait = s.te.resetWait
  queues  : s.te.queuesOk → t.te.queuesOk
  store   : s.storeOk → t.storeOk

theorem keepsBut_endReset (tag : Nat) : KeepsBut s (endReset tag s) := by
  unfold endReset
  split
  · exact ⟨rfl, rfl, List.prefix_rfl, List.prefix_rfl, List.prefix_rfl, id, id, id, rfl, rfl, id, id⟩
  · rename_i o h
    have k := keeps_finalOutcome o.req o.got .reset (Keeps.refl (removeOp tag s))
    exact ⟨k.pending, k.hold, k.outA, k.outB, k.outT, k.notices, k.quota, k.ports, k.link, k.wait, k.queues, k.store⟩

theorem keepsBut_endResets (l : List Nat) : KeepsBut s (l.foldl (fun u tag => endReset tag u) s) ∧
    (l.foldl (fun u tag => endReset tag u) s).te.ops.map TargetOp.face =
      (s.te.ops.map TargetOp.face).filter fun f => decide (f.1 ∉ l) := by
  induction l generalizing s with
  | nil =>
    refine ⟨⟨rfl, rfl, List.prefix_rfl, List.prefix_rfl, List.prefix_rfl, id, id, id, rfl, rfl, id, id⟩, ?_⟩
    simp
  | cons x xs ih =>
    have a := keepsBut_endReset (s := s) x
    have b := ih (s := endReset x s)
    refine ⟨⟨b.1.pending.trans a.pending, b.1.hold.trans a.hold, a.outA.trans b.1.outA, a.outB.trans b.1.outB,
      a.outT.trans b.1.outT, b.1.notices ∘ a.notices, b.1.quota ∘ a.quota, b.1.ports ∘ a.ports, b.1.link.trans a.link,
      b.1.wait.trans a.wait, b.1.queues ∘ a.queues, b.1.store ∘ a.store⟩, ?_⟩
    rw [List.foldl_cons, b.2, endReset_faces, List.filter_filter]
    refine List.filter_congr ?_
    intro f _
    simp [not_or, Bool.and_comm]

/-- After a link reset no operation is in the table (R97). -/
theorem resetLink_ops : (resetLink s).te.ops = [] := by
  have h := (keepsBut_endResets (s := ({ s with te := { s.te with link := .resetting, resetWait := true } } : State).sendT
    .linkreset) (s.te.ops.map (·.tag))).2
  have : (resetLink s).te.ops.map TargetOp.face = [] := by
    refine h.trans (List.filter_eq_nil_iff.2 ?_)
    intro f hf
    rcases List.mem_map.1 hf with ⟨o, ho, rfl⟩
    have : o.face.1 ∈ s.te.ops.map (·.tag) := List.mem_map.2 ⟨o, ho, rfl⟩
    simpa using this
  simpa using this

theorem stays_resetLink : Stays s (resetLink s) := by
  have h := (keepsBut_endResets (s := ({ s with te := { s.te with link := .resetting, resetWait := true } } : State).sendT
    .linkreset) (s.te.ops.map (·.tag))).1
  refine ⟨h.pending, h.hold, h.outA, h.outB, (List.prefix_append _ _).trans h.outT, h.notices, h.quota, h.ports, ?_, h.store⟩
  intro e
  refine ⟨tableOk_empty resetLink_ops ?_, h.queues e.2⟩
  intro _
  have : (resetLink s).te.link = .resetting := h.link
  rw [this]
  simp

/-- While the link is not UP and no SIZE is outstanding, no operation is in the table (R97, R98). -/
theorem ops_of_noSize (h : s.te.tableOk) (hl : s.te.link ≠ .up) (hz : s.linkSize? = none) : s.te.ops = [] := by
  rw [List.eq_nil_iff_forall_not_mem]
  intro o ho
  have a := h.2.2.2.2.2.2.2.1 o.face (List.mem_map.2 ⟨o, ho, rfl⟩)
  have b := List.find?_eq_none.1 hz o ho
  simp only [TargetOp.face, hl, ne_eq, not_false_iff, decide_true] at a
  exact b a

theorem stays_issueSize (hl : s.te.link ≠ .up) (hz : s.linkSize? = none) : Stays s (issueSize s) := by
  refine ⟨rfl, rfl, List.prefix_rfl, List.prefix_rfl, List.prefix_append _ _, id, id, id, ?_, id⟩
  intro e
  have ho := ops_of_noSize e.1 hl hz
  refine ⟨?_, e.2⟩
  unfold issueSize TransferEngine.tableOk TransferEngine.held State.sendT
  simp [ho, TargetOp.face, newRequest, hl]

/-- The SIZE of the link is alone in the table (R98). -/
theorem removeOp_linkSize {o : TargetOp} (hz : s.linkSize? = some o) (h : s.te.tableOk) :
    (removeOp o.tag s).te.ops = [] := by
  have ho : o ∈ s.te.ops := List.mem_of_find?_eq_some hz
  have hown : o.req.owner = .link := by simpa using List.find?_some hz
  have a := h.2.2.2.2.2.2.2.1 o.face (List.mem_map.2 ⟨o, ho, rfl⟩)
  have zero : ∀ x ∈ s.te.ops, x.tag = 0 := by
    intro x hx
    have b := h.2.2.2.2.2.2.2.1 x.face (List.mem_map.2 ⟨x, hx, rfl⟩)
    refine h.2.2.2.2.2.2.2.2.1 x.face (List.mem_map.2 ⟨x, hx, rfl⟩) ?_
    rw [b, ← a]
    simp [TargetOp.face, hown]
  unfold removeOp
  refine List.filter_eq_nil_iff.2 ?_
  intro x hx
  simp [zero x hx, zero o ho]

/-- The link takes another state while no operation is in the table. -/
theorem stays_link (te : TransferEngine) (hq : t.te.queuesOk → te.queuesOk) (ho : te.ops = t.te.ops)
    (hr : te.relocs = t.te.relocs)
    (hw : s.te.tableOk ∧ s.te.queuesOk → te.resetWait = true → te.link ≠ .up) (h : Stays s t)
    (he : s.te.tableOk ∧ s.te.queuesOk → t.te.ops = []) : Stays s { t with te := te } :=
  ⟨h.pending, h.hold, h.outA, h.outB, h.outT, h.notices, h.quota, h.ports,
   fun e => ⟨tableOk_empty (ho.trans (he e)) (hw e), hq (h.engine e).2⟩, fun o => storeOk_same (s := t) rfl (by rw [hr]) rfl (h.store o)⟩

theorem stays_linkUp (v : Nat) (h : Stays s t) (he : s.te.tableOk ∧ s.te.queuesOk → t.te.ops = [])
    (hw : s.te.tableOk ∧ s.te.queuesOk → t.te.resetWait = false) : Stays s (linkUp v t) := by
  unfold linkUp
  extract_lets again te1 u w
  have hu : Stays s u := stays_link _ id rfl rfl (fun e x => absurd ((hw e).symm.trans x) (by simp)) h he
  have hv : Stays s w := by
    unfold w
    split
    · exact hu.trans (keeps_raise _ _ (Keeps.refl u)).stays
    · exact hu
  split
  · exact hv.trans (keeps_mountAnchor (Keeps.refl w)).stays
  · exact hv

theorem stays_linkDown (c : DownCause) (h : Stays s t) (he : s.te.tableOk ∧ s.te.queuesOk → t.te.ops = []) :
    Stays s (linkDown c t) := by
  unfold linkDown
  extract_lets te1 u v w
  have hu : Stays s u := stays_link _ id rfl rfl (fun _ x => absurd x (by simp)) h he
  have hv : Stays s v := by
    unfold v
    split
    · exact hu.trans (keeps_raise _ _ (Keeps.refl u)).stays
    · exact hu
  have hw : Stays s w := by
    unfold w
    split
    · exact hv.trans (keeps_sendT _ (Keeps.refl v)).stays
    · exact hv
  split
  · exact hw.trans (keeps_setMnt _ id (Keeps.refl w)).stays
  · exact hw

/-- While the SIZE of the link is outstanding the RESET_DONE wait does not run (R98). -/
theorem resetWait_of_linkSize {o : TargetOp} (hz : s.linkSize? = some o) (h : s.te.tableOk) : s.te.resetWait = false := by
  cases e : s.te.resetWait with
  | false => rfl
  | true =>
    have a := (h.2.2.2.2.2.2.2.2.2 e).2
    have b : o ∈ s.te.ops := List.mem_of_find?_eq_some hz
    rw [List.map_eq_nil_iff.1 a] at b
    cases b

theorem stays_linkSizeStatus (r v : Nat) : Stays s (linkSizeStatus r v s) := by
  unfold linkSizeStatus
  split
  · exact (Keeps.refl s).stays
  · rename_i o hz
    have h : Stays s (removeOp o.tag s) := stays_removeOp _
    have he : s.te.tableOk ∧ s.te.queuesOk → (removeOp o.tag s).te.ops = [] := fun e => removeOp_linkSize hz e.1
    have hw : s.te.tableOk ∧ s.te.queuesOk → (removeOp o.tag s).te.resetWait = false :=
      fun e => (resetWait_of_linkSize hz e.1 : s.te.resetWait = false)
    dsimp only
    repeat' split
    · exact stays_linkUp _ h he hw
    · exact stays_linkUp _ h he hw
    · exact stays_linkDown _ h he
    · exact stays_linkDown _ h he

end Sys2Proof.Machine
end

