-- ==== Sys2Proof/Tests/Slice0.lean ====
section
/-! SUPPORT. Tests on small states: what WellFormed refuses, frames written out byte by byte, and for every statement with
hypotheses a state that meets them, with what the statement says of it. -/

namespace Sys2Proof.Tests

open Sys2Proof Sys2Proof.Machine

set_option Elab.async false

/-! ## WellFormed refuses an operand that does not fit its field -/

theorem test_wellFormed_accepts :
    [Instr.read .A 15 (2 ^ 40 - 1) 65535 true, .grant .B 15 255, .data .A 0 65535 (List.replicate 512 0) 0, .stop .B 15,
      .targetStatus 31 255 65535 (some (2 ^ 40 - 1)) (2 ^ 40 - 1), .unknownOperation .A 0 0 0 0 false,
      .unknownRequest .B 7 0, .putRegion .A 1 255 7 ⟨true, true⟩ ⟨false, false⟩ 0 0 0].all Instr.wellFormed = true := by
  decide +kernel

theorem test_wellFormed_refuses_frames :
    [Instr.read .A 16 0 1 false, .read .A 0 (2 ^ 40) 1 false, .read .A 0 0 65536 false, .write .A 16 0 1 false,
      .flush .B 16 0 0 false, .size .B 16 0 0 false, .unknownOperation .A 16 9 0 0 false,
      .unknownOperation .A 0 256 0 0 false, .unknownOperation .A 0 1 0 0 false, .unknownOperation .A 0 4 0 0 false,
      .grant .A 16 1, .grant .A 0 256, .data .A 16 0 (List.replicate 512 0) 0, .data .A 0 65536 (List.replicate 512 0) 0,
      .data .A 0 0 [] 0, .data .A 0 0 (List.replicate 513 0) 0, .stop .A 16, .targetStatus 256 0 0 none 0,
      .targetStatus 0 256 0 none 0, .targetStatus 0 0 65536 none 0, .targetStatus 0 0 0 (some (2 ^ 40)) 0,
      .targetStatus 0 0 0 none (2 ^ 40), .targetGrant 256 1, .targetGrant 0 256, .targetData 256 0 (List.replicate 512 0) 0,
      .targetData 0 65536 (List.replicate 512 0) 0, .targetData 0 0 [] 0].all (fun i => !i.wellFormed) = true := by
  decide +kernel

theorem test_wellFormed_refuses_events :
    [Instr.deferredArrivalBecomesRecord .A 16, .orphanLeaves .A 16, .relocationClaimGrant (2 ^ 37), .linkSizeComplete 256 0,
      .linkSizeComplete 0 (2 ^ 40), .dataWaitExpiry .A 16, .targetOperationTimeout 32, .stopWaitExpiry 32].all
      (fun i => !i.wellFormed) = true := by
  decide +kernel

theorem test_wellFormed_refuses_requests :
    [Instr.putRegion .A 1 256 0 ⟨true, true⟩ ⟨true, true⟩ 0 8 0, .putRegion .A 1 0 8 ⟨true, true⟩ ⟨true, true⟩ 0 8 0,
      .putRegion .A 1 0 0 ⟨true, true⟩ ⟨true, true⟩ (2 ^ 40) 8 0, .putRegion .A 1 0 0 ⟨true, true⟩ ⟨true, true⟩ 0 (2 ^ 40) 0,
      .putRegion .A 1 0 0 ⟨true, true⟩ ⟨true, true⟩ 0 8 (2 ^ 40), .clearRegion .A 1 256, .setCapacity .A 1 (2 ^ 40),
      .setLayout .A 1 ⟨2 ^ 40, 64, 0, 64, 0, 0, 0⟩, .setLayout .A 1 ⟨0, 65536, 0, 64, 0, 0, 0⟩,
      .setLayout .A 1 ⟨0, 64, 2 ^ 40, 64, 0, 0, 0⟩, .setLayout .A 1 ⟨0, 64, 0, 65536, 0, 0, 0⟩,
      .setLayout .A 1 ⟨0, 64, 0, 64, 2 ^ 40, 0, 0⟩, .setLayout .A 1 ⟨0, 64, 0, 64, 0, 2 ^ 40, 0⟩,
      .setLayout .A 1 ⟨0, 64, 0, 64, 0, 0, 65536⟩, .merge .A 1 256, .discard .A 1 256, .queryRegion .A 1 256 0,
      .queryRegion .A 1 0 256, .queryOverlay .A 1 (2 ^ 40), .queryRetired .A 1 65536, .unknownRequest .A 1 256,
      .unknownRequest .A 1 0x40].all (fun i => !i.wellFormed) = true := by
  decide +kernel

/-! ## Frames written out byte by byte (11.1, R184) -/

theorem test_checks_of_the_nine_digits :
    headerCheck [0x31, 0x32, 0x33, 0x34, 0x35, 0x36, 0x37, 0x38, 0x39] = 0x29B1 ∧
      blockCheck [0x31, 0x32, 0x33, 0x34, 0x35, 0x36, 0x37, 0x38, 0x39] = 0xCBF43926 := by decide +kernel

theorem test_decode_read : decodeHostFrame .A
    [0x01, 0x03, 0x01, 0x01, 0x10, 0x00, 0x00, 0x00, 0x00, 0x08, 0x00, 0x00, 0x00, 0x00, 0x29, 0x50] =
    .read .A 3 16 8 true := by decide +kernel

theorem test_decode_write : decodeHostFrame .B
    [0x01, 0x0F, 0x02, 0x00, 0xF8, 0xFF, 0xFF, 0xFF, 0xFF, 0x04, 0x01, 0x00, 0x00, 0x00, 0x43, 0x72] =
    .write .B 15 (2 ^ 40 - 8) 260 false := by decide +kernel

theorem test_decode_flush : decodeHostFrame .A
    [0x01, 0x00, 0x03, 0x00, 0x00, 0x00, 0x00, 0x00, 0x00, 0x00, 0x00, 0x00, 0x00, 0x00, 0x94, 0xD7] =
    .flush .A 0 0 0 false := by decide +kernel

theorem test_decode_size : decodeHostFrame .A
    [0x01, 0x01, 0x04, 0x00, 0x00, 0x00, 0x00, 0x00, 0x00, 0x00, 0x00, 0x00, 0x00, 0x00, 0xBC, 0x9A] =
    .size .A 1 0 0 false := by decide +kernel

theorem test_decode_unknown_operation : decodeHostFrame .A
    [0x01, 0x01, 0x09, 0x00, 0x00, 0x00, 0x00, 0x00, 0x00, 0x00, 0x00, 0x00, 0x00, 0x00, 0xB5, 0x8F] =
    .unknownOperation .A 1 9 0 0 false := by decide +kernel

theorem test_decode_tag_out_of_range_is_discarded : decodeHostFrame .A
    [0x01, 0x10, 0x04, 0x00, 0x00, 0x00, 0x00, 0x00, 0x00, 0x00, 0x00, 0x00, 0x00, 0x00, 0x6B, 0xC9] =
    .discardedFrame (.host .A)
      [0x01, 0x10, 0x04, 0x00, 0x00, 0x00, 0x00, 0x00, 0x00, 0x00, 0x00, 0x00, 0x00, 0x00, 0x6B, 0xC9] := by
  decide +kernel

theorem test_decode_bad_check_is_discarded : decodeHostFrame .A [0x05, 0x07, 0x1D, 0x93] =
    .discardedFrame (.host .A) [0x05, 0x07, 0x1D, 0x93] ∧
    decodeTargetFrame [0x05, 0x07, 0x1D, 0x92] = .discardedFrame .target [0x05, 0x07, 0x1D, 0x92] := by decide +kernel

theorem test_decode_short_frames :
    decodeHostFrame .B [0x02, 0x05, 0x10, 0x00, 0x00, 0x00, 0xA0, 0xBD] = .grant .B 5 16 ∧
      decodeHostFrame .A [0x05, 0x07, 0x1D, 0x92] = .stop .A 7 ∧
      decodeHostFrame .A [0x06, 0x00, 0xA9, 0xB7] = .linkreset .A ∧
      decodeTargetFrame [0x07, 0x00, 0x98, 0x84] = .targetResetDone ∧
      decodeTargetFrame [0x02, 0x05, 0x10, 0x00, 0x00, 0x00, 0xA0, 0xBD] = .targetGrant 5 16 := by decide +kernel

theorem test_decode_target_status :
    decodeTargetFrame [0x04, 0x1F, 0x0C, 0x03, 0x02, 0x00, 0x34, 0x12, 0x00, 0x00, 0x00, 0x00, 0x00, 0x00, 0x00, 0x00,
        0x00, 0x00, 0xA9, 0x7B] = .targetStatus 31 0x0C 2 (some 0x1234) 0 ∧
      decodeTargetFrame [0x04, 0x1F, 0x0C, 0x01, 0x02, 0x00, 0x34, 0x12, 0x00, 0x00, 0x00, 0x09, 0x00, 0x00, 0x00, 0x00,
        0x00, 0x00, 0xBC, 0x1D] = .targetStatus 31 0x0C 2 none 9 := by decide +kernel

/-! ## A small mounted part -/

/-- A layout: 64 slots, a journal of 64 blocks, low-water mark 2. -/
def lay : Layout :=
  { overlayBase := 64, slots := 64, journalBase := 600, journalLen := 64, ckA := 700, ckB := 1300, lowWater := 2 }

/-- Both ports. -/
def both : PortSet := ⟨true, true⟩

/-- Region 0 PASS, region 1 OVERLAY, region 2 KEEP, region 3 PASS for port A alone, region 4 DENY. -/
def map0 : RegionMap :=
  { regions := [⟨true, .pass, both, both, 0, 128, 2000⟩, ⟨true, .overlay, both, both, 128, 64, 2200⟩,
      ⟨true, .keep, both, both, 192, 64, 2400⟩, ⟨true, .pass, ⟨true, false⟩, ⟨false, false⟩, 256, 8, 2600⟩,
      ⟨true, .deny, both, both, 264, 8, 2608⟩] ++ List.replicate 27 Region.unused, cap := 512 }

/-- A mounted part with an empty overlay. -/
def base : State :=
  { State.reset with
    map := { MapUnit.reset with active := map0, layout := some lay, formatId := 1, anchorGen := 1, anchorCopy := some 0 },
    ov := { OverlayUnit.reset with slots := 64, ring := List.range 64, armed := true },
    te := { TransferEngine.reset with link := .up, capacity := some 4096, resetWait := false },
    mnt := { MountUnit.reset with dev := .ready, stage := .idle }, outT := [] }

/-- The state a command leaves. -/
def after (c : Instr) (s : State) : State :=
  match exec c s with
  | .next t => t
  | _ => s

/-- The state a row of commands leaves. -/
def afterAll (cs : List Instr) (s : State) : State := cs.foldl (fun t c => after c t) s

/-- Whether a command answers one given next state. -/
def gives (c : Instr) (s t : State) : Bool :=
  match exec c s with
  | .next u => decide (u = t)
  | _ => false

/-- A record of tag 3 of port A. -/
def a3 : CmdId := ⟨.A, 3⟩

/-- The mounted part with one record on an OPEN tag. -/
def withRec (r : Record) (t : Tag) (s : State) : State :=
  { s.setTag r.id t with
    adm := AdmissionUnit.setQueue { s.adm with records := s.adm.records ++ [r] } r.id.port
      (s.adm.queue r.id.port ++ if r.state = .waiting then [r.id.tag] else []) }

/-- An OPEN tag. -/
def openTag (granted moved : Nat) : Tag := ⟨true, granted, moved, moved⟩

theorem test_base_is_valid : mapFault map0 (some lay) 4096 = none ∧ layoutValid lay 4096 = true := by decide +kernel

/-! ## The queue and the host commands -/

theorem test_step_of_a_waiting_command :
    (∃ s : State, s.pending = [.admission] ∧ ({ s with pending := [] } : State) = base) ∧ base.pending = [] :=
  ⟨⟨{ base with pending := [.admission] }, rfl, by decide +kernel⟩, rfl⟩

theorem test_device_reset_keeps_the_hold_value :
    (after (.deviceReset true) base).map.hold = true ∧ (after (.deviceReset false) base).mnt.stage = .link := by
  decide +kernel

/-- DiscardedFramesChangeNothing: a frame whose header check fails. -/
theorem test_bad_header : headerGood [0x05, 0x07, 0x1D, 0x93] = false := by decide +kernel

/-- A WAITING READ of blocks 8 and 9, and the same record admitted on the REGION path. -/
def rWait : Record := waitingRecord a3 .read 8 2 false
def rRead : Record :=
  { rWait with state := .active, path := some .region, region := some ⟨0, .pass, .base⟩,
               plan := [⟨.base, 8, 2, 2008, .done, 2, [[1], [2]]⟩] }
/-- An ACTIVE WRITE of blocks 8 and 9 whose piece gathers its blocks. -/
def rWrite : Record :=
  { waitingRecord a3 .write 8 2 false with
    state := .active, path := some .region, region := some ⟨0, .pass, .base⟩,
    plan := [⟨.base, 8, 2, 2008, .filling, 2, []⟩] }
/-- An ORPHANED WRITE with nothing left to end. -/
def rOrphan : Record := { rWrite with state := .orphaned, plan := [⟨.base, 8, 2, 2008, .done, 0, []⟩] }
/-- An ACTIVE READ whose piece is issued. -/
def rIssued : Record := { rRead with plan := [⟨.base, 8, 2, 2008, .issued, 2, []⟩] }

/-- CmdCreatesRecordOrDeferredArrival, with the first and the last tag. -/
theorem test_cmd_on_a_free_tag :
    (base.hp .A).condition = .up ∧ (base.tag ⟨.A, 15⟩).isOpen = false ∧ base.rec? ⟨.A, 15⟩ = none ∧
      (after (.read .A 15 8 2 false) base).adm.queueA = [15] ∧
      (let s := withRec rOrphan Tag.free base
       (s.tag a3).isOpen = false ∧ (s.rec? a3).isSome = true ∧
         (after (.size .A 3 0 0 false) s).adm.deferred = [⟨a3, .size, 0, 0, false⟩]) := by decide +kernel

/-- CmdOnBusyTagEndsItProtocol: a record that leaves, and one that stays as an orphan. -/
theorem test_cmd_on_a_busy_tag :
    (let s := withRec rWait (openTag 0 0) base
     (s.tag a3).isOpen = true ∧ s.deferred? a3 = none ∧ s.rec? a3 = some rWait ∧
       (after (.read .A 3 8 2 false) s).rec? a3 = none) ∧
      (let s := withRec rIssued (openTag 0 0) base
       (s.tag a3).isOpen = true ∧ s.rec? a3 = some rIssued ∧ rIssued.plan.any Piece.isPending = true ∧
         (after (.read .A 3 8 2 false) s).outA = [.status 3 .protocol 0 none 0 false] ∧
         ((after (.read .A 3 8 2 false) s).rec? a3).map (·.state) = some .orphaned) := by decide +kernel

/-- The mounted part with port A RESETTING. -/
def resettingA (s : State) : State := s.setHp .A { s.hp .A with condition := .resetting }

/-- DiscardedFramesChangeNothing: a RESETTING port. -/
theorem test_resetting_port : ((resettingA base).hp .A).condition = .resetting ∧
    gives (.stop .A 3) (resettingA base) (resettingA base) = true := by decide +kernel

/-- GrantIsCountedOrEndsTheTag, at the greatest GRANT and the full window, under a wind-down, and at each bad count. -/
theorem test_grant :
    (let r := waitingRecord a3 .read 8 64 false
     let s := withRec r (openTag 48 0) base
     (s.hp .A).condition = .up ∧ (s.tag a3).isOpen = true ∧ s.deferred? a3 = none ∧ s.rec? a3 = some r ∧
       s.te.link ≠ .down ∧ (s.tag a3).granted + 16 ≤ r.count ∧ (s.tag a3).granted + 16 - (s.tag a3).moved ≤ 64 ∧
       gives (.grant .A 3 16) s (s.setTag a3 (openTag 64 0)) = true ∧
       (after (.grant .A 3 17) s).outA = [.status 3 .protocol 0 none 0 false] ∧
       (after (.grant .A 3 0) s).outA = [.status 3 .protocol 0 none 0 false]) ∧
      (let r := waitingRecord a3 .read 8 100 false
       let s := withRec r (openTag 64 0) base
       s.rec? a3 = some r ∧ 64 < (s.tag a3).granted + 1 - (s.tag a3).moved ∧
         (after (.grant .A 3 1) s).outA = [.status 3 .protocol 0 none 0 false]) ∧
      (let s := withRec rWait (openTag 2 0) base
       s.rec? a3 = some rWait ∧ rWait.count < (s.tag a3).granted + 1 ∧
         (after (.grant .A 3 1) s).outA = [.status 3 .protocol 0 none 0 false]) ∧
      (let r := { rIssued with winding := true }
       let s := withRec r (openTag 0 0) base
       s.rec? a3 = some r ∧ gives (.grant .A 3 1) s s = true) ∧
      (let s := withRec rWrite (openTag 2 0) base
       s.rec? a3 = some rWrite ∧ rWrite.op ≠ .read ∧
         (after (.grant .A 3 1) s).outA = [.status 3 .protocol 0 none 0 false]) := by decide +kernel

/-- ReadEndsWithItsLastBlock. -/
theorem test_last_block_of_a_read :
    let s := withRec rRead (openTag 1 1) base
    s.rec? a3 = some rRead ∧ (s.tag a3).granted = (s.tag a3).moved ∧ (s.tag a3).moved + 1 = rRead.count ∧
      rRead.readyBlock (s.tag a3).moved = some [2] ∧ (s.tag a3).isOpen = true ∧ s.deferred? a3 = none ∧
      (after (.grant .A 3 1) s).outA = [.data 3 1 [2], .status 3 .ok 2 none 0 false] ∧
      (after (.grant .A 3 1) s).rec? a3 = none := by decide +kernel

/-- DataFillsItsPiece: a block in the middle, and the block that fills a BASE piece and a SLOT piece. -/
theorem test_data_fills_its_piece :
    (let s := withRec rWrite (openTag 2 0) base
     s.rec? a3 = some rWrite ∧ claimedBlocks rWrite.plan = (s.tag a3).granted ∧ (s.tag a3).next = 0 ∧
       (rWrite.plan.findIdx? fun q => decide (q.state = .filling) &&
         decide (q.first ≤ rWrite.first + 0 ∧ rWrite.first + 0 < q.first + q.count)) = some 0 ∧
       ((after (.data .A 3 0 [1] (blockCheck [1])) s).rec? a3).map (·.plan) =
         some [⟨.base, 8, 2, 2008, .filling, 2, [[1]]⟩]) ∧
      (let r := { rWrite with plan := [⟨.base, 8, 2, 2008, .filling, 2, [[1]]⟩] }
       let s := withRec r (openTag 2 1) base
       s.rec? a3 = some r ∧ claimedBlocks r.plan = (s.tag a3).granted ∧
         ((after (.data .A 3 1 [2] (blockCheck [2])) s).rec? a3).map (·.plan) =
           some [⟨.base, 8, 2, 2008, .ready, 2, [[1], [2]]⟩] ∧
         (after (.data .A 3 1 [2] (blockCheck [2])) s).te.hostAQ =
           [newRequest (.host .A) (.piece a3 0) .write 2008 2 false [[1], [2]]]) ∧
      (let r := { waitingRecord a3 .write 136 1 false with
                  state := .active, path := some .region, region := some ⟨1, .overlay, .overlay⟩,
                  plan := [⟨.slot 5, 136, 1, 104, .filling, 1, []⟩] }
       let s := withRec r (openTag 1 0) base
       s.rec? a3 = some r ∧ s.outOfService 5 = false ∧
         (after (.data .A 3 0 [2] (blockCheck [2])) s).te.hostAQ =
           [newRequest (.host .A) (.piece a3 0) .write 104 1 true [[2]]]) := by decide +kernel

/-- WindDownWithNothingIssuedEndsAtOnce: a DATA check that fails, the data wait of a WRITE, and STOP. -/
theorem test_wind_down_with_nothing_issued :
    let s := withRec rWrite (openTag 2 0) base
    s.rec? a3 = some rWrite ∧ s.workPending rWrite = false ∧ s.deferred? a3 = none ∧ s.te.link ≠ .down ∧
      blockCheck [1] ≠ 0 ∧ dataWaitRuns rWrite (s.tag a3) = true ∧
      (after (.data .A 3 0 [1] 0) s).outA = [.status 3 .dataCheck 0 none 0 false] ∧
      (after (.dataWaitExpiry .A 3) s).outA = [.status 3 .dataTimeout 0 none 0 false] ∧
      (after (.stop .A 3) s).outA = [.status 3 .stopped 0 none 0 false] ∧
      (after (.stop .A 3) s).rec? a3 = none := by decide +kernel

/-- StopByTheStateOfItsTag, state by state. -/
theorem test_stop_by_the_state_of_its_tag :
    ((base.tag a3).isOpen = false ∧ (after (.stop .A 3) base).outA = [.status 3 .noCommand 0 none 0 false]) ∧
      (let s0 := withRec rOrphan (openTag 0 0) base
       let s := { s0 with adm := { s0.adm with deferred := [⟨a3, .read, 0, 1, false⟩] } }
       (s.tag a3).isOpen = true ∧ (s.deferred? a3).isSome = true ∧
         (after (.stop .A 3) s).outA = [.status 3 .stopped 0 none 0 false] ∧ (after (.stop .A 3) s).adm.deferred = []) ∧
      (let s := withRec rWait (openTag 0 0) base
       s.rec? a3 = some rWait ∧ s.deferred? a3 = none ∧ (after (.stop .A 3) s).rec? a3 = none) ∧
      (let r := { rIssued with state := .held }
       let s := withRec r (openTag 0 0) base
       s.rec? a3 = some r ∧ (after (.stop .A 3) s).rec? a3 = none) ∧
      (let r := { rIssued with state := .stopping }
       let s := withRec r (openTag 0 0) base
       s.rec? a3 = some r ∧ gives (.stop .A 3) s s = true) ∧
      (let r := { rWrite with state := .journalWait }
       let s := withRec r (openTag 2 2) base
       s.rec? a3 = some r ∧ ((after (.stop .A 3) s).rec? a3).map (·.stopNoted) = some true) := by decide +kernel

/-- LinkresetResetsOnePort: with no record left, and with an orphan left. -/
theorem test_linkreset :
    (base.hp .A).condition = .up ∧ (base.adm.records.map (·.id)).Nodup ∧
      (after (.linkreset .A) base).outA = [.resetDone] ∧ (after (.linkreset .A) base).hpA.condition = .up ∧
      (let s := withRec rIssued (openTag 0 0) base
       (s.adm.records.map (·.id)).Nodup ∧ (after (.linkreset .A) s).portRecords .A = [a3] ∧
         (after (.linkreset .A) s).outA = [] ∧ (after (.linkreset .A) s).hpA.condition = .resetting) := by
  decide +kernel

/-- OrphanLeavesAndWhatFollows: RESET_DONE and the late creation as rows. -/
theorem test_reset_done_and_late_creation :
    (let s := resettingA base
     s.portRecords .A = [] ∧ (after (.resetDone .A) s).outA = [.resetDone]) ∧
      (let s := withRec rOrphan Tag.free (resettingA base)
       (s.hp .A).condition = .resetting ∧ s.portRecords .A ≠ [] ∧ gives (.resetDone .A) s s = true) ∧
      (let s := { base with adm := { base.adm with deferred := [⟨a3, .read, 0, 1, false⟩] } }
       s.deferred? a3 = some ⟨a3, .read, 0, 1, false⟩ ∧ s.rec? a3 = none ∧
         (after (.deferredArrivalBecomesRecord .A 3) s).adm.queueA = [3] ∧
         (after (.deferredArrivalBecomesRecord .A 3) s).adm.deferred = []) := by decide +kernel

/-- OrphanLeavesAndWhatFollows: on a port that is UP; as the last record of a RESETTING port; with a deferred arrival. -/
theorem test_orphan_leaves :
    let s := withRec rOrphan Tag.free base
    s.rec? a3 = some rOrphan ∧ s.hasWork (Owner.ofFlush a3) = false ∧ s.isDependant a3 = false ∧
      (∀ x ∈ rOrphan.plan, x.isPending = false ∧ (x.kind = .lost ∨ x.state ≠ .ready)) ∧
      (s.hp .A).condition = .up ∧ (after (.orphanLeaves .A 3) s).rec? a3 = none ∧ (after (.orphanLeaves .A 3) s).outA = [] ∧
      (after (.orphanLeaves .A 3) (resettingA s)).outA = [.resetDone] ∧
      (after (.orphanLeaves .A 3) (resettingA s)).hpA.condition = .up ∧
      (let u := { s with adm := { s.adm with deferred := [⟨a3, .read, 0, 1, true⟩] } }
       (after (.orphanLeaves .A 3) u).rec? a3 = some (waitingRecord a3 .read 0 1 true) ∧
         (after (.orphanLeaves .A 3) u).adm.deferred = []) := by decide +kernel

/-! ## Admission, re-examination, buffers and the arbiter -/

/-- The mounted part with one WAITING record of tag 3 of port A. -/
def waits (op : HostOp) (first count : Nat) (s : State) : State := withRec (waitingRecord a3 op first count false) (openTag 0 0) s

/-- A state taken with one WAITING record: the record is taken, it is refused with `res` and its detail, and the pointer is
at port B. -/
def refusedAt (s : State) (r : Record) (res : Result) (detail : Option Nat) : Bool :=
  decide (s.nextAdmission = some r) && decide ((after .admission s).outA = [.status 3 res 0 detail 0 false]) &&
    decide ((after .admission s).rec? a3 = none) && decide ((after .admission s).adm.next = .B)

/-- The mounted part in a device state. -/
def inDev (d : DevState) (s : State) : State := { s with mnt := { s.mnt with dev := d } }

/-- AdmissionRefusesByTheFirstFailingCheck: each check at a value where it fails and the checks before it pass. -/
theorem test_admission_refuses :
    refusedAt (inDev .offline (waits .read 8 2 base)) (waitingRecord a3 .read 8 2 false) .notReady none = true ∧
      refusedAt (inDev .mounting (waits .size 0 0 base)) (waitingRecord a3 .size 0 0 false) .notReady none = true ∧
      refusedAt (waits .read 8 0 base) (waitingRecord a3 .read 8 0 false) .invalid none = true ∧
      refusedAt (waits .write 8 257 base) (waitingRecord a3 .write 8 257 false) .invalid none = true ∧
      refusedAt (waits (.unknown 9) 8 2 base) (waitingRecord a3 (.unknown 9) 8 2 false) .invalid none = true ∧
      rangeTouchesWindow (2 ^ 40 - 5) 2 = true ∧
      refusedAt (waits .read (2 ^ 40 - 5) 2 base) (waitingRecord a3 .read (2 ^ 40 - 5) 2 false) .windowMisuse none = true ∧
      refusedAt (waits .read (2 ^ 40 - 4) 1 base) (waitingRecord a3 .read (2 ^ 40 - 4) 1 false) .windowMisuse none = true ∧
      refusedAt (waits .write (2 ^ 40 - 4) 2 base) (waitingRecord a3 .write (2 ^ 40 - 4) 2 false) .windowMisuse none = true ∧
      offending map0 126 4 = some 128 ∧
      refusedAt (waits .read 126 4 base) (waitingRecord a3 .read 126 4 false) .address (some 128) = true ∧
      refusedAt (waits .read 272 1 base) (waitingRecord a3 .read 272 1 false) .address (some 272) = true ∧
      refusedAt (waits .write 256 8 base) (waitingRecord a3 .write 256 8 false) .writeProtected none = true ∧
      refusedAt (waits .read 264 8 base) (waitingRecord a3 .read 264 8 false) .denied none = true := by decide +kernel

/-- AdmissionOfSizeAndFlush. -/
theorem test_admission_of_size_and_flush :
    (let s := waits .size 0 0 base
     s.nextAdmission = some (waitingRecord a3 .size 0 0 false) ∧ s.te.link ≠ .down ∧
       stateAllows s.mnt.dev (waitingRecord a3 .size 0 0 false) = true ∧
       (after .admission s).outA = [.status 3 .ok 0 none 512 false]) ∧
      (let s := waits .flush 0 0 base
       s.nextAdmission = some (waitingRecord a3 .flush 0 0 false) ∧
         stateAllows s.mnt.dev (waitingRecord a3 .flush 0 0 false) = true ∧
         (after .admission s).te.hostAQ = [newRequest (.host .A) (.flush a3) .flush 0 0 false []] ∧
         ((after .admission s).rec? a3).map (·.state) = some .active) := by decide +kernel

/-- AdmissionHoldsOrStartsARead: behind a relocation claim of its grain, and alone. -/
theorem test_admission_of_a_read :
    (let s0 := waits .read 8 2 base
     let s := { s0 with adm := { s0.adm with order := [⟨.merge 1, true⟩] } }
     s.nextAdmission = some (waitingRecord a3 .read 8 2 false) ∧
       (s.adm.order.any fun x => match s.claimAt x.ref with
          | some e => claimsConflict e ⟨8, 2, false, s.borrowed a3⟩
          | none => false) = true ∧
       ((after .admission s).rec? a3).map (·.state) = some .held ∧
       (after .admission s).adm.order = [⟨.merge 1, true⟩, ⟨.cmd a3, false⟩]) ∧
      (let s := waits .read 8 2 base
       s.nextAdmission = some (waitingRecord a3 .read 8 2 false) ∧ rangeTouchesWindow 8 2 = false ∧
         offending s.map.active 8 2 = none ∧ s.map.active.lookup 8 = some 0 ∧
         accessDecision (s.viewOf 0).policy false .A (s.map.active.region 0) (s.map.unavailable.getD 0 false) s.jrn.cond = none ∧
         (∀ x ∈ s.adm.order, x.ref ≠ .cmd a3) ∧ (s.tag a3).moved = 0 ∧ (s.viewOf 0).source = .base ∧
         ((after .admission s).rec? a3).map (·.plan) = some [⟨.base, 8, 2, 2008, .planned, 0, []⟩] ∧
         (after .admission s).pool.claimsA = [⟨.piece a3 0, 2⟩]) := by decide +kernel

/-- ReexaminationStartsWhatNothingHolds. -/
theorem test_reexamination :
    base.firstStartable = none ∧
      (let s0 := withRec rRead (openTag 0 0) base
       let s := { s0 with adm := { s0.adm with order := [⟨.cmd a3, true⟩, ⟨.merge 9, false⟩] } }
       s.placeHeld ⟨.cmd a3, true⟩ = false ∧ s.heldBy [⟨.cmd a3, true⟩] (.merge 9) = false ∧
         (after .heldClaimStart s).adm.order = [⟨.cmd a3, true⟩, ⟨.merge 9, true⟩]) := by decide +kernel

/-- BufferClaimIsMetWholeOrWaits, at the quota and one block above it. -/
theorem test_buffer_claim :
    let r : Record := { rRead with plan := [⟨.base, 8, 2, 2008, .planned, 0, []⟩] }
    let s0 := withRec r (openTag 0 0) base
    let s := { s0 with pool := { s0.pool with claimsA := [⟨.piece a3 0, 2⟩], chargeA := 110 } }
    let u := { s0 with pool := { s0.pool with claimsA := [⟨.piece a3 0, 2⟩], chargeA := 111 } }
    s.pool.charge (.host .A) + 2 ≤ quotaOf (.host .A) ∧ quotaOf (.host .A) < u.pool.charge (.host .A) + 2 ∧
      s.rec? a3 = some r ∧ (after (.bufferClaimMet (.host .A)) s).pool.chargeA = 112 ∧
      ((after (.bufferClaimMet (.host .A)) s).rec? a3).map (·.plan) = some [⟨.base, 8, 2, 2008, .ready, 2, []⟩] ∧
      gives (.bufferClaimMet (.host .A)) u u = true := by decide +kernel

/-- A host read request and an operation of a tag. -/
def readReq (i : Nat) : Request := newRequest (.host .A) (.piece a3 i) .read 2008 2 false []
def writeReq : Request := newRequest (.host .A) (.piece a3 0) .write 2008 2 false [[1], [2]]
def opOf (tag : Nat) (r : Request) : TargetOp := { tag := tag, req := r, granted := 0, moved := 0, got := [], stop := none }

/-- The mounted part with target operations in flight. -/
def withOps (ops : List TargetOp) (s : State) : State := { s with te := { s.te with ops := ops } }

/-- A journal block write. -/
def blockReq : Request := newRequest .journal .journal .write 600 1 true [[7]]

/-- ArbiterGrantsTheLowestFreeTag: no grant while the link is not UP, the journal first, then the host port named. -/
theorem test_arbiter :
    (let s := { base with te := { base.te with link := .resetting, hostAQ := [readReq 0] } }
     s.te.link ≠ .up ∧ gives .targetTagGrant s s = true) ∧
      (let s := withOps [opOf 0 (readReq 0)] { base with te := { base.te with journalQ := [blockReq], hostAQ := [readReq 1] } }
       (∀ o ∈ s.te.ops, o.tag ≠ 1) ∧ (∃ o ∈ s.te.ops, o.tag = 0) ∧ (s.oldest .background) = none ∧
         s.withinCap blockReq = true ∧ (after .targetTagGrant s).te.journalQ = [] ∧
         (after .targetTagGrant s).outT = [.cmd 1 .write 600 1 true]) ∧
      (let s := withRec rIssued (openTag 0 0) { base with te := { base.te with hostAQ := [readReq 0] } }
       s.te.journalQ = [] ∧ s.te.recoveryQ = [] ∧ s.te.queue (.host s.te.hostPtr) = [readReq 0] ∧
         s.withinCap (readReq 0) = true ∧ (after .targetTagGrant s).te.hostPtr = .B ∧
         (after .targetTagGrant s).outT = [.cmd 0 .read 2008 2 false, .grant 0 2]) := by decide +kernel

/-- TargetStatusEndsItsOperation: an unknown tag, NOT_READY at the last retry, and the write that ends a WRITE. -/
theorem test_target_status :
    (base.op? 7 = none ∧ gives (.targetStatus 7 0 0 none 0) base base = true) ∧
      (let r := { readReq 0 with notReady := 19 }
       let s := withOps [opOf 7 r] base
       s.op? 7 = some (opOf 7 r) ∧ r.notReady < 20 ∧
         (after (.targetStatus 7 5 0 none 0) s).te.intervals = [{ r with cls := .recovery, notReady := 20 }]) ∧
      (let r := { rWrite with plan := [⟨.base, 8, 2, 2008, .issued, 2, [[1], [2]]⟩] }
       let o := { opOf 7 writeReq with granted := 2, moved := 2 }
       let s := withOps [o] (withRec r (openTag 2 2) base)
       s.op? 7 = some o ∧ s.rec? a3 = some r ∧ o.moved = o.req.count ∧ s.handOffWaits (.piece a3) = false ∧
         s.isDependant a3 = false ∧ s.hasWork (Owner.ofFlush a3) = false ∧
         (after (.targetStatus 7 0 2 none 0) s).outA = [.status 3 .ok 2 none 0 false] ∧
         (after (.targetStatus 7 0 2 none 0) s).rec? a3 = none) := by decide +kernel

/-- The mounted part with one entry of region 1. -/
def withEntry (e : Entry) (s : State) : State := { s with ov := { s.ov with table := [e] } }

/-- The mounted part with slot 5 reserved for grain 17 by the record of tag 3. -/
def reserved5 (s : State) : State :=
  { s with ov := { s.ov with ring := s.ov.ring.filter (fun n => decide (n ≠ 5)), reservations := [⟨17, 5, a3, []⟩] } }

/-- SlotWritesBindAndFaultsMarkLost: the first write of a grain, and each end of a lost marking. -/
theorem test_slot_write_and_lost_marking :
    (let r := { waitingRecord a3 .write 136 1 false with
                state := .active, path := some .region, region := some ⟨1, .overlay, .overlay⟩,
                plan := [⟨.slot 5, 136, 1, 104, .issued, 1, [[2]]⟩] }
     let q := newRequest (.host .A) (.piece a3 0) .write 104 1 true [[2]]
     let o := { opOf 7 q with granted := 1, moved := 1 }
     let s := withOps [o] (withRec r (openTag 1 1) (reserved5 base))
     s.op? 7 = some o ∧ s.rec? a3 = some r ∧ s.outOfService 5 = false ∧ s.entry? 17 = none ∧ s.journaled 1 = false ∧
       (s.ov.reservations.map (·.grain)).Nodup ∧ (s.reservation? 17).map (·.slot) = some 5 ∧ grainPart 17 136 1 ≠ 0 ∧
       (s.hp .A).condition = .up ∧ s.deferred? a3 = none ∧ (after (.targetStatus 7 0 1 none 0) s).ov.reservations = [] ∧
       s.handOffWaits (.piece a3) = false ∧ s.isDependant a3 = false ∧
       (after (.targetStatus 7 0 1 none 0) s).ov.table = [⟨17, 1, some 5, 1, 0, .resident⟩] ∧
       (after (.targetStatus 7 0 1 none 0) s).outA = [.status 3 .ok 1 none 0 false]) ∧
      (let e : Entry := ⟨17, 1, some 5, 3, 4, .resident⟩
       let s := withEntry e base
       s.entry? 17 = some e ∧ e.present &&& 8 = 0 ∧ (markLost 17 8 s).1.2 = none ∧
         e.present &&& 1 ≠ 0 ∧ maskLess e.present (e.present &&& 1) ≠ 0 ∧
         (markLost 17 1 s).2.ov.table = [⟨17, 1, some 5, 2, 5, .resident⟩] ∧
         maskLess e.present (e.present &&& 3) = 0 ∧ (markLost 17 3 s).2.ov.table = [⟨17, 1, none, 0, 7, .resident⟩] ∧
         (markLost 17 3 s).2.ov.retired = [5]) := by decide +kernel

/-! ## Relocation, merge, discard, journal, drain and anchor -/

/-- An entry of region 1 on slot 5 with blocks 0 and 1 of grain 17. -/
def e17 : Entry := ⟨17, 1, some 5, 3, 0, .resident⟩
/-- A relocation of grain 17 at a stage. -/
def rel17 (stage : RelocStage) : Reloc :=
  { grain := 17, region := 1, cause := .readFault, dependants := [], stage := stage, oldSlot := none, newSlot := none,
    attempts := 0, copySet := 0, copied := 0, lost := 0, retired := [], data := [], held := 0, claiming := false,
    failed := false, cut := false, issued := false }

/-- RelocationPlacementTakesTheOldestRequest: none queued, four standing, and one placed. -/
theorem test_relocation_placement :
    (∀ r ∈ base.te.relocs, r.stage ≠ .queued) ∧
      (let four := [1, 2, 3, 4].map fun g => { rel17 .held with grain := g }
       let s := { base with te := { base.te with relocs := four ++ [rel17 .queued] } }
       4 ≤ s.relocClaims ∧ gives .relocationPlacement s s = true) ∧
      (let s := { base with te := { base.te with relocs := [rel17 .queued] } }
       s.relocClaims < 4 ∧ (s.te.relocs.find? fun x => decide (x.stage = .queued)) = some (rel17 .queued) ∧
         (after .relocationPlacement s).te.relocs = [rel17 .held] ∧
         (after .relocationPlacement s).adm.order = [⟨.reloc 17, true⟩]) := by decide +kernel

/-- RelocationBeginsItsCopy. -/
theorem test_relocation_begins :
    let s0 := withEntry e17 { base with te := { base.te with relocs := [rel17 .held] } }
    let s := { s0 with adm := { s0.adm with order := [⟨.reloc 17, true⟩] } }
    s.reloc? 17 = some (rel17 .held) ∧ s.claimGranted (.reloc 17) = true ∧ s.ov.ring = 0 :: (List.range 64).tail ∧
      s.entry? 17 = some e17 ∧ maskLess e17.present (s.dependantMask (rel17 .held)) ≠ 0 ∧
      ((after (.relocationClaimGrant 17) s).reloc? 17).map (fun r => (r.stage, r.oldSlot, r.newSlot, r.attempts, r.copySet)) =
        some (.copying, some 5, some 0, 1, 3) ∧
      ((after (.relocationClaimGrant 17) s).entry? 17).map (·.state) = some .moving ∧
      (after (.relocationClaimGrant 17) s).pool.claimsI = [⟨.reloc 17, 2⟩] := by decide +kernel

/-- RelocationBeginsItsCopy: an entry that names no slot becomes MOVING, and the waiting write is requested at once. -/
theorem test_relocation_begins_without_a_slot :
    let e := { e17 with slot := none, present := 0, lost := 3 }
    let q : Piece := ⟨.slot 5, 138, 2, 106, .handed, 2, [[2], [3]]⟩
    let x := { rWrite with first := 138, count := 2, region := some ⟨1, .overlay, .overlay⟩, plan := [q] }
    let r := { rel17 .held with dependants := [⟨a3, 0⟩] }
    let s0 := withRec x (openTag 2 2) (withEntry e { base with te := { base.te with relocs := [r] } })
    let s := { s0 with adm := { s0.adm with order := [⟨.reloc 17, true⟩] } }
    let t := after (.relocationClaimGrant 17) s
    s.reloc? 17 = some r ∧ s.claimGranted (.reloc 17) = true ∧ s.hasWork (Owner.ofReloc 17) = false ∧
      s.ov.ring = 0 :: (List.range 64).tail ∧ s.entry? 17 = some e ∧ s.dependantMask r = 12 ∧
      maskRuns (s.dependantMask r) = [(2, 2)] ∧
      (t.reloc? 17).map (fun r => (r.stage, r.oldSlot, r.newSlot, r.attempts)) = some (.writing, none, some 0, 1) ∧
      (t.entry? 17).map (·.state) = some .moving ∧
      t.te.recoveryQ.map (fun x => (x.owner, x.op, x.first, x.count)) = [(.relocWrite 17 2, .write, 66, 2)] := by
  decide +kernel

/-- A merge grain that waits for its claim. -/
def waitingGrain : MergeGrain :=
  { stage := .waiting, region := 0, slot := 0, copySet := 0, readSet := 0, data := [], mediaMet := false, lostTold := false,
    held := 0, claiming := false }
/-- The mounted part with a merge run at grain 17. -/
def merging (x : MergeGrain) : State :=
  let s := withEntry e17 base
  { s with mrg := { s.mrg with state := .running, selection := [1, 2], all := true, cursor := 17, grain := some x },
           adm := { s.adm with order := [⟨.merge 17, true⟩] } }

/-- MergeTakesItsGrain. -/
theorem test_merge_takes_its_grain :
    let s := merging waitingGrain
    s.claimGranted (.merge s.mrg.cursor) = true ∧ s.entry? s.mrg.cursor = some e17 ∧
      (s.journaled e17.region && decide (s.jrn.cond = .fault)) = false ∧
      (after .mergeGrainClaimGrant s).ov.table = [{ e17 with state := .merging }] ∧
      (after .mergeGrainClaimGrant s).pool.claimsI = [⟨.merge, 2⟩] := by decide +kernel

/-- DiscardRemovesTheRegionsEntries. -/
theorem test_discard_claim :
    let s0 := withEntry e17 base
    let s := { s0 with mrg := { s0.mrg with discard := some ⟨1, true, some .A, none, 0⟩ },
                       adm := { s0.adm with order := [⟨.discard 1 128 64, true⟩] },
                       mgA := { s0.mgA with inProgress := some 4 } }
    s.mrg.discard = some ⟨1, true, some .A, none, 0⟩ ∧ s.handOffWaits .discard = false ∧ s.journaled 1 = false ∧
      s.ov.condemned = [] ∧ (⟨.discard 1 128 64, true⟩ : Placed) ∈ s.adm.order ∧
      (after .discardClaimGrant s).ov.table = [] ∧ (after .discardClaimGrant s).ov.ring = List.range 64 ++ [5] ∧
      (after .discardClaimGrant s).mgA.response.n3 = 1 ∧ (after .discardClaimGrant s).mgA.inProgress = none := by
  decide +kernel

/-- The mounted part with two slots, a granted discard claim of region `i`, and slot 0 condemned. -/
def granted (i : Nat) (ring : List Nat) (table : List Entry) : State :=
  { base with
    ov := { base.ov with slots := 2, ring := ring, table := table, condemned := [0] },
    mrg := { base.mrg with discard := some ⟨i, true, some .A, none, 0⟩ },
    adm := { base.adm with order := [⟨.discard i (i * 64) 64, true⟩] }, mgA := { base.mgA with inProgress := some 4 } }

/-- Entries of the volatile region 1 and of the KEEP region 2. -/
def volatileEntries : List Entry := [⟨17, 1, some 0, 3, 0, .resident⟩]
def keepEntries : List Entry := [⟨24, 2, some 0, 1, 0, .resident⟩, ⟨25, 2, some 1, 1, 0, .resident⟩]

/-- DiscardRemovesTheRegionsEntries: every slot of the two states below has one place. -/
theorem test_slots_of_a_discard : (granted 1 [1] volatileEntries).slotsOk ∧ (granted 2 [] keepEntries).slotsOk := by
  constructor <;> intro n <;> match n with
    | 0 => decide +kernel
    | 1 => decide +kernel
    | n + 2 => simp [State.placesOf, State.reservedSlots, State.boundSlots, granted, volatileEntries, keepEntries, base,
        OverlayUnit.reset, TransferEngine.reset, State.reset]

/-- DiscardRemovesTheRegionsEntries: a condemned slot of a volatile region, and a KEEP region with one slot condemned. -/
theorem test_discard_claim_of_condemned_slots :
    (let s := granted 1 [1] volatileEntries
     let t := after .discardClaimGrant s
     s.regionSlots 1 = [0] ∧ t.ov.table = [] ∧ t.ov.retired = [0] ∧ t.ov.ring = [1] ∧
       t.mgA.notices.map (·.body) = [.slotRetired 0] ∧ t.mgA.response.n3 = 1 ∧ t.mrg.discard = none ∧
       t.jrn.openBuf.map (·.body) = [.retire 0]) ∧
    (let s := granted 2 [] keepEntries
     let t := after .discardClaimGrant s
     s.journaled 2 = true ∧ s.jrn.waiting = [] ∧ s.jrn.live < s.journalLen ∧ s.jrn.fates = [] ∧ t.ov.table = [] ∧
       t.ov.retired = [0] ∧ t.ov.pendingFree = [⟨1, 0⟩] ∧ t.ov.ring = [] ∧
       t.mrg.discard = some ⟨2, true, some .A, some 0, 2⟩ ∧ t.jrn.openBuf.map (·.body) = [.discard 2, .retire 0] ∧
       t.mgA.inProgress = some 4) := by decide +kernel

/-- A hand-off of `n` records. -/
def recs (n : Nat) : List JRecord := (List.range n).map fun i => ⟨i, .remove i⟩

/-- HandOffsAreTakenOrDropped: nothing waits, the open buffer is filled to its last place, and a drop under FAULT. -/
theorem test_hand_off :
    base.jrn.waiting = [] ∧
      (let s := { base with jrn := { base.jrn with waiting := [⟨.none, recs 1⟩], openBuf := recs 29 } }
       s.jrn.live < s.journalLen ∧ s.jrn.openBuf.length + 1 ≤ 30 ∧
         (after .journalHandoffTaken s).jrn.openBuf = recs 29 ++ recs 1 ∧ (after .journalHandoffTaken s).jrn.waiting = []) ∧
      (let s := { base with jrn := { base.jrn with waiting := [⟨.none, recs 1⟩], cond := .fault } }
       (after .journalHandoffTaken s).jrn.fates = [(0, .dropped)]) := by decide +kernel

/-- The records of two journal states, for the closing of a block: one waited on, and a full buffer at the checkpoint
threshold. -/
theorem test_journal_close :
    base.jrn.openBuf = [] ∧ gives .journalBlockClose base base = true ∧
      (let r := { rWrite with state := .journalWait, latest := some 0 }
       let s0 := withRec r (openTag 2 2) base
       let s := { s0 with jrn := { s0.jrn with openBuf := recs 1, qNext := 46, waiters := [a3] } }
       s.map.layout = some lay ∧ s.jrn.inFlight = none ∧ s.jrn.live < lay.journalLen ∧
         (∃ r ∈ s.jrn.openBuf, s.waitedOn r.id = true) ∧ s.canClose = true) ∧
      (let s := { base with jrn := { base.jrn with openBuf := recs 30, qNext := 47 } }
       s.jrn.openBuf.length = 30 ∧ s.canClose = true ∧ lay.journalLen ≤ s.jrn.qNext + 1 - s.jrn.sCk + 16) := by
  decide +kernel

/-- An activation of a map under which region 1 is gone. -/
def acting (m : RegionMap) (remaining : Nat) : State :=
  { base with
    map := { base.map with
      activation := some ⟨m, .A, some .A, true, remaining, true⟩ },
    mgA := { base.mgA with inProgress := some 4 } }

/-- ActivationEndsWithTheAnchorWrite: a drain still to end, the anchor write, and a region with entries that changes. -/
theorem test_drain_end :
    (let s := acting map0 1
     gives .drainEnd s s = true) ∧
      (let s := acting map0 0
       s.blockedIndex map0 = none ∧ (after .drainEnd s).pool.claimsI = [⟨.anchor, 3⟩]) ∧
      (let s := withEntry e17 (acting (map0.put 1 Region.unused) 0)
       s.blockedIndex (map0.put 1 Region.unused) = some 1 ∧
         (after .drainEnd s).mgA.response.result = some .regionHasOverlay ∧ (after .drainEnd s).map.activation = none) := by
  decide +kernel

/-- ActivationEndsWithTheAnchorWrite: the write ends OK, and MEDIA_ERROR. -/
theorem test_anchor_write :
    let s0 := acting (map0.put 3 Region.unused) 0
    let q := newRequest .journal .anchor .write 3 3 true [[], [], []]
    let o := { opOf 2 q with granted := 3, moved := 3 }
    let s := withOps [o] s0
    s.op? 2 = some o ∧ o.moved = o.req.count ∧
      (after (.targetStatus 2 0 3 none 0) s).map.active = map0.put 3 Region.unused ∧
      (after (.targetStatus 2 0 3 none 0) s).map.anchorGen = 2 ∧
      (after (.targetStatus 2 0 3 none 0) s).map.anchorCopy = some 1 ∧
      (after (.targetStatus 2 0x0C 0 none 0) s).map.active = map0 ∧
      (after (.targetStatus 2 0x0C 0 none 0) s).mgA.response.result = some .anchorFault := by decide +kernel

/-! ## The target port and its link -/

/-- TargetGrantAndDataAreTaken: an unknown tag, a STOP sent, the whole write at once, and each bad count. -/
theorem test_target_grant :
    (base.op? 7 = none ∧ gives (.targetGrant 7 1) base base = true) ∧
      (let s := withOps [{ opOf 7 writeReq with stop := some .timeout }] base
       gives (.targetGrant 7 1) s s = true) ∧
      (let s := withOps [opOf 7 writeReq] base
       s.op? 7 = some (opOf 7 writeReq) ∧ (after (.targetGrant 7 2) s).outT = [.data 7 0 [1], .data 7 1 [2]] ∧
         (after (.targetGrant 7 0) s).outT = [.stop 7] ∧ (after (.targetGrant 7 3) s).outT = [.stop 7]) ∧
      (let q := newRequest (.host .A) (.piece a3 0) .write 2008 17 false (List.replicate 17 [1])
       let s := withOps [opOf 7 q] base
       (after (.targetGrant 7 16) s).te.ops.map (·.moved) = [16] ∧ (after (.targetGrant 7 17) s).outT = [.stop 7]) ∧
      (let s := withOps [opOf 7 (readReq 0)] base
       (after (.targetGrant 7 1) s).te.ops.map (·.stop) = [some .violation]) := by decide +kernel

/-- TargetGrantAndDataAreTaken: a good block, a failed check, a wrong index, an index not granted, and a WRITE. -/
theorem test_target_data :
    let o := { opOf 7 (readReq 0) with granted := 2 }
    let s := withOps [o] base
    s.op? 7 = some o ∧ o.granted = o.req.count ∧
      (after (.targetData 7 0 [9] (blockCheck [9])) s).te.ops = [{ o with moved := 1, got := [[9]] }] ∧
      blockCheck [9] ≠ 0 ∧ (after (.targetData 7 0 [9] 0) s).te.ops = [{ o with stop := some .payload }] ∧
      (after (.targetData 7 1 [9] (blockCheck [9])) s).te.ops = [{ o with stop := some .violation }] ∧
      (let u := withOps [opOf 7 (readReq 0)] base
       (after (.targetData 7 0 [9] (blockCheck [9])) u).te.ops.map (·.stop) = [some .violation]) ∧
      (let u := withOps [opOf 7 writeReq] base
       (after (.targetData 7 0 [9] (blockCheck [9])) u).te.ops.map (·.stop) = [some .violation]) := by decide +kernel

/-- The SIZE of the link. -/
def sizeOp : TargetOp := opOf 0 (newRequest .recovery .link .size 0 0 false [])
/-- The mounted part with its link not UP and the SIZE outstanding or not. -/
def linkAt (l : LinkState) (ops : List TargetOp) : State :=
  { base with te := { base.te with link := l, ops := ops } }

/-- LinkComesUpOrGoesDown: coming up. -/
theorem test_link_comes_up :
    (base.te.link = .up ∧ gives .targetResetDone base base = true) ∧
      (let s := linkAt .resetting [sizeOp]
       s.linkSize?.isSome = true ∧ gives .targetResetDone s s = true) ∧
      (State.reset.te.link ≠ .up ∧ State.reset.linkSize? = none ∧
        (after .targetResetDone State.reset).te.ops = [sizeOp]) ∧
      (let s := { State.reset with te := { State.reset.te with ops := [sizeOp], resetWait := false } }
       s.linkSize? = some sizeOp ∧ s.te.capacity = none ∧ s.mnt.stage = .link ∧
         (after (.linkSizeComplete 0 4096) s).te.capacity = some 4096 ∧
         (after (.linkSizeComplete 0 4096) s).mnt.stage = .anchor 0) ∧
      (let s := linkAt .resetting [sizeOp]
       s.linkSize? = some sizeOp ∧ s.te.capacity = some 4096 ∧ s.mountWaits = false ∧
         (after (.linkSizeComplete 0 4096) s).te.link = .up) := by decide +kernel

/-- LinkComesUpOrGoesDown: going down. -/
theorem test_link_goes_down :
    (let s := linkAt .resetting [sizeOp]
     s.te.capacity = some 4096 ∧ s.te.link = .resetting ∧ s.mountWaits = false ∧ s.te.queued = 0 ∧ s.te.resetDue = false ∧
       s.linkSize? = some sizeOp ∧ (after (.linkSizeComplete 0 4095) s).te.link = .down ∧
       (after (.linkSizeComplete 0 4095) s).mgA.notices.map (·.body) = [.targetDown .capacityChanged] ∧
       (after (.linkSizeComplete 6 4096) s).te.link = .down ∧
       (after (.linkSizeComplete 6 4096) s).mgA.notices.map (·.body) = [.targetDown .sizeFailed] ∧
       (after .sizeWaitExpiry s).mgB.notices.map (·.body) = [.targetDown .sizeFailed]) ∧
      (let s0 := linkAt .resetting []
       let s := { s0 with te := { s0.te with resetWait := true } }
       s.te.resetWait = true ∧ (after .resetDoneWaitExpiry s).mgA.notices.map (·.body) = [.targetDown .noResetDone]) := by
  decide +kernel

/-- TargetTimeoutsRetriesAndRepeats: the timeouts. -/
theorem test_target_timeouts :
    (let s := withOps [opOf 7 (readReq 0)] base
     s.op? 7 = some (opOf 7 (readReq 0)) ∧ (after (.targetOperationTimeout 7) s).outT = [.stop 7]) ∧
      (let s := withOps [{ opOf 7 (readReq 0) with stop := some .timeout }, opOf 8 blockReq] base
       (s.op? 7).map (·.stop) = some (some .timeout) ∧ (after (.stopWaitExpiry 7) s).te.link = .resetting ∧
         (after (.stopWaitExpiry 7) s).te.ops = [] ∧ (after (.stopWaitExpiry 7) s).outT = [.linkreset]) := by decide +kernel

/-- TargetTimeoutsRetriesAndRepeats: retries and repeats. -/
theorem test_retries :
    base.te.intervals = [] ∧
      (let r := { readReq 0 with cls := .recovery, notReady := 1 }
       let s := { base with te := { base.te with intervals := [r] } }
       s.te.link ≠ .down ∧ (after .notReadyRetryInterval s).te.recoveryQ = [r]) ∧
      gives .linkresetRepeat base base = true ∧
      ((linkAt .down []).linkSize? = none ∧ (after .linkresetRepeat (linkAt .down [])).outT = [.linkreset]) ∧
      ((linkAt .down [sizeOp]).linkSize?.isSome = true ∧
        (after .linkresetRepeat (linkAt .down [sizeOp])).te.resetDue = true) := by decide +kernel

/-! ## Management requests -/

theorem test_base_can_post (q : BitVec 16) : (base.mg .A).canPost q :=
  ⟨rfl, fun _ h => Option.noConfusion rfl (heq_of_eq h)⟩

/-- A request of port A is accepted by every state that has the Management Unit and the device state of `base`. -/
theorem test_accepted (s : State) (q : BitVec 16) (h : s.mgA = base.mgA) (m : s.mnt.dev = .ready) : s.accepts .A q :=
  ⟨(show s.mg .A = base.mg .A from h) ▸ test_base_can_post q, Or.inr m⟩

/-- The mounted part whose port A has posted a request with sequence 4. -/
def posted (inProgress : Option (BitVec 16)) : State :=
  { base with mgA := { base.mgA with lastSeq := some 4, inProgress := inProgress } }

/-- RequestsAreJudgedBeforeTheirOwner: busy, a duplicate, the sequences on both sides of the next one, and the wrap. -/
theorem test_sequences :
    (Instr.stage .A 5).request? = some (.A, 5, 1) ∧ ((posted (some 4)).mg .A).inProgress ≠ none ∧
      gives (.stage .A 5) (posted (some 4)) (posted (some 4)) = true ∧
      gives (.stage .A 4) (posted none) (posted none) = true ∧
      (after (.stage .A 3) (posted none)).mgA.response.result = some .sequenceError ∧
      (after (.stage .A 6) (posted none)).mgA.response.result = some .sequenceError ∧
      (after (.stage .A 5) (posted none)).mgA.response.result = some .doneOk ∧
      (let s := { base with mgA := { base.mgA with lastSeq := some 0xFFFF } }
       (after (.stage .A 0) s).mgA.response.result = some .doneOk) := by decide +kernel

/-- RequestsAreJudgedBeforeTheirOwner: before the mount, and an unknown code. -/
theorem test_requests_before_the_mount :
    (after (.stage .A 9) (inDev .mounting base)).mgA.response.result = some .notReady ∧
      (after (.queryJournal .A 9) (inDev .offline base)).mgA.response.result = some .notReady ∧
      (after (.unknownRequest .A 9 0x99) base).mgA.response.result = some .unknownRequest := by decide +kernel

theorem test_requests_before_the_mount_hypotheses (d : DevState) (q : BitVec 16) : ((inDev d base).mg .A).canPost q :=
  test_base_can_post q

/-- The mounted part with a stage claim. -/
def staged (p : Port) (m : RegionMap) : State := { base with map := { base.map with stage := some (p, m) } }

/-- The result of a request of port A. -/
def result (c : Instr) (s : State) : Option Reply := (after c s).mgA.response.result

/-- What the staging statements ask of a state: the request is accepted, and the claim stands with port A, with port B or
with none. -/
theorem test_staging_hypotheses (m : RegionMap) (q : BitVec 16) :
    (staged .A m).accepts .A q ∧ (staged .A m).map.stage = some (.A, m) ∧ (staged .A m).map.activation = none ∧
      (staged .B m).accepts .A q ∧ (staged .B m).map.stage = some (Port.other .A, m) ∧
      (∀ x, (staged .B m).map.stage ≠ some (.A, x)) ∧ base.accepts .A q ∧ (∀ p x, base.map.stage ≠ some (p, x)) :=
  ⟨test_accepted _ q rfl rfl, rfl, rfl, test_accepted _ q rfl rfl, rfl, by intro x h; simp [staged] at h,
    test_accepted _ q rfl rfl, by intro p x h; simp [base, MapUnit.reset] at h⟩

/-- The staging requests, one result for each clause, with the bounds of index, policy, count, alignment and capacity. -/
theorem test_staging_requests :
    result (.stage .A 1) base = some .doneOk ∧ result (.stage .A 1) (staged .B map0) = some .stageHeld ∧
      result (.putRegion .A 1 31 4 both both 0 8 0) base = some .noStage ∧
      result (.putRegion .A 1 32 4 both both 0 8 0) (staged .A map0) = some .badParameter ∧
      result (.putRegion .A 1 31 5 both both 0 8 0) (staged .A map0) = some .badParameter ∧
      result (.putRegion .A 1 31 4 both both 0 7 0) (staged .A map0) = some .mapInvalid ∧
      result (.putRegion .A 1 31 4 both both 1 8 0) (staged .A map0) = some .mapInvalid ∧
      result (.putRegion .A 1 31 4 both both 0 8 0) (staged .A map0) = some .doneOk ∧
      result (.clearRegion .A 1 32) (staged .A map0) = some .badParameter ∧
      result (.clearRegion .A 1 31) (staged .A map0) = some .doneOk ∧ result (.clearRegion .A 1 31) base = some .noStage ∧
      result (.setCapacity .A 1 (2 ^ 40 - 8)) (staged .A map0) = some .doneOk ∧
      result (.setCapacity .A 1 (2 ^ 40)) (staged .A map0) = some .badParameter ∧
      result (.setCapacity .A 1 4) (staged .A map0) = some .badParameter ∧
      result (.unstage .A 1) (staged .A map0) = some .doneOk ∧ (after (.unstage .A 1) (staged .A map0)).map.stage = none ∧
      result (.unstage .A 1) (staged .B map0) = some .noStage := by decide +kernel

/-- ACTIVATE: each refusal with the refusals before it passed, and the start with one record to drain. -/
theorem test_activate :
    result (.activate .A 1) base = some .noStage ∧
      result (.activate .A 1) { staged .A map0 with map := { (staged .A map0).map with hold := true } } = some .held ∧
      result (.activate .A 1) { staged .A map0 with mrg := (merging waitingGrain).mrg } = some .busy ∧
      (let m := { map0 with cap := 264 }
       mapFault m (some lay) 4096 = some (4, .capacity) ∧ result (.activate .A 1) (staged .A m) = some .mapInvalid) ∧
      (let s := withEntry e17 (staged .A (map0.put 1 Region.unused))
       mapFault (map0.put 1 Region.unused) (some lay) 4096 = none ∧
         s.blockedIndex (map0.put 1 Region.unused) = some 1 ∧ result (.activate .A 1) s = some .regionHasOverlay) ∧
      (let s := withRec rRead (openTag 0 0) (staged .A map0)
       s.storeBusy = false ∧ s.blockedIndex map0 = none ∧ s.map.hold = false ∧
         (after (.activate .A 1) s).adm.pause = true ∧
         (after (.activate .A 1) s).map.activation = some ⟨map0, .A, some .A, true, 1, true⟩) := by decide +kernel

/-- A map with one PASS region that leaves room for every layout area. -/
def map1 : RegionMap :=
  { regions := ⟨true, .pass, both, both, 0, 128, 2000⟩ :: List.replicate 31 Region.unused, cap := 128 }

/-- SET_LAYOUT: held, a layout that is not valid, one that covers a region, one in use, a merge run, and the start. -/
theorem test_set_layout :
    (let s := { base with map := { base.map with active := map1 } }
     layoutValid lay 4096 = true ∧ s.layoutInUse .A = false ∧
       (∀ i < 32, (map1.region i).inUse = true → targetRangeOk (map1.region i) (some lay) s.capacity = true) ∧
       ((after (.setLayout .A 1 lay) s).mnt.format).map (·.step) = some 0 ∧
       (after (.setLayout .A 1 lay) s).mgA.response.state = .inProgress ∧
       result (.setLayout .A 1 { lay with slots := 63 }) s = some .badParameter ∧
       layoutValid { lay with ckB := 2000 } 4096 = true ∧
       targetRangeOk (map1.region 0) (some { lay with ckB := 2000 }) s.capacity = false ∧
       result (.setLayout .A 1 { lay with ckB := 2000 }) s = some .badParameter ∧
       result (.setLayout .A 1 lay) { s with map := { s.map with hold := true } } = some .held) ∧
      base.layoutInUse .A = true ∧ result (.setLayout .A 1 lay) base = some .layoutInUse ∧
      result (.setLayout .A 1 lay) { base with mrg := (merging waitingGrain).mrg } = some .layoutInUse ∧
      (let s := { base with map := { base.map with active := map1 }, mrg := (merging waitingGrain).mrg }
       s.layoutInUse .A = false ∧ s.mrg.state ≠ .none ∧ result (.setLayout .A 1 lay) s = some .busy) := by decide +kernel

/-- MERGE: each refusal with the refusals before it passed, a run that ends at once, and a run that starts. -/
theorem test_merge :
    result (.merge .A 1 32) base = some .badParameter ∧
      result (.merge .A 1 0xFF) { base with map := { base.map with hold := true } } = some .held ∧
      result (.merge .A 1 0xFF) { base with map := { base.map with layout := none } } = some .noLayout ∧
      result (.merge .A 1 0xFF) { base with mrg := (merging waitingGrain).mrg } = some .busy ∧
      base.mergeSelection 0 = none ∧ result (.merge .A 1 0) base = some .badParameter ∧
      result (.merge .A 1 0xFF) { base with jrn := { base.jrn with cond := .fault } } = some .journalFault ∧
      base.mergeSelection 0xFF = some [1, 2] ∧ result (.merge .A 1 0xFF) base = some .doneOk ∧
      (after (.merge .A 1 0xFF) base).mrg.state = .none ∧
      (let s := withEntry e17 base
       (s.ov.table.find? fun e => [1].contains e.region && e.slot.isSome) = some e17 ∧
         (after (.merge .A 1 1) s).mrg.state = .running ∧ (after (.merge .A 1 1) s).mrg.cursor = 17 ∧
         (after (.merge .A 1 1) s).adm.order = [⟨.merge 17, true⟩]) := by decide +kernel

/-- HALT_MERGE: no run, a claim that still waits, and a grain under way. -/
theorem test_halt_merge :
    result (.haltMerge .A 1) base = some .doneOk ∧
      (let s0 := merging waitingGrain
       let s := { s0 with adm := { s0.adm with order := [⟨.merge 17, false⟩] } }
       s.claimGranted (.merge s.mrg.cursor) = false ∧ s.mrg.haltOwed = [] ∧ result (.haltMerge .A 1) s = some .doneOk ∧
         (after (.haltMerge .A 1) s).mrg.state = .none ∧ (after (.haltMerge .A 1) s).adm.order = []) ∧
      (let s := merging { waitingGrain with stage := .reading }
       (after (.haltMerge .A 1) s).mrg.state = .halting ∧ (after (.haltMerge .A 1) s).mgA.response.state = .inProgress) := by
  decide +kernel

/-- DISCARD and CHECKPOINT: each refusal with the refusals before it passed, and the start. -/
theorem test_discard_and_checkpoint :
    result (.discard .A 1 32) base = some .badParameter ∧
      result (.discard .A 1 31) { base with map := { base.map with hold := true } } = some .held ∧
      result (.discard .A 1 1) { base with map := { base.map with layout := none } } = some .noLayout ∧
      result (.discard .A 1 1) { base with mrg := (merging waitingGrain).mrg } = some .busy ∧
      result (.discard .A 1 0) base = some .badParameter ∧ result (.discard .A 1 31) base = some .badParameter ∧
      (after (.discard .A 1 1) base).adm.order = [⟨.discard 1 128 64, true⟩] ∧
      result (.checkpoint .A 1) { base with map := { base.map with layout := none } } = some .noLayout ∧
      result (.checkpoint .A 2) { after (.checkpoint .B 1) base with mgA := base.mgA } = some .busy ∧
      base.jrn.run = none ∧ base.mnt.format = none ∧ (after (.checkpoint .A 1) base).pool.claimsI = [⟨.ckBody 0, 1⟩] := by
  decide +kernel

/-- What MERGE, DISCARD, CHECKPOINT, SET_LAYOUT and ACTIVATE ask of a state besides the values above. -/
theorem test_store_request_hypotheses (q : BitVec 16) :
    (withEntry e17 base).accepts .A q ∧ (merging waitingGrain).accepts .A q ∧ (withEntry e17 base).storeBusy = false ∧
      (withEntry e17 base).map.hold = false ∧ (withEntry e17 base).map.layout.isSome = true ∧
      (withRec rRead (openTag 0 0) (staged .A map0)).accepts .A q :=
  ⟨test_accepted _ q rfl rfl, test_accepted _ q rfl rfl, by decide +kernel, rfl, rfl, test_accepted _ q rfl rfl⟩

/-- The queries at the bounds of their parameters. -/
theorem test_queries :
    result (.queryRegion .A 1 32 0) base = some .badParameter ∧ result (.queryRegion .A 1 31 0) base = some .doneOk ∧
      result (.queryRegion .A 1 31 1) base = some .noStage ∧ result (.queryRegion .A 1 31 1) (staged .A map0) = some .doneOk ∧
      result (.queryRegion .A 1 31 2) base = some .badParameter ∧
      result (.queryOverlay .A 1 (2 ^ 37)) base = some .badParameter ∧
      (after (.queryOverlay .A 1 17) (withEntry e17 base)).mgA.response.n3 = 1 ∧
      (after (.queryOverlay .A 1 17) (withEntry e17 base)).mgA.response.items.length = 1 ∧
      (after (.queryOverlay .A 1 (2 ^ 37 - 1)) (withEntry e17 base)).mgA.response.items = [] ∧
      result (.querySlots .A 1) base = some .doneOk ∧ result (.queryRetired .A 1 16385) base = some .badParameter ∧
      result (.queryRetired .A 1 16384) base = some .doneOk ∧ result (.queryJournal .A 1) base = some .doneOk := by
  decide +kernel

/-- ACK_NOTICES: the entries up to the number go, and a number before the first entry removes none. -/
theorem test_ack_notices :
    let s0 := raise .targetUp none (raise (.journalCleared 0) none base)
    let s := { s0 with mgA := { s0.mgA with lastSeq := none } }
    (after (.ackNotices .A 1 1) s).mgA.notices.map (·.number) = [2] ∧ (after (.ackNotices .A 1 1) s).mgA.response.n3 = 1 ∧
      (after (.ackNotices .A 1 0) s).mgA.notices.map (·.number) = [1, 2] ∧
      (after (.ackNotices .A 1 2) s).mgA.notices = [] ∧ (after (.ackNotices .A 1 2) s).mgB.notices.length = 2 := by
  decide +kernel

/-! ## Admission to a region: reservation, holding and start -/

/-- The mounted part with a ring of its lowest `n` slots. -/
def withRing (n : Nat) (s : State) : State := { s with ov := { s.ov with ring := List.range n } }

/-- The mounted part with a granted merge claim of one grain. -/
def claimed (g : Nat) (s : State) : State := { s with adm := { s.adm with order := [⟨.merge g, true⟩] } }

/-- The plan and the state of the record of tag 3. -/
def planOf (s : State) : Option (RecState × List Piece) := (s.rec? a3).map fun r => (r.state, r.plan)

/-- An entry of region 1 whose blocks 0 and 1 are present and whose block 2 is lost. -/
def lost17 : Entry := ⟨17, 1, some 5, 3, 4, .resident⟩

/-- AdmissionRefusesByTheFirstFailingCheck: the last check, at a ring of four slots. -/
theorem test_admission_overlay_full :
    (waits .write 136 1 (withRing 4 base)).reachesRegion (waitingRecord a3 .write 136 1 false) 1 ∧
      ¬ (waits .write 136 1 (withRing 4 base)).roomFor 4 [17] ∧
      refusedAt (waits .write 136 1 (withRing 4 base)) (waitingRecord a3 .write 136 1 false) .overlayFull none = true := by
  unfold State.reachesRegion State.roomFor
  decide +kernel

/-- AdmissionHoldsOrStartsARead: an OVERLAY read of SLOT and BASE blocks, a lost first block, a lost later block. -/
theorem test_admission_of_an_overlay_read :
    (waits .read 136 2 (withEntry lost17 base)).reachesRegion (waitingRecord a3 .read 136 2 false) 1 ∧
      planOf (after .admission (waits .read 135 3 (withEntry lost17 base))) =
        some (.active, [⟨.base, 135, 1, 2207, .planned, 0, []⟩, ⟨.slot 5, 136, 2, 104, .planned, 0, []⟩]) ∧
      (after .admission (waits .read 138 2 (withEntry lost17 base))).outA = [.status 3 .lostData 0 (some 138) 0 false] ∧
      ((after .admission (waits .read 136 4 (withEntry lost17 base))).rec? a3).map (fun r => (r.cut, r.result)) =
        some (some 138, some ⟨.lostData, some 138⟩) := by
  unfold State.reachesRegion
  decide +kernel

/-- AdmissionReservesAndStartsAWrite: PASS and OVERLAY, each held and started, and a ring of five slots. -/
theorem test_admission_of_a_write :
    (waits .write 136 1 (withRing 5 base)).reachesRegion (waitingRecord a3 .write 136 1 false) 1 ∧
      (waits .write 136 1 (withRing 5 base)).roomFor 5 ((waits .write 136 1 (withRing 5 base)).neededBy
        (waitingRecord a3 .write 136 1 false)) ∧
      (claimed 1 (waits .write 8 2 base)).claimAhead (waitingRecord a3 .write 8 2 false) = true ∧
      planOf (after .admission (claimed 1 (waits .write 8 2 base))) = some (.held, []) ∧
      planOf (after .admission (waits .write 8 2 base)) = some (.active, [⟨.base, 8, 2, 2008, .planned, 0, []⟩]) ∧
      planOf (after .admission (claimed 17 (waits .write 136 1 base))) = some (.held, []) ∧
      (after .admission (claimed 17 (waits .write 136 1 base))).ov.reservations = [⟨17, 0, a3, []⟩] ∧
      planOf (after .admission (waits .write 136 1 (withRing 5 base))) =
        some (.active, [⟨.slot 0, 136, 1, 64, .planned, 0, []⟩]) ∧
      (after .admission (waits .write 136 1 (withRing 5 base))).ov.ring = [1, 2, 3, 4] := by
  unfold State.reachesRegion State.roomFor
  decide +kernel

/-- AdmissionReservesAndStartsAWrite, started: each kind of grain in one command. Grain 17 has an entry and a reservation that
the record shares, grain 18 gets a slot, and grain 20 is not of the command. -/
theorem test_admission_settles_every_reservation :
    let s0 := withEntry ⟨17, 1, some 6, 1, 0, .resident⟩ (withRing 5 base)
    let s := waits .write 136 16 { s0 with ov := { s0.ov with
      reservations := [⟨17, 7, ⟨.B, 4⟩, [a3]⟩, ⟨20, 9, ⟨.B, 4⟩, []⟩] } }
    let r := waitingRecord a3 .write 136 16 false
    s.reachesRegion r 1 ∧ s.claimAhead r = false ∧ s.ov.reservationsOk ∧ s.neededBy r = [18] ∧ s.boundGrains r = [17] ∧
      (after .admission s).ov.ring = [1, 2, 3, 4] ∧
      (after .admission s).reservation? 17 = some ⟨17, 7, ⟨.B, 4⟩, []⟩ ∧
      (after .admission s).reservation? 18 = some ⟨18, 0, a3, []⟩ ∧
      (after .admission s).reservation? 20 = some ⟨20, 9, ⟨.B, 4⟩, []⟩ ∧
      planOf (after .admission s) =
        some (.active, [⟨.slot 6, 136, 8, 112, .planned, 0, []⟩, ⟨.slot 0, 144, 8, 64, .planned, 0, []⟩]) := by
  unfold State.reachesRegion OverlayUnit.reservationsOk
  decide +kernel

/-- A HELD WRITE of the first block of grain 17, and the mounted part with it in the admitted order. -/
def rHeld : Record :=
  { waitingRecord a3 .write 136 1 false with state := .held, path := some .region, region := some ⟨1, .overlay, .overlay⟩ }
def heldWrite (s : State) : State :=
  let t := withRec rHeld (openTag 0 0) s
  { t with adm := { t.adm with order := [⟨.cmd a3, false⟩] } }

/-- ReservationsAreGivenUpWithTheRecord: a slot that returns to the ring, and one that passes to its sharer. -/
theorem test_reservations_given_up :
    (let s := heldWrite (reserved5 base)
     (s.hp .A).condition = .up ∧ s.deferred? a3 = none ∧ s.rec? a3 = some rHeld ∧ rHeld.state = .held ∧
       s.comeBack a3 [17] = [5] ∧ (after (.stop .A 3) s).ov.reservations = [] ∧
       (after (.stop .A 3) s).ov.ring = s.ov.ring ++ [5]) ∧
      (let s0 := reserved5 base
       let s := heldWrite { s0 with ov := { s0.ov with reservations := [⟨17, 5, a3, [⟨.B, 4⟩]⟩] } }
       (after (.stop .A 3) s).ov.reservations = [⟨17, 5, ⟨.B, 4⟩, []⟩] ∧ (after (.stop .A 3) s).ov.ring = s.ov.ring) := by
  decide +kernel

/-- WindowCommandsAreServed: three blocks read, the GRANT of a WRITE, a request handed over, and WINDOW_BUSY. -/
theorem test_window_commands :
    (let s := waits .read (2 ^ 40 - 3) 3 base
     rangeTouchesWindow (2 ^ 40 - 3) 3 = true ∧ rangeInWindow (2 ^ 40 - 3) 3 = true ∧
       windowShape .read (2 ^ 40 - 3) 3 = true ∧ s.nextAdmission = some (waitingRecord a3 .read (2 ^ 40 - 3) 3 false) ∧
       ((after .admission s).rec? a3).map (·.window) =
         some [responseBlock base.mgA.response, noticeBlock base.mgA, identBlock .A s]) ∧
      (let s := waits .write (2 ^ 40 - 4) 1 base
       windowShape .write (2 ^ 40 - 4) 1 = true ∧ (after .admission s).outA = [.grant 3 1]) ∧
      (let r := { waitingRecord a3 .write (2 ^ 40 - 4) 1 false with state := .active, path := some .window }
       let s := withRec r (openTag 1 0) base
       let s := s.setTag a3 ⟨true, 1, 0, 0⟩
       let block : Block := [5, 0, 1, 0]
       s.rec? a3 = some r ∧ parseRequest block = (5, .stage) ∧ (Instr.stage .A 5).management? = some .stage ∧
         (after (.data .A 3 0 block (blockCheck block)) s).outA = [.status 3 .ok 1 none 0 false] ∧
         (after (.data .A 3 0 block (blockCheck block)) s).map.stage = some (.A, map0) ∧
         (let u := { s with mgA := { s.mgA with lastSeq := some 4, inProgress := some 4 } }
          (after (.data .A 3 0 block (blockCheck block)) u).outA = [.status 3 .windowBusy 0 none 0 false] ∧
            (after (.data .A 3 0 block (blockCheck block)) u).mgA = u.mgA)) := by decide +kernel

/-- ReexaminationStartsWhatNothingHolds: a HELD READ; a HELD WRITE at rings of three and four slots beside the one it holds,
with the slot of the entry taken in its place, and sharing. -/
theorem test_reexamination_of_a_record :
    (let r := { rHeld with op := .read }
     let t := withRec r (openTag 0 0) base
     let s := { t with adm := { t.adm with order := [⟨.cmd a3, false⟩] } }
     s.heldBy [] (.cmd a3) = false ∧ s.kindOf .read ⟨1, .overlay, .overlay⟩ 136 ≠ .lost ∧
       planOf (after .heldClaimStart s) = some (.active, [⟨.base, 136, 1, 2208, .planned, 0, []⟩])) ∧
      (let s := heldWrite (withRing 4 base)
       s.neededBy rHeld = [17] ∧ (after .heldClaimStart s).outA = [.status 3 .overlayFull 0 none 0 false]) ∧
      (let s := heldWrite (withRing 5 base)
       planOf (after .heldClaimStart s) = some (.active, [⟨.slot 0, 136, 1, 64, .planned, 0, []⟩]) ∧
         (after .heldClaimStart s).ov.ring = [1, 2, 3, 4]) ∧
      (let s0 := withEntry ⟨17, 1, some 6, 1, 0, .resident⟩ (reserved5 base)
       let s := heldWrite { s0 with ov := { s0.ov with ring := [] } }
       s.neededBy rHeld = [] ∧ s.comeBack a3 [17] = [5] ∧ (s.slotOf 17).isSome = true ∧
         (after .heldClaimStart s).ov.ring = [5] ∧ (after .heldClaimStart s).ov.reservations = [] ∧
         planOf (after .heldClaimStart s) = some (.active, [⟨.slot 6, 136, 1, 112, .planned, 0, []⟩])) ∧
      (let s0 := reserved5 base
       let s := heldWrite { s0 with ov := { s0.ov with reservations := [⟨17, 5, ⟨.B, 4⟩, []⟩] } }
       s.neededBy rHeld = [] ∧ s.slotOf 17 = none ∧
         (after .heldClaimStart s).ov.reservations = [⟨17, 5, ⟨.B, 4⟩, [a3]⟩]) := by decide +kernel

/-- ReexaminationStartsWhatNothingHolds in a middle place: a relocation and a discard claim behind a place that still waits. -/
theorem test_reexamination_of_an_internal_claim :
    let pre : List Placed := [⟨.merge 9, true⟩, ⟨.reloc 9, false⟩]
    let placed (ref : ClaimRef) (b : Bool) : State := { base with adm := { base.adm with order := pre ++ [⟨ref, b⟩, ⟨.merge 9, false⟩] } }
    (placed (.reloc 17) false).heldBy [⟨.merge 9, true⟩] (.reloc 9) = true ∧
      (placed (.reloc 17) false).heldBy pre (.reloc 17) = false ∧
      gives .heldClaimStart (placed (.reloc 17) false) (placed (.reloc 17) true) = true ∧
      (placed (.discard 1 128 64) false).heldBy pre (.discard 1 128 64) = false ∧
      gives .heldClaimStart (placed (.discard 1 128 64) false) (placed (.discard 1 128 64) true) = true ∧
      (placed (.discard 1 128 64) true).firstStartable = none := by decide +kernel

/-- ReexaminationStartsWhatNothingHolds with another held record in the order: of two HELD WRITEs to the same blocks the first
starts, and the second stays HELD behind it. -/
theorem test_reexamination_with_another_held_record :
    let r := { waitingRecord a3 .write 8 2 false with state := .held, path := some .region, region := some ⟨0, .pass, .base⟩ }
    let q := { r with id := ⟨.B, 4⟩ }
    let s0 := withRec q (openTag 0 0) (withRec r (openTag 0 0) base)
    let s := { s0 with adm := { s0.adm with order := [⟨.cmd a3, false⟩, ⟨.cmd ⟨.B, 4⟩, false⟩] } }
    s.heldBy [] (.cmd a3) = false ∧ s.placeHeld ⟨.cmd ⟨.B, 4⟩, false⟩ = true ∧
      (startRegion a3 s).firstStartable = none ∧ gives .heldClaimStart s (startRegion a3 s) = true ∧
      planOf (after .heldClaimStart s) = some (.active, [⟨.base, 8, 2, 2008, .planned, 0, []⟩]) ∧
      (after .heldClaimStart s).rec? ⟨.B, 4⟩ = some q := by decide +kernel

/-- No place before the first of the order. -/
theorem test_nothing_before_the_first_place (s : State) : s.noneStarts [] := by
  intro a y z h
  cases a <;> cases h

/-- ReexaminationStartsWhatNothingHolds: a PASS WRITE, a READ whose first block is lost and one whose third is, and a WRITE
refused OVERLAY_FULL whose reservation of a bound grain goes before those of its other grains. -/
theorem test_reexamination_of_every_record :
    (let r := { waitingRecord a3 .write 8 2 false with state := .held, path := some .region, region := some ⟨0, .pass, .base⟩ }
     let t := withRec r (openTag 0 0) base
     let s := { t with adm := { t.adm with order := [⟨.cmd a3, false⟩] } }
     planOf (after .heldClaimStart s) = some (.active, [⟨.base, 8, 2, 2008, .planned, 0, []⟩]) ∧
       (after .heldClaimStart s).ov = s.ov) ∧
    (let held (first count : Nat) : State :=
       let t := withRec { rHeld with op := .read, first := first, count := count } (openTag 0 0) (withEntry lost17 base)
       { t with adm := { t.adm with order := [⟨.cmd a3, false⟩] } }
     (held 138 2).kindOf .read ⟨1, .overlay, .overlay⟩ 138 = .lost ∧
       (after .heldClaimStart (held 138 2)).outA = [.status 3 .lostData 0 (some 138) 0 false] ∧
       (held 136 4).kindOf .read ⟨1, .overlay, .overlay⟩ 136 ≠ .lost ∧
       (held 136 4).kindOf .read ⟨1, .overlay, .overlay⟩ 138 = .lost ∧
       ((after .heldClaimStart (held 136 4)).rec? a3).map (fun r => (r.state, r.cut, r.result)) =
         some (.active, some 138, some ⟨.lostData, some 138⟩)) ∧
    (let s0 := withEntry ⟨17, 1, some 6, 1, 0, .resident⟩ base
     let t := withRec { rHeld with first := 128, count := 24 } (openTag 0 0) { s0 with ov := { s0.ov with
       ring := [], reservations := [⟨16, 4, a3, []⟩, ⟨17, 5, a3, []⟩] } }
     let s := { t with adm := { t.adm with order := [⟨.cmd a3, false⟩] } }
     s.ov.reservationsOk ∧ s.boundGrains { rHeld with first := 128, count := 24 } = [17] ∧
       s.neededBy { rHeld with first := 128, count := 24 } = [18] ∧
       (after .heldClaimStart s).outA = [.status 3 .overlayFull 0 none 0 false] ∧
       (after .heldClaimStart s).ov.ring = [5, 4] ∧ (after .heldClaimStart s).ov.reservations = []) := by
  unfold OverlayUnit.reservationsOk
  decide +kernel

/-- BufferClaimIsMetWholeOrWaits: a WRITE piece becomes FILLING with its GRANT frames, or with none while 48 and more blocks
are granted and not moved. -/
theorem test_buffer_claim_of_a_write :
    let r : Record := { rWrite with count := 18, plan := [⟨.base, 8, 17, 2008, .planned, 0, []⟩,
      ⟨.base, 25, 1, 2025, .planned, 0, []⟩] }
    let claims (t : Tag) : State :=
      let s := withRec r t base
      { s with pool := { s.pool with claimsA := [⟨.piece a3 0, 17⟩] } }
    (claims (openTag 0 0)).rec? a3 = some r ∧ claimedBlocks r.plan = 0 ∧
      (after (.bufferClaimMet (.host .A)) (claims (openTag 0 0))).outA = [.grant 3 16, .grant 3 1] ∧
      ((after (.bufferClaimMet (.host .A)) (claims (openTag 0 0))).tag a3).granted = 17 ∧
      (after (.bufferClaimMet (.host .A)) (claims (openTag 0 0))).pool.claimsA = [⟨.piece a3 1, 1⟩] ∧
      (after (.bufferClaimMet (.host .A)) (claims (openTag 49 0))).outA = [] ∧
      planOf (after (.bufferClaimMet (.host .A)) (claims (openTag 49 0))) =
        some (.active, [⟨.base, 8, 17, 2008, .filling, 17, []⟩, ⟨.base, 25, 1, 2025, .planned, 0, []⟩]) := by decide +kernel

/-! ## The ends of target operations -/

/-- The mounted part with one operation of an owner carried out in full on tag 7, its `n` blocks transferred. -/
def ending (cls : TClass) (owner : Owner) (op : TOp) (n : Nat) (s : State) : State :=
  withOps [{ opOf 7 (newRequest cls owner op 600 n true (List.replicate n [7])) with
    granted := n, moved := n, got := List.replicate n [7] }] s

/-- The state a TARGET_STATUS on tag 7 leaves. -/
def ends (result : Nat) (s : State) : State := after (.targetStatus 7 result 0 none 0) s

/-- What the premise on the operation says of tag 7. -/
theorem test_carried_out :
    (ending .journal .journal .write 1 base).carriedOut 7
      { opOf 7 (newRequest .journal .journal .write 600 1 true [[7]]) with granted := 1, moved := 1, got := [[7]] } := by
  unfold State.carriedOut
  decide +kernel

/-- TargetStatusEndsItsOperation and RelocationWritesEnd: the target table is well formed in every state of these tests. -/
theorem test_one_operation_is_a_well_formed_table (s : State) (owner : Owner) (op : TOp) (n : Nat) (hl : s.te.link = .up)
    (hr : s.te.resetWait = false) (ho : owner ≠ .link) :
    (ending (.host .A) owner op n s).te.tableOk ∧ (ending .background owner op n s).te.tableOk := by
  constructor <;>
    simp [TransferEngine.tableOk, TransferEngine.held, TargetOp.face, ending, withOps, opOf, newRequest, hl, hr, ho]

/-- TargetStatusEndsItsOperation: NOT_READY and DATA_CHECK of a write to a condemned slot hand the piece over. -/
theorem test_write_to_a_condemned_slot :
    let q : Piece := ⟨.slot 5, 136, 1, 104, .issued, 1, [[2]]⟩
    let r := { rWrite with first := 136, count := 1, region := some ⟨1, .overlay, .overlay⟩, plan := [q] }
    let s0 := withEntry e17 base
    let s := ending (.host .A) (.piece a3 0) .write 1 (withRec r (openTag 1 1) { s0 with ov := { s0.ov with condemned := [5] } })
    s.rec? a3 = some r ∧ s.slotOf 17 = some 5 ∧ s.reloc? 17 = none ∧
      planOf (ends 0x05 s) = some (.active, [{ q with state := .handed }]) ∧
      planOf (ends 0x0E s) = some (.active, [{ q with state := .handed }]) ∧
      (ends 0x05 s).te.intervals = [] ∧ (ends 0x0E s).te.recoveryQ = [] ∧
      ((ends 0x05 s).reloc? 17).map (fun x => (x.cause, x.dependants)) = some (.writeFault, [⟨a3, 0⟩]) := by decide +kernel

/-- TargetStatusEndsItsOperation: the MEDIA_ERROR of a WRITE to a bound slot condemns it, and to a reserved one retires it. -/
theorem test_write_media_error :
    let q : Piece := ⟨.slot 5, 136, 1, 104, .issued, 1, [[2]]⟩
    let r := { rWrite with first := 136, count := 1, region := some ⟨1, .overlay, .overlay⟩, plan := [q] }
    (let s := ending (.host .A) (.piece a3 0) .write 1 (withRec r (openTag 1 1) (withEntry e17 base))
     s.rec? a3 = some r ∧ s.outOfService 5 = false ∧ s.reloc? 17 = none ∧ s.readyOn 5 = [] ∧ s.ov.reservationsOk ∧
       s.slotOf 17 = some 5 ∧ (ends 0x0C s).ov.condemned = [5] ∧ (ends 0x0C s).ov.retired = [] ∧
       planOf (ends 0x0C s) = some (.active, [{ q with state := .handed }]) ∧
       ((ends 0x0C s).reloc? 17).map (fun x => (x.cause, x.dependants, x.retired)) = some (.writeFault, [⟨a3, 0⟩], [])) ∧
    (let s := ending (.host .A) (.piece a3 0) .write 1 (withRec r (openTag 1 1) (reserved5 base))
     s.slotOf 17 = none ∧ (s.reservation? 17).map (·.slot) = some 5 ∧ s.ov.reservationsOk ∧
       (ends 0x0C s).ov.condemned = [] ∧ (ends 0x0C s).ov.retired = [5] ∧ (ends 0x0C s).ov.reservations = [] ∧
       ((ends 0x0C s).reloc? 17).map (fun x => (x.cause, x.dependants, x.retired)) = some (.writeFault, [⟨a3, 0⟩], [5])) := by
  unfold OverlayUnit.reservationsOk
  decide +kernel

/-- TargetStatusEndsItsOperation: a READ piece ends OK with no block granted, and as the last block of its READ; the first
MEDIA_ERROR of a read of a slot, and the second at a later block and at the next block to go. -/
theorem test_read_piece_ends :
    (let s := ending (.host .A) (.piece a3 0) .read 2 (withRec rIssued (openTag 0 0) base)
     s.rec? a3 = some rIssued ∧ planOf (ends 0 s) = some (.active, [⟨.base, 8, 2, 2008, .done, 2, [[7], [7]]⟩]) ∧
       (ends 0 s).outA = []) ∧
    (let r := { rIssued with plan := [⟨.base, 8, 1, 2008, .done, 0, [[9]]⟩, ⟨.base, 9, 1, 2009, .issued, 1, []⟩] }
     let s0 := withRec r (openTag 2 1) base
     let s := ending (.host .A) (.piece a3 1) .read 1 { s0 with pool := { s0.pool with chargeA := 1 } }
     s.rec? a3 = some r ∧ (ends 0 s).outA = [.data 3 1 [7], .status 3 .ok 2 none 0 false] ∧ (ends 0 s).rec? a3 = none ∧
       (ends 0 s).pool.chargeA = 0) ∧
    (let r := { rIssued with first := 136, region := some ⟨1, .overlay, .overlay⟩, plan := [⟨.slot 5, 136, 2, 104, .issued, 2, []⟩] }
     let s := ending (.host .A) (.piece a3 0) .read 2 (withRec r (openTag 0 0) (withEntry e17 base))
     let again := { s with te := { s.te with ops := s.te.ops.map fun o => { o with req := { o.req with media := 1 } } } }
     let fails (k : Nat) : State := after (.targetStatus 7 0x0C 0 (some (600 + k)) 0) again
     s.rec? a3 = some r ∧ s.entry? 17 = some e17 ∧ s.reloc? 17 = none ∧ s.journaled 1 = false ∧
       (ends 0x0C s).te.recoveryQ.map (fun x => (x.owner, x.media)) = [(.piece a3 0, 1)] ∧
       (fails 1).ov.table = [{ e17 with present := 1, lost := 2 }] ∧
       ((fails 1).reloc? 17).map (fun x => (x.cause, x.lost)) = some (.readFault, 2) ∧
       ((fails 1).rec? a3).map (·.cut) = some (some 137) ∧ (fails 1).outA = [] ∧
       (fails 0).ov.table = [{ e17 with present := 2, lost := 1 }] ∧
       (fails 0).outA = [.status 3 .lostData 0 (some 136) 0 false] ∧ (fails 0).rec? a3 = none) := by decide +kernel

/-- The mounted part with a journal block of one record in flight. -/
def inFlight (id : Nat) (s : State) : State :=
  ending .journal .journal .write 1 { s with jrn := { s.jrn with
    inFlight := some ⟨0, [⟨id, .remove 1⟩]⟩, qNext := 1, nextId := 5, fates := [(id, .inFlight)] } }

/-- JournalBlockBecomesDurableOrFails: nothing waits on it; a WRITE waits, with and without a noted STOP; a discard waits; and
MEDIA_ERROR. -/
theorem test_journal_block_ends :
    (let s := inFlight 3 { base with ov := { base.ov with pendingFree := [⟨9, 3⟩, ⟨8, 2⟩] } }
     s.waitersOn (fun id => [3].contains id) = [] ∧ s.mrg.discard = none ∧ (ends 0 s).jrn.fates = [(3, .durable)] ∧
       (ends 0 s).ov.pendingFree = [⟨8, 2⟩] ∧ (ends 0 s).ov.ring = List.range 64 ++ [9]) ∧
      (let r := { rWrite with state := .journalWait, latest := some 3, plan := [⟨.base, 8, 2, 2008, .done, 0, []⟩] }
       let s1 := withRec r (openTag 2 2) base
       let s := inFlight 3 { s1 with jrn := { s1.jrn with waiters := [a3] } }
       s.waitersOn (fun id => [3].contains id) = [r] ∧ (s.hp .A).condition = .up ∧
         (ends 0 s).outA = [.status 3 .ok 2 none 0 false] ∧
         (ends 0x0C s).outA = [.status 3 .journalFault 2 none 0 true] ∧ (ends 0x0C s).jrn.cond = .fault ∧
         (let s2 := withRec { r with stopNoted := true } (openTag 2 2) base
          (ends 0 (inFlight 3 { s2 with jrn := { s2.jrn with waiters := [a3] } })).outA =
            [.status 3 .stopped 2 none 0 false])) ∧
      (let s := inFlight 3 { base with
        mrg := { base.mrg with discard := some ⟨2, true, some .A, some 3, 4⟩ }, mgA := { base.mgA with inProgress := some 4 } }
       (ends 0 s).mrg.discard = none ∧ (ends 0 s).mgA.response.result = some .doneOk ∧
         (ends 0 s).mgA.response.n3 = 4) := by decide +kernel

/-- JournalBlockBecomesDurableOrFails: a buffer that is not due stays open, and a full one is closed in the same act. -/
theorem test_durable_block_closes_the_next :
    let s (n : Nat) : State := let b := inFlight 3 base
      { b with jrn := { b.jrn with openBuf := recs n } }
    ¬ (s 1).bufferDue [] ∧ (ends 0 (s 1)).jrn.inFlight = none ∧ (ends 0 (s 1)).jrn.openBuf = recs 1 ∧
      (s 30).bufferDue [3] ∧ (s 30).jrn.waiting = [] ∧ (ends 0 (s 30)).jrn.inFlight = some ⟨1, recs 30⟩ ∧
      (ends 0 (s 30)).jrn.openBuf = [] ∧ (ends 0 (s 30)).jrn.qNext = 2 ∧
      (ends 0 (s 30)).te.journalQ.map (fun r => (r.owner, r.first, r.count)) = [(.journal, 601, 1)] := by
  unfold State.bufferDue
  decide +kernel

/-- A checkpoint run with nothing left of its walk. -/
def run0 : CkRun :=
  { serial := 0, origin := .request .A, owed := some .A, area := .B, gen := 2, start := 4, phase := .entries, formedMaps := 4,
    cursor := none, entryBlocks := 0, entries := 0, missed := false, walkEnded := true, unwritten := 1, claiming := false,
    image := 0 }
/-- The mounted part with a run whose write has been carried out. -/
def runEnds (r : CkRun) (owner : Owner) (s : State) : State :=
  ending .background owner .write 1 { s with
    jrn := { s.jrn with run := some r, qNext := 6, nextRun := 1 }, pool := { s.pool with chargeI := 1 },
    mgA := { s.mgA with inProgress := some 4 } }

/-- CheckpointWritesEnd: the last body block, one of two, a walk that goes on, the header under NORMAL and under FAULT with
the missed mark clear and set, and a failure. -/
theorem test_checkpoint_writes_end :
    ((ends 0 (runEnds run0 (.ckBody 0) base)).jrn.run = some { run0 with unwritten := 0, phase := .header, claiming := true } ∧
      (ends 0 (runEnds run0 (.ckBody 0) base)).pool.claimsI = [⟨.ckHeader 0, 1⟩]) ∧
    (ends 0 (runEnds { run0 with unwritten := 2 } (.ckBody 0) base)).jrn.run = some { run0 with unwritten := 1 } ∧
    (let r := { run0 with walkEnded := false, unwritten := 4 }
     (ends 0 (runEnds r (.ckBody 0) base)).jrn.run = some { r with unwritten := 3, claiming := true } ∧
       (ends 0 (runEnds r (.ckBody 0) base)).pool.claimsI = [⟨.ckBody 0, 1⟩]) ∧
    (let h := { run0 with phase := .header, unwritten := 0 }
     let s := runEnds h (.ckHeader 0) base
     let u (m : Bool) : State := let s1 := runEnds { h with missed := m } (.ckHeader 0) base
       { s1 with jrn := { s1.jrn with cond := .fault } }
     (ends 0 s).jrn.sCk = 4 ∧ (ends 0 s).jrn.newest = some .B ∧ (ends 0 s).jrn.run = none ∧
       (ends 0 s).mgA.response.result = some .doneOk ∧ (ends 0 s).mgA.response.n1 = 4 ∧
       (let v := { s with jrn := { s.jrn with qNext := 52 } }
        s.journalLen ≤ 52 - 4 + 16 ∧ (ends 0 v).jrn.run.map (·.origin) = some .automatic) ∧
       (ends 0 (u false)).jrn.cond = .normal ∧ (ends 0 (u false)).jrn.qNext = 4 ∧
       (ends 0 (u false)).mgB.notices.map (·.body) = [.journalCleared 4] ∧
       (ends 0 (u true)).jrn.cond = .fault ∧
       (ends 0 (u true)).jrn.run.map (fun r => (r.origin, r.owed, r.phase)) = some (.automatic, some .A, .bitmap) ∧
       (ends 0x0C s).jrn.cond = .fault ∧ (ends 0x0C s).jrn.run = none ∧
       (ends 0x0C s).mgA.response.result = some .journalFault) := by decide +kernel

/-- A relocation of grain 17 from slot 5 to slot 0 whose last write is carried out, in the attempt `n`. -/
def relWriting (n : Nat) (deps : List Dependant) : Reloc :=
  { rel17 .writing with oldSlot := some 5, newSlot := some 0, attempts := n, copySet := 3, copied := 1, dependants := deps }
def relocEnds (r : Reloc) (s : State) : State :=
  let t := withEntry e17 s
  ending .background (.relocWrite 17 0) .write 1 { t with
    ov := { t.ov with ring := (List.range 64).filter fun n => decide (n ≠ 0 ∧ n ≠ 5) },
    te := { t.te with relocs := [r] }, adm := { t.adm with order := t.adm.order ++ [⟨.reloc 17, true⟩] } }

/-- RelocationWritesEnd: the move, the further attempt, the lost end after the third, and the cut; and a dependant's piece. -/
theorem test_relocation_writes_end :
    (let s := relocEnds (relWriting 1 []) base
     s.reloc? 17 = some (relWriting 1 []) ∧ s.lastOf 7 (Owner.ofReloc 17) ∧ s.dependantMask (relWriting 1 []) = 0 ∧
       (ends 0 s).ov.table = [⟨17, 1, some 0, 1, 0, .resident⟩] ∧ (ends 0 s).ov.retired = [5] ∧
       (ends 0 s).te.relocs = [] ∧ (ends 0 s).adm.order = [] ∧
       ((ends 0x0C s).reloc? 17).map (fun r => (r.stage, r.newSlot, r.attempts, r.retired)) = some (.writing, some 1, 2, [0]) ∧
       (ends 0x0C s).ov.retired = [0] ∧ (ends 0x0C s).ov.table = [e17] ∧
       (ends 0x06 s).ov.table = [⟨17, 1, some 5, 1, 2, .resident⟩] ∧ (ends 0x06 s).ov.ring = s.ov.ring ++ [0]) ∧
    (ends 0x0C (relocEnds (relWriting 3 []) base)).ov.table = [⟨17, 1, none, 0, 3, .resident⟩] ∧
    (let q : Piece := ⟨.slot 5, 138, 1, 106, .handed, 1, [[2]]⟩
     let y : Piece := ⟨.base, 144, 1, 2216, .issued, 1, [[3]]⟩
     let x := { rWrite with first := 138, count := 7, region := some ⟨1, .overlay, .overlay⟩, plan := [q, y] }
     let s1 := withRec x (openTag 2 2) base
     let s := relocEnds (relWriting 1 [⟨a3, 0⟩]) { s1 with pool := { s1.pool with chargeA := 2 } }
     s.journaled 1 = false ∧ s.strandedOn 17 = [(a3, 0)] ∧ s.readyOn 5 = [] ∧ s.dependantMask (relWriting 1 [⟨a3, 0⟩]) = 4 ∧
       planOf (ends 0 s) = some (.active, [{ q with state := .done, held := 0, data := [] }, y]) ∧
       (ends 0 s).pool.chargeA = 1 ∧ (ends 0 s).ov.table = [⟨17, 1, some 0, 5, 0, .resident⟩]) := by
  unfold State.lastOf
  decide +kernel

/-- A second MEDIA_ERROR of a slot read that empties the mask: the block joins the lost set of the relocation that stands, and
with none no request is made. -/
theorem test_read_fault_that_empties_the_mask :
    let q : Piece := ⟨.slot 5, 137, 1, 105, .issued, 1, []⟩
    let r := { rIssued with first := 137, count := 1, region := some ⟨1, .overlay, .overlay⟩, plan := [q] }
    let s0 := ending (.host .A) (.piece a3 0) .read 1 (withRec r (openTag 0 0) (withEntry { e17 with present := 2 } base))
    let s := { s0 with te := { s0.te with
      ops := s0.te.ops.map fun o => { o with granted := 0, moved := 0, got := [], req := { o.req with media := 1 } } } }
    let t := after (.targetStatus 7 0x0C 0 (some 600) 0) s
    let u := after (.targetStatus 7 0x0C 0 (some 600) 0) { s with te := { s.te with relocs := [rel17 .queued] } }
    t.ov.table = [⟨17, 1, none, 0, 2, .resident⟩] ∧ t.ov.retired = [5] ∧ t.te.relocs = [] ∧
      t.mgA.notices.map (·.body) = [.slotRetired 5, .blocksLost 17] ∧
      u.ov.table = [⟨17, 1, none, 0, 2, .resident⟩] ∧ u.te.relocs = [{ rel17 .queued with lost := 2 }] := by decide +kernel

/-- A record that joins in WRITING after a write was issued gets a further write of the attempt, also while a cut waits, and
none once the slot of the attempt is retired. -/
theorem test_joiner_in_writing :
    let q : Piece := ⟨.slot 5, 138, 1, 106, .handed, 1, [[2]]⟩
    let x := { rWrite with first := 138, count := 1, region := some ⟨1, .overlay, .overlay⟩, plan := [q] }
    let joined (r : Reloc) : State :=
      joinReloc 17 ⟨a3, 0⟩ (withRec x (openTag 1 1) (withEntry e17 { base with te := { base.te with relocs := [r] } }))
    let writes (s : State) := s.te.recoveryQ.map fun y => (y.owner, y.op, y.first, y.count)
    let deps (s : State) := (s.reloc? 17).map (·.dependants)
    let r := { relWriting 1 [] with issued := true }
    writes (joined r) = [(.relocWrite 17 2, .write, 66, 1)] ∧ deps (joined r) = some [⟨a3, 0⟩] ∧
      writes (joined { r with cut := true }) = [(.relocWrite 17 2, .write, 66, 1)] ∧
      writes (joined { r with failed := true, newSlot := none }) = [] ∧
      deps (joined { r with failed := true, newSlot := none }) = some [⟨a3, 0⟩] := by decide +kernel

/-- The lost marking of a merge read that empties the mask: BLOCKS_LOST, then SLOT_RETIRED. -/
theorem test_merge_read_that_empties_the_mask :
    let s := mergeLost 3 (merging { waitingGrain with stage := .reading, region := 1, slot := 5, copySet := 3 })
    s.mgA.notices.map (·.body) = [.blocksLost 17, .slotRetired 5] ∧ s.ov.retired = [5] ∧
      s.ov.table.map (fun e => (e.slot, e.present, e.lost)) = [(none, 0, 3)] := by decide +kernel

/-- The claim of a relocation leaves and lets in the queued one in the same act, before a HELD WRITE to its grain. -/
theorem test_leaving_relocation_places_the_queued_one :
    let r := { waitingRecord a3 .write 72 2 false with state := .held, path := some .region, region := some ⟨0, .pass, .base⟩ }
    let three := [1, 2, 3].map fun g => { rel17 .held with grain := g }
    let s0 := withRec r (openTag 0 0) (relocEnds (relWriting 1 []) base)
    let s := { s0 with
      te := { s0.te with relocs := s0.te.relocs ++ three ++ [{ rel17 .queued with grain := 9 }] },
      adm := { s0.adm with order := s0.adm.order ++ [⟨.cmd a3, false⟩] } }
    s.relocClaims = 4 ∧ (ends 0 s).te.relocs.map (·.grain) = [1, 2, 3, 9] ∧
      (ends 0 s).te.relocs.all (fun x => decide (x.stage = .held)) = true ∧
      (ends 0 s).adm.order = [⟨.reloc 9, true⟩, ⟨.cmd a3, false⟩] ∧ gives .relocationPlacement (ends 0 s) (ends 0 s) = true ∧
      ((after .heldClaimStart (ends 0 s)).rec? a3).map (·.state) = some .held := by decide +kernel

/-- A slot read whose READ has left marks a RESIDENT entry, and leaves the masks of one that is merged alone. -/
theorem test_stray_read_leaves_a_merging_entry :
    let stray (e : Entry) : State :=
      withOps [{ opOf 7 { newRequest .recovery (.stray (some 5) 136) .read 104 2 false [] with media := 1 } with
        granted := 2, moved := 2, got := [[7], [7]] }] (withEntry e base)
    (ends 0x0C (stray e17)).ov.table = [⟨17, 1, some 5, 2, 1, .resident⟩] ∧
      (ends 0x0C (stray { e17 with state := .merging })).ov.table = [{ e17 with state := .merging }] ∧
      (ends 0x0C (stray { e17 with state := .moving })).ov.table = [{ e17 with state := .moving }] := by decide +kernel

/-- A READ that is wound down, and one that is orphaned, give back the buffers of a piece that is DONE. -/
theorem test_wind_down_frees_done_pieces :
    let r := { rRead with count := 4, plan := [⟨.base, 8, 2, 2008, .done, 2, [[1], [2]]⟩, ⟨.base, 10, 2, 2010, .issued, 2, []⟩] }
    let s0 := withRec r (openTag 0 0) base
    let s := { s0 with pool := { s0.pool with chargeA := 4 } }
    let plan : List Piece := [⟨.base, 8, 2, 2008, .done, 0, []⟩, ⟨.base, 10, 2, 2010, .issued, 2, []⟩]
    planOf (after (.stop .A 3) s) = some (.stopping, plan) ∧ (after (.stop .A 3) s).pool.chargeA = 2 ∧
      planOf (after (.linkreset .A) s) = some (.orphaned, plan) ∧ (after (.linkreset .A) s).pool.chargeA = 2 := by decide +kernel

/-- A merge run whose last base write is carried out. -/
def mergeEnds (x : MergeGrain) (i : Nat) (condemned : List Nat) : State :=
  let s := merging { x with stage := .writing, region := i, slot := 5, copySet := 3, readSet := 3 }
  ending .background (.mergeWrite 0) .write 1 { s with
    ov := { s.ov with table := [{ e17 with region := i }], condemned := condemned } }

/-- MergeGrainEndsOrStops: volatile and journaled, a condemned slot, and the base fault. -/
theorem test_merge_grain_ends :
    (let s := mergeEnds waitingGrain 1 []
     s.mrg.cause = none ∧ s.lastOf 7 Owner.ofMerge ∧ s.journaled 1 = false ∧ s.entry? 17 = some e17 ∧
       (ends 0 s).ov.table = [] ∧ (ends 0 s).ov.ring = List.range 64 ++ [5] ∧ (ends 0 s).mrg.merged = 1 ∧
       (ends 0 s).adm.order = [] ∧ (ends 0x0C s).mrg.cause = some .baseFault ∧ (ends 0x0C s).ov.table = [e17] ∧
       (ends 0x0C s).mgA.notices.map (·.body) = [.mergeStopped .baseFault 17]) ∧
    (let s := mergeEnds waitingGrain 2 []
     s.journaled 2 = true ∧ s.jrn.live < s.journalLen ∧ (ends 0 s).ov.pendingFree = [⟨5, 0⟩] ∧ (ends 0 s).adm.order = []) ∧
    (ends 0 (mergeEnds waitingGrain 1 [5])).ov.retired = [5] ∧
    (ends 0 (mergeEnds { waitingGrain with mediaMet := true } 1 [])).ov.retired = [5] := by
  unfold State.lastOf
  decide +kernel

/-- DISCARD while the claim of an answered discard still stands: it waits unplaced. -/
theorem test_discard_behind_an_older_claim :
    let s := { base with adm := { base.adm with order := [⟨.discard 2 192 64, true⟩] } }
    (after (.discard .A 1 1) s).mrg.discard = some ⟨1, false, some .A, none, 0⟩ ∧
      (after (.discard .A 1 1) s).adm.order = s.adm.order := by decide +kernel

/-- The mounted part with one waiting hand-off. -/
def handing (p : Producer) (n : Nat) (s : State) : State := { s with jrn := { s.jrn with waiting := [⟨p, recs n⟩] } }

/-- HandOffsAreTakenOrDropped: the hand-off of a WRITE, a relocation, a merge grain and a discard. -/
theorem test_hand_offs_of_producers :
    (let r := { rWrite with latest := some 0, plan := [⟨.base, 8, 2, 2008, .done, 0, []⟩] }
     let t := after .journalHandoffTaken (handing (.piece a3) 1 (withRec r (openTag 2 2) base))
     (t.rec? a3).map (·.state) = some .journalWait ∧ t.jrn.waiters = [a3] ∧ t.jrn.openBuf = recs 1) ∧
    (let s := { base with te := { base.te with relocs := [rel17 (.ending .move)] },
                          adm := { base.adm with order := [⟨.reloc 17, true⟩] } }
     s.strandedOn 17 = [] ∧ (after .journalHandoffTaken (handing (.reloc 17) 30 s)).te.relocs = [] ∧
       (after .journalHandoffTaken (handing (.reloc 17) 30 s)).adm.order = []) ∧
    (let s := merging { waitingGrain with stage := .ending }
     let t := after .journalHandoffTaken (handing .merge 2 { s with mrg := { s.mrg with state := .halting } })
     t.mrg.state = .none ∧ t.mrg.cause = some .halted ∧ t.adm.order = []) ∧
    (let s := { base with mrg := { base.mrg with discard := some ⟨2, true, some .A, some 0, 3⟩ },
                          adm := { base.adm with order := [⟨.discard 2 192 64, true⟩] } }
     (after .journalHandoffTaken (handing .discard 1 s)).mrg.discard = s.mrg.discard ∧
       (after .journalHandoffTaken (handing .discard 1 s)).adm.order = []) := by decide +kernel

/-- JournalBlockIsClosedAndWritten: the closing takes the waiting hand-off into the new buffer. -/
theorem test_closing_takes_the_waiting_hand_off :
    let s0 := { base with jrn := { base.jrn with openBuf := recs 30 } }
    let s := { s0 with jrn := { s0.jrn with waiting := [⟨.none, recs 30⟩] } }
    s.jrn.live + 1 < s.journalLen ∧ (after .journalBlockClose s).jrn.inFlight = some ⟨0, recs 30⟩ ∧
      (after .journalBlockClose s).jrn.openBuf = recs 30 ∧ (after .journalBlockClose s).jrn.waiting = [] := by decide +kernel

/-- The mounted part with a mount at a stage whose read of `n` blocks has been carried out. -/
def mountEnds (stage : MountStage) (h : Holding) (n : Nat) (data : List Byte) : State :=
  withOps [{ opOf 7 (newRequest .background .mount .read 600 n false []) with granted := n, moved := n, got := [data] }]
    { base with map := MapUnit.reset, ov := OverlayUnit.reset, pool := { base.pool with chargeI := n },
                mnt := { base.mnt with dev := .mounting, stage := stage, holding := h } }

/-- An anchor without a layout, and one with it. -/
def anchor0 : AnchorImage := { gen := 3, formatId := 0, layout := none, map := map1 }
def anchor1 : AnchorImage := { gen := 3, formatId := 1, layout := some lay, map := map0 }

/-- MountReadsEnd: each anchor copy, with no copy, a copy with a layout and one without; a header that cannot be read; and a
journal block that is not the next. -/
theorem test_mount_reads_end :
    (parseAnchor [] = none ∧ (ends 0 (mountEnds (.anchor 0) Holding.empty 3 [])).mnt.stage = .anchor 1 ∧
      (ends 0 (mountEnds (.anchor 0) Holding.empty 3 [])).pool.claimsI = [⟨.mount, 3⟩]) ∧
    ((ends 0 (mountEnds (.anchor 1) Holding.empty 3 [])).mnt.dev = .blank ∧
      (ends 0 (mountEnds (.anchor 1) Holding.empty 3 [])).mnt.stage = .idle) ∧
    (let s := mountEnds (.anchor 1) { Holding.empty with copy0 := some anchor1 } 3 []
     chooseCopy (some anchor1) none = some (0, anchor1) ∧ (ends 0 s).mnt.stage = .header .A ∧
       (ends 0 s).mnt.holding.chosen = some (0, anchor1) ∧ (ends 0 s).pool.claimsI = [⟨.mount, 1⟩]) ∧
    (let s := mountEnds (.anchor 1) { Holding.empty with copy0 := some anchor0 } 3 []
     (ends 0 s).mnt.dev = .ready ∧ (ends 0 s).map.active = map1 ∧ (ends 0 s).map.anchorGen = 3 ∧
       (ends 0 s).mgA.notices.map (·.body) = [.mountResult .clean none 0 0 0]) ∧
    (let s := mountEnds (.header .A) { Holding.empty with chosen := some (0, anchor1) } 1 []
     (ends 0x0C s).mnt.stage = .header .B ∧ (ends 0x0C s).pool.claimsI = [⟨.mount, 1⟩]) ∧
    (let h := { Holding.empty with chosen := some (0, anchor1), expected := 7 }
     replayBlock [] h = none ∧ 0 < h.scanCount ∧ (ends 0 (mountEnds .replay h 1 [])).mnt.stage = .scan 0 ∧
       (ends 0x0C (mountEnds .replay h 1 [])).mnt.stage = .scan 0 ∧ (ends 0x0C (mountEnds .replay h 1 [])).mnt.holding = h ∧
       (ends 0x06 (mountEnds .replay h 1 [])).mnt.stage = .scan 0) := by decide +kernel

/-- What the mount has loaded when it replays block 7 of the journal. -/
def replaying : Holding :=
  { Holding.empty with
    chosen := some (0, anchor1), expected := 7,
    loaded := some ⟨.A, { formatId := 1, start := 5, gen := 1, bitmaps := 4, entryBlocks := 0, entries := 0, image := 0 }⟩ }

set_option maxRecDepth 100000 in
/-- MountReadsEnd: the next journal block is replayed. -/
theorem test_mount_replays_the_next_block :
    parseJournal (journalBlock 1 7 [.remove 1]) = some ⟨1, 7, [.remove 1]⟩ ∧ replaying.formatId = 1 ∧
      [RecordBody.remove 1].all (recordGood replaying.slots) = true ∧ 7 + 1 - 5 < replaying.journalLen ∧
      (ends 0 (mountEnds .replay replaying 1 (journalBlock 1 7 [.remove 1]))).mnt.stage = .replay := by decide +kernel

set_option maxRecDepth 100000 in
/-- MountReadsEnd: a good journal block of another identity, of another sequence, or with a record of no slot ends replay. -/
theorem test_mount_replay_ends :
    replayBlock (journalBlock 2 7 [.remove 1]) replaying = none ∧ replayBlock (journalBlock 1 8 [.remove 1]) replaying = none ∧
      replayBlock (journalBlock 1 7 [.retire 64]) replaying = none ∧ 0 < replaying.scanCount ∧
      (ends 0 (mountEnds .replay replaying 1 (journalBlock 1 8 [.remove 1]))).mnt.stage = .scan 0 := by decide +kernel

/-- The mounted part with a formatting whose write of a step has been carried out. -/
def formatEnds (step : Nat) : State :=
  ending .background .format .write (if step = 6 then 3 else 1) { base with
    mnt := { base.mnt with format := some ⟨lay, 2, some .A, step⟩ }, pool := { base.pool with chargeI := 3 },
    mgA := { base.mgA with inProgress := some 4 } }

/-- FormattingWritesEnd: a write before the last two, the claim of the anchor, the anchor, and a failure of each. -/
theorem test_formatting_writes_end :
    (ends 0 (formatEnds 0)).mnt.format = some ⟨lay, 2, some .A, 1⟩ ∧ (ends 0 (formatEnds 0)).pool.claimsI = [⟨.format, 1⟩] ∧
      (ends 0 (formatEnds 5)).pool.claimsI = [⟨.format, 3⟩] ∧ (ends 0 (formatEnds 6)).map.formatId = 2 ∧
      (ends 0 (formatEnds 6)).map.anchorGen = 2 ∧ (ends 0 (formatEnds 6)).mgA.response.result = some .doneOk ∧
      (ends 0 (formatEnds 6)).ov.ring = List.range 64 ∧ (ends 0x0C (formatEnds 6)).mgA.response.result = some .anchorFault ∧
      (ends 0x0C (formatEnds 5)).mgA.response.result = some .targetFault ∧
      (ends 0x0C (formatEnds 5)).map = (formatEnds 5).map := by decide +kernel

/-- A part with two slots: slot 0 of an entry, and slot 1 reserved. -/
def twoSlots : State :=
  { State.reset with ov := { OverlayUnit.reset with
      slots := 2, table := [⟨17, 1, some 0, 1, 2, .resident⟩], reservations := [⟨18, 1, a3, []⟩] } }

/-- OverlayStoreStaysWellFormed: a store with an entry and a reservation. -/
theorem test_store_of_two_slots : twoSlots.storeOk := by
  refine ⟨?_, fun n => ?_, ?_, ?_, ?_⟩
  · unfold OverlayUnit.tableOk; decide +kernel
  · match n with
    | 0 => decide +kernel
    | 1 => decide +kernel
    | n + 2 => simp [State.placesOf, State.reservedSlots, State.boundSlots, twoSlots, State.reset, OverlayUnit.reset, TransferEngine.reset]
  · exact ⟨List.nodup_nil, fun _ h => nomatch h⟩
  · unfold Holding.tableOk Holding.rebuiltOk; decide +kernel
  · unfold OverlayUnit.reservationsOk; decide +kernel

/-! ## What the remaining statements ask for -/

/-- RegionsOfAValidMapDoNotOverlap: a valid map with more than one region. -/
theorem test_valid_map_with_regions : mapFault map0 (some lay) 4096 = none ∧
    (map0.region 0).holds 127 = true ∧ (map0.region 1).holds 128 = true ∧ (map0.region 1).holds 127 = false := by
  decide +kernel

/-- HostFramesReadBackAsSent and RequestBlocksReadBackAsWritten. -/
theorem test_commands_that_read_back :
    (Instr.grant .B 15 255).wellFormed = true ∧ (Instr.grant .B 15 255).hostPort? = some .B ∧
      (encodeHostFrame (.grant .B 15 255)).isSome = true ∧ (Instr.targetGrant 31 255).wellFormed = true ∧
      (encodeTargetFrame (.targetGrant 31 255)).isSome = true ∧ (MReq.merge 255).fits = true ∧
      parseRequest (requestBlock 0xFFFF (.merge 255)) = (0xFFFF, .merge 255) := by decide +kernel

/-- The premises of the invariants hold of a mounted part with an entry and an operation in flight. -/
theorem test_invariants_hold_of_a_working_part :
    let s := withOps [opOf 0 (readReq 0)] (withEntry e17 base)
    s.noticesOk ∧ s.pool.withinQuota ∧ s.portsOk ∧ s.te.tableOk ∧ s.te.queuesOk := by
  refine ⟨?_, ?_, ?_, ?_, ?_⟩
  · exact ⟨by unfold PortMgmt.queueOk; decide +kernel, by unfold PortMgmt.queueOk; decide +kernel⟩
  · unfold BufferPool.withinQuota; decide +kernel
  · unfold State.portsOk; decide +kernel
  · unfold TransferEngine.tableOk; decide +kernel
  · unfold TransferEngine.queuesOk; decide +kernel

end Sys2Proof.Tests
end

section
/-! SUPPORT. What the command of every row keeps, from what its operations keep. -/

namespace Sys2Proof.Machine

variable {s : State}

/-- A management request command hands its request block over (R169). -/
theorem exec_request {i : Instr} {p : Port} {q : BitVec 16} {code : Nat} (h : i.request? = some (p, q, code)) (s : State) :
    ∃ r : MReq, r.code = code ∧ exec i s = .next (request p q r s) := by
  cases i <;> cases h <;> exact ⟨_, rfl, rfl⟩

/-! ## Frames from a host -/

theorem keeps_execGrant (p : Port) (tag count : Nat) : ∃ t, exec (.grant p tag count) s = .next t ∧ Keeps s t := by
  refine ⟨_, rfl, ?_⟩
  split
  · exact keeps_settleDown (keeps_takeGrant _ _ (Keeps.refl s))
  · exact Keeps.refl s

theorem keeps_execData (p : Port) (tag index : Nat) (block : Block) (check : BitVec 32) :
    ∃ t, exec (.data p tag index block check) s = .next t ∧ Keeps s t := by
  refine ⟨_, rfl, ?_⟩
  split
  · exact keeps_settleDown (keeps_takeData _ _ _ _ (Keeps.refl s))
  · exact Keeps.refl s

theorem keeps_execStop (p : Port) (tag : Nat) : ∃ t, exec (.stop p tag) s = .next t ∧ Keeps s t := by
  refine ⟨_, rfl, ?_⟩
  split
  · exact Keeps.refl s
  · split
    · exact keeps_settleDown (keeps_takeStop _ (Keeps.refl s))
    · exact keeps_sendStatus _ _ _ _ _ (Keeps.refl s)

theorem keeps_execLinkreset (p : Port) : ∃ t, exec (.linkreset p) s = .next t ∧ Keeps s t := by
  refine ⟨_, rfl, ?_⟩
  split
  · exact keeps_resetDoneCheck _ (keeps_portReset _ (Keeps.refl s))
  · exact Keeps.refl s

/-! ## The part's own steps -/

theorem keeps_execOrphanLeaves (p : Port) (tag : Nat) : ∃ t, exec (.orphanLeaves p tag) s = .next t ∧ Keeps s t := by
  refine ⟨_, rfl, ?_⟩
  split
  · split
    · exact keeps_leave _ (Keeps.refl s)
    · exact Keeps.refl s
  · exact Keeps.refl s

theorem keeps_execDataWaitExpiry (p : Port) (tag : Nat) :
    ∃ t, exec (.dataWaitExpiry p tag) s = .next t ∧ Keeps s t := by
  refine ⟨_, rfl, ?_⟩
  split
  · split
    · exact keeps_windDown _ _ _ (Keeps.refl s)
    · exact Keeps.refl s
  · exact Keeps.refl s

theorem keeps_execAdmission : ∃ t, exec .admission s = .next t ∧ Keeps s t := by
  refine ⟨_, rfl, ?_⟩
  split
  · exact keeps_settleDown (keeps_admitRecord _ (keeps_servePort _ (Keeps.refl s)))
  · exact Keeps.refl s

theorem keeps_execRelocationClaimGrant (grain : Nat) :
    ∃ t, exec (.relocationClaimGrant grain) s = .next t ∧ Keeps s t := by
  refine ⟨_, rfl, ?_⟩
  split
  · rename_i r hr
    split
    · rename_i hst
      exact keeps_settleDown (keeps_relocBegin _ (fun x hx => Option.some.inj (hr.symm.trans hx) ▸ hst.1) (Keeps.refl s))
    · exact Keeps.refl s
  · exact Keeps.refl s

theorem keeps_execMergeGrainClaimGrant : ∃ t, exec .mergeGrainClaimGrant s = .next t ∧ Keeps s t := by
  refine ⟨_, rfl, ?_⟩
  split
  · split
    · exact keeps_mergeTake (Keeps.refl s)
    · exact Keeps.refl s
  · exact Keeps.refl s

theorem keeps_execDiscardClaimGrant : ∃ t, exec .discardClaimGrant s = .next t ∧ Keeps s t := by
  refine ⟨_, rfl, ?_⟩
  split
  · split
    · exact keeps_settleDown (keeps_discardTake _ (Keeps.refl s))
    · exact Keeps.refl s
  · exact Keeps.refl s

theorem keeps_execJournalBlockClose : ∃ t, exec .journalBlockClose s = .next t ∧ Keeps s t := by
  refine ⟨_, rfl, ?_⟩
  split
  · exact keeps_settleDown (keeps_closeAndTake (Keeps.refl s))
  · exact Keeps.refl s

theorem keeps_execDrainEnd : ∃ t, exec .drainEnd s = .next t ∧ Keeps s t := by
  refine ⟨_, rfl, ?_⟩
  split
  · split
    · exact keeps_endDrain _ (Keeps.refl s)
    · exact Keeps.refl s
  · exact Keeps.refl s

/-! ## The target port and its link -/

theorem stays_takeStatus (tag result done : Nat) (detail : Option Nat) (value : Nat) :
    Stays s (takeStatus tag result done detail value s) := by
  unfold takeStatus
  split
  · rename_i hl
    split
    · exact (Keeps.refl s).stays
    · rename_i o ho
      exact stays_endOp _ _ _ _ (mem_of_op? ho) hl
  · split
    · exact stays_linkSizeStatus _ _
    · exact (Keeps.refl s).stays

theorem stays_settleDown {t : State} (h : Stays s t) : Stays s (settleDown t) :=
  h.trans (keeps_settleDown (Keeps.refl t)).stays

theorem keeps_execTargetGrant (tag count : Nat) : ∃ t, exec (.targetGrant tag count) s = .next t ∧ Keeps s t := by
  refine ⟨_, rfl, ?_⟩
  split
  · exact keeps_takeTargetGrant _ _ (Keeps.refl s)
  · exact Keeps.refl s

theorem keeps_execTargetData (tag index : Nat) (block : Block) (check : BitVec 32) :
    ∃ t, exec (.targetData tag index block check) s = .next t ∧ Keeps s t := by
  refine ⟨_, rfl, ?_⟩
  split
  · exact keeps_takeTargetData _ _ _ _ (Keeps.refl s)
  · exact Keeps.refl s

theorem keeps_execTargetOperationTimeout (tag : Nat) :
    ∃ t, exec (.targetOperationTimeout tag) s = .next t ∧ Keeps s t := by
  refine ⟨_, rfl, ?_⟩
  split
  · exact keeps_stopOp _ _ (Keeps.refl s)
  · exact Keeps.refl s

theorem stays_execTargetResetDone : ∃ t, exec .targetResetDone s = .next t ∧ Stays s t := by
  refine ⟨_, rfl, ?_⟩
  split
  · exact (Keeps.refl s).stays
  · rename_i h
    obtain ⟨hl, hz⟩ := not_or.1 h
    exact stays_issueSize hl (by simpa using hz)

theorem stays_execStopWaitExpiry (tag : Nat) : ∃ t, exec (.stopWaitExpiry tag) s = .next t ∧ Stays s t := by
  refine ⟨_, rfl, ?_⟩
  split
  · split
    · exact stays_resetLink
    · exact (Keeps.refl s).stays
  · exact (Keeps.refl s).stays

theorem stays_execResetDoneWaitExpiry : ∃ t, exec .resetDoneWaitExpiry s = .next t ∧ Stays s t := by
  refine ⟨_, rfl, ?_⟩
  split
  · rename_i hw
    refine stays_settleDown (stays_linkDown _ (Keeps.refl s).stays fun e => ?_)
    obtain ⟨_, _, _, _, _, _, _, _, _, hwait⟩ := e.1
    exact List.map_eq_nil_iff.1 (hwait hw).2
  · exact (Keeps.refl s).stays

theorem stays_execSizeWaitExpiry : ∃ t, exec .sizeWaitExpiry s = .next t ∧ Stays s t := by
  refine ⟨_, rfl, ?_⟩
  split
  · rename_i o hz
    exact stays_settleDown (stays_linkDown _ (stays_removeOp _) fun e => removeOp_linkSize hz e.1)
  · exact (Keeps.refl s).stays

/-- The retry that leaves its interval is one that waited, so it is not the link's SIZE. -/
theorem stays_execNotReadyRetryInterval : ∃ t, exec .notReadyRetryInterval s = .next t ∧ Stays s t := by
  refine ⟨_, rfl, ?_⟩
  split
  · rename_i r rest hi
    refine stays_settleDown (stays_enqueue _ (fun e => e.2 r (by simp [hi])) (Stays.te s _ (fun e => ⟨e.1, ?_⟩) rfl))
    intro x hx
    refine e.2 x ?_
    simp only [hi, List.mem_append, List.mem_cons] at hx ⊢
    exact hx.imp_right .inr
  · exact (Keeps.refl s).stays

theorem keeps_execLinkresetRepeat : ∃ t, exec .linkresetRepeat s = .next t ∧ Keeps s t := by
  refine ⟨_, rfl, ?_⟩
  split
  · split
    · exact Keeps.te s _ rfl rfl rfl id rfl
    · exact keeps_sendT _ (Keeps.refl s)
  · exact Keeps.refl s

/-! ## Every command -/

theorem Keeps.stays_of {i : Instr} (h : ∃ t, exec i s = .next t ∧ Keeps s t) : ∃ t, exec i s = .next t ∧ Stays s t :=
  h.imp fun _ k => ⟨k.1, k.2.stays⟩

theorem stays_exec_request {i : Instr} {p : Port} {q : BitVec 16} {code : Nat} (h : i.request? = some (p, q, code)) :
    ∃ t, exec i s = .next t ∧ Stays s t := by
  obtain ⟨r, _, e⟩ := exec_request h s
  exact ⟨_, e, (keeps_request p q r (Keeps.refl s)).stays⟩

/-- Every command but DEVICE_RESET answers a next state and keeps what the operations of the part keep. -/
theorem stays_exec (i : Instr) (hi : ∀ hold, i ≠ .deviceReset hold) : ∃ t, exec i s = .next t ∧ Stays s t := by
  have refl := Keeps.refl s
  cases i with
  | deviceReset hold => exact absurd rfl (hi hold)
  | discardedFrame link bytes => exact ⟨_, rfl, refl.stays⟩
  | read p tag first count durable => exact ⟨_, rfl, (keeps_acceptCmd _ _ _ _ _ refl).stays⟩
  | write p tag first count durable => exact ⟨_, rfl, (keeps_acceptCmd _ _ _ _ _ refl).stays⟩
  | flush p tag first count durable => exact ⟨_, rfl, (keeps_acceptCmd _ _ _ _ _ refl).stays⟩
  | size p tag first count durable => exact ⟨_, rfl, (keeps_acceptCmd _ _ _ _ _ refl).stays⟩
  | unknownOperation p tag code first count durable => exact ⟨_, rfl, (keeps_acceptCmd _ _ _ _ _ refl).stays⟩
  | grant p tag count => exact Keeps.stays_of (keeps_execGrant p tag count)
  | data p tag index block check => exact Keeps.stays_of (keeps_execData p tag index block check)
  | stop p tag => exact Keeps.stays_of (keeps_execStop p tag)
  | linkreset p => exact Keeps.stays_of (keeps_execLinkreset p)
  | resetDone p => exact ⟨_, rfl, (keeps_resetDoneCheck _ refl).stays⟩
  | deferredArrivalBecomesRecord p tag => exact ⟨_, rfl, (keeps_lateCreation _ refl).stays⟩
  | orphanLeaves p tag => exact Keeps.stays_of (keeps_execOrphanLeaves p tag)
  | admission => exact Keeps.stays_of keeps_execAdmission
  | heldClaimStart => exact ⟨_, rfl, (keeps_settleDown (keeps_reexamine _ refl)).stays⟩
  | bufferClaimMet owner => exact ⟨_, rfl, (keeps_settleDown (keeps_meetClaim _ refl)).stays⟩
  | targetTagGrant => exact ⟨_, rfl, stays_grantOne⟩
  | targetStatus tag result done detail value => exact ⟨_, rfl, stays_settleDown (stays_takeStatus ..)⟩
  | relocationClaimGrant grain => exact Keeps.stays_of (keeps_execRelocationClaimGrant grain)
  | relocationPlacement => exact ⟨_, rfl, (keeps_placeQueued refl).stays⟩
  | mergeGrainClaimGrant => exact Keeps.stays_of keeps_execMergeGrainClaimGrant
  | discardClaimGrant => exact Keeps.stays_of keeps_execDiscardClaimGrant
  | journalHandoffTaken => exact ⟨_, rfl, (keeps_settleDown (keeps_takeHandOffs refl)).stays⟩
  | journalBlockClose => exact Keeps.stays_of keeps_execJournalBlockClose
  | drainEnd => exact Keeps.stays_of keeps_execDrainEnd
  | targetGrant tag count => exact Keeps.stays_of (keeps_execTargetGrant tag count)
  | targetData tag index block check => exact Keeps.stays_of (keeps_execTargetData tag index block check)
  | targetResetDone => exact stays_execTargetResetDone
  | linkSizeComplete result value => exact ⟨_, rfl, stays_settleDown (stays_linkSizeStatus _ _)⟩
  | dataWaitExpiry p tag => exact Keeps.stays_of (keeps_execDataWaitExpiry p tag)
  | targetOperationTimeout tag => exact Keeps.stays_of (keeps_execTargetOperationTimeout tag)
  | stopWaitExpiry tag => exact stays_execStopWaitExpiry tag
  | resetDoneWaitExpiry => exact stays_execResetDoneWaitExpiry
  | sizeWaitExpiry => exact stays_execSizeWaitExpiry
  | notReadyRetryInterval => exact stays_execNotReadyRetryInterval
  | linkresetRepeat => exact Keeps.stays_of keeps_execLinkresetRepeat
  | _ => exact stays_exec_request rfl

/-- DEVICE_RESET keeps the queue and adds LINKRESET to the frames sent to the target. -/
theorem exec_deviceReset (hold : Bool) (s : State) : exec (.deviceReset hold) s = .next
    { State.reset with
      map := { State.reset.map with hold := hold }, outA := s.outA, outB := s.outB, outT := s.outT ++ [.linkreset],
      free := s.free, pending := s.pending } := rfl

/-- Settles O2: DEVICE_RESET by its definition, every other command by what its operations keep. -/
theorem commandsKeepQueueFramesAndHold : Obligations.CommandsKeepQueueFramesAndHold := by
  intro c s
  by_cases hc : ∃ hold, c = .deviceReset hold
  · obtain ⟨hold, rfl⟩ := hc
    exact ⟨_, exec_deviceReset hold s, rfl, List.prefix_rfl, List.prefix_rfl, List.prefix_append _ _,
      fun h => absurd rfl (h hold)⟩
  · obtain ⟨t, e, k⟩ := stays_exec (s := s) c (not_exists.1 hc)
    exact ⟨t, e, k.pending, k.outA, k.outB, k.outT, fun _ => k.hold⟩

/-- Both host ports are UP with 16 FREE tags after reset (R60). -/
theorem reset_hp (p : Port) : State.reset.hp p = { condition := .up, tags := List.replicate 16 ⟨false, 0, 0, 0⟩ } := by
  cases p <;> rfl

/-- No buffer is charged or claimed after reset (R82). -/
theorem reset_pool (o : BufOwner) : State.reset.pool.charge o = 0 ∧ State.reset.pool.claims o = [] := by
  cases o with
  | host p => cases p <;> exact ⟨rfl, rfl⟩
  | internal => exact ⟨rfl, rfl⟩

/-- Both ports' Management Unit state after reset (R182). -/
theorem reset_mg (p : Port) : (State.reset.mg p).lastSeq = none ∧ (State.reset.mg p).inProgress = none ∧
    (State.reset.mg p).response.state = .none ∧ (State.reset.mg p).notices = [] ∧
    (State.reset.mg p).incomplete = false ∧ (State.reset.mg p).nextNumber = 1 := by
  cases p <;> exact ⟨rfl, rfl, rfl, rfl, rfl, rfl⟩

/-- Settles O3: the command by its definition, and each unit after reset. -/
theorem deviceResetReturnsEveryUnit : Obligations.DeviceResetReturnsEveryUnit :=
  ⟨exec_deviceReset,
    rfl, rfl, rfl, rfl, rfl, rfl, rfl,
    rfl, rfl, rfl, rfl, rfl, rfl, rfl,
    rfl, rfl, rfl, rfl, rfl, rfl, rfl,
    reset_hp,
    rfl, rfl, rfl, rfl, rfl, rfl, rfl,
    reset_pool,
    rfl, rfl, rfl, rfl, rfl,
    rfl, rfl, rfl, rfl, rfl,
    rfl, rfl, rfl,
    reset_mg⟩

end Sys2Proof.Machine
end

section
/-! SUPPORT. Management requests on the staging map and ACTIVATE, the access decision, and what map validation gives. -/

namespace Sys2Proof.Machine

variable {s : State} {p : Port} {q : BitVec 16}

/-! ## A request that reaches its owner (R170, R171) -/

/-- A request that reaches its owner, whatever the owner makes of it. -/
theorem exec_taken {i : Instr} {r : MReq} {t : State} (h : s.accepts p q) (hi : exec i s = .next (request p q r s))
    (ht : takeOwner p r (s.inProgressFor p q r.code) = t) : exec i s = .next t := by
  rw [hi, request_taken h, ht]

/-- A request that its owner answers and does nothing else for. -/
theorem exec_answered {i : Instr} {r : MReq} {res : Reply} {n1 n2 n3 n4 : Nat} {items : List (List Byte)}
    (h : s.accepts p q) (hi : exec i s = .next (request p q r s))
    (ht : takeOwner p r (s.inProgressFor p q r.code) =
      answer (some p) res n1 n2 n3 n4 items (s.inProgressFor p q r.code)) :
    exec i s = .next (s.answered p q r.code res n1 n2 n3 n4 items) :=
  exec_taken h hi (ht.trans (answer_inProgressFor ..))

/-- A request answered DONE_OK whose effect is on the maps. -/
theorem exec_mapped {i : Instr} {r : MReq} {f : MapUnit → MapUnit} (h : s.accepts p q)
    (hi : exec i s = .next (request p q r s))
    (ht : takeOwner p r (s.inProgressFor p q r.code) =
      answerPlain (some p) .doneOk (setMap f (s.inProgressFor p q r.code))) :
    exec i s = .next (State.plainly { s with map := f s.map } p q r.code .doneOk) :=
  exec_taken h hi (ht.trans (answerPlain_setMap ..))

/-- Settles O41: a request by its sequence, before the mount, and with an unknown code. -/
theorem requestsAreJudgedBeforeTheirOwner : Obligations.RequestsAreJudgedBeforeTheirOwner := by
  refine ⟨fun i p q code s h => ?_, fun i p q code s h hc hm => ?_, fun p q code s h => ?_⟩
  · obtain ⟨r, rfl, e⟩ := exec_request h s
    rw [e]
    refine ⟨fun hb => ?_, fun hn hl => ?_, fun hn l hl h1 h2 => ?_⟩
    · rw [request_busy hb]
    · rw [request_duplicate hn hl]
    · rw [request_outOfSequence hn hl h1 h2]
      rfl
  · obtain ⟨r, rfl, e⟩ := exec_request h s
    rw [e, request_notReady hc hm]
  · exact exec_answered (r := .unknown code) h rfl rfl

/-! ## The staging map (R10 to R13) -/

/-- STAGE while the other port does not hold the stage claim. -/
theorem reqStage_free (h : ∀ m, s.map.stage ≠ some (p.other, m)) :
    reqStage p s = answerPlain (some p) .doneOk (setStaged p s.map.active s) := by
  unfold reqStage
  split
  · rename_i o m e
    have ho : o = p := by
      have hn : o ≠ p.other := fun x => h m (x ▸ e)
      cases o <;> cases p <;> simp_all [Port.other]
    rw [if_pos ho]
  · rfl

/-- STAGE while the other port holds the stage claim. -/
theorem reqStage_held {m : RegionMap} (h : s.map.stage = some (p.other, m)) :
    reqStage p s = answerPlain (some p) .stageHeld s := by
  have hn : p.other ≠ p := by cases p <;> decide
  unfold reqStage
  rw [h]
  exact if_neg hn

/-- Settles O42: STAGE by the holder of the stage claim. -/
theorem stageTakesTheClaimOrIsRefused : Obligations.StageTakesTheClaimOrIsRefused := by
  intro p q s h
  refine ⟨fun hs => ?_, fun m hs => ?_⟩
  · refine exec_mapped (r := .stage) (f := fun u => { u with stage := some (p, u.active) }) h rfl ?_
    exact reqStage_free (by simpa using hs)
  · exact exec_answered (r := .stage) h rfl (reqStage_held (m := m) (by simpa using hs))

/-- A policy code above 4 names no policy (R1). -/
theorem Policy.ofCode_of_gt {n : Nat} (h : 4 < n) : Policy.ofCode n = none := by
  obtain ⟨k, rfl⟩ := Nat.exists_eq_add_of_le' h
  rfl

/-- PUT_REGION without the stage claim. -/
theorem reqPutRegion_noStage {index policy first count target : Nat} {rp wp : PortSet} (h : s.stagedBy p = none) :
    reqPutRegion p index policy rp wp first count target s = answerPlain (some p) .noStage s := by
  unfold reqPutRegion
  rw [h]

/-- PUT_REGION with an index or a policy code that names nothing. -/
theorem reqPutRegion_badParameter {index policy first count target : Nat} {rp wp : PortSet} {m : RegionMap}
    (h : s.stagedBy p = some m) (hb : 31 < index ∨ 4 < policy) :
    reqPutRegion p index policy rp wp first count target s = answerPlain (some p) .badParameter s := by
  unfold reqPutRegion
  rw [h]
  dsimp only
  split
  · rfl
  · rename_i pol hp
    have hi : 31 < index := hb.resolve_right fun x => by simp [Policy.ofCode_of_gt x] at hp
    rw [if_pos hi]

/-- PUT_REGION from the holder with an index and a policy (R11). -/
theorem reqPutRegion_judged {index policy first count target : Nat} {rp wp : PortSet} {m : RegionMap} {pol : Policy}
    (h : s.stagedBy p = some m) (hi : index ≤ 31) (hp : Policy.ofCode policy = some pol) :
    reqPutRegion p index policy rp wp first count target s =
      if count < 8 then refuseMap p index .count s
      else if first % 8 = 0 ∧ count % 8 = 0 ∧ target % 8 = 0 then
        answerPlain (some p) .doneOk (setStaged p (m.put index ⟨true, pol, rp, wp, first, count, target⟩) s)
      else refuseMap p index .align s := by
  unfold reqPutRegion RegionMap.put
  rw [h, hp]
  dsimp only
  rw [if_neg (Nat.not_lt.2 hi)]
  congr 1
  by_cases ha : first % 8 = 0 ∧ count % 8 = 0 ∧ target % 8 = 0
  · rw [if_pos ha, if_neg (by simp [ha])]
  · rw [if_neg ha, if_pos (by simpa [imp_iff_not_or, or_assoc] using ha)]

/-- Settles O43: PUT_REGION by its first check that fails. -/
theorem putRegionChecksInOrder : Obligations.PutRegionChecksInOrder := by
  intro p q index policy rp wp first count target s h
  refine ⟨fun hs => ?_, fun m hs => ⟨fun hb => ?_, fun pol hi hp => ?_⟩⟩
  · exact exec_answered (r := .putRegion index policy rp wp first count target) h rfl
      (reqPutRegion_noStage (by simpa using stagedBy_none hs))
  · exact exec_answered (r := .putRegion index policy rp wp first count target) h rfl
      (reqPutRegion_badParameter (m := m) (by simpa using stagedBy_some hs) hb)
  · have e := reqPutRegion_judged (s := s.inProgressFor p q 0x02) (rp := rp) (wp := wp) (first := first) (count := count)
      (target := target) (by simpa using stagedBy_some hs) hi hp
    refine ⟨fun hc => ?_, fun hc ha => ?_, fun hc h1 h2 h3 => ?_⟩
    · rw [if_pos hc] at e
      exact exec_answered (r := .putRegion index policy rp wp first count target) h rfl e
    · rw [if_neg (Nat.not_lt.2 hc), if_neg ha] at e
      exact exec_answered (r := .putRegion index policy rp wp first count target) h rfl e
    · rw [if_neg (Nat.not_lt.2 hc), if_pos ⟨h1, h2, h3⟩] at e
      exact exec_mapped (r := .putRegion index policy rp wp first count target) h rfl e

/-- CLEAR_REGION and SET_CAPACITY without the stage claim. -/
theorem reqEdit_noStage (index c : Nat) (h : s.stagedBy p = none) :
    reqClearRegion p index s = answerPlain (some p) .noStage s ∧
      reqSetCapacity p c s = answerPlain (some p) .noStage s := by
  unfold reqClearRegion reqSetCapacity
  rw [h]
  exact ⟨rfl, rfl⟩

/-- CLEAR_REGION from the holder of the stage claim. -/
theorem reqClearRegion_staged {m : RegionMap} (index : Nat) (h : s.stagedBy p = some m) :
    reqClearRegion p index s = if 31 < index then answerPlain (some p) .badParameter s
      else answerPlain (some p) .doneOk (setStaged p (m.put index Region.unused) s) := by
  unfold reqClearRegion
  rw [h]
  rfl

/-- SET_CAPACITY from the holder of the stage claim. -/
theorem reqSetCapacity_staged {m : RegionMap} (c : Nat) (h : s.stagedBy p = some m) :
    reqSetCapacity p c s = if c % 8 = 0 ∧ c ≤ 2 ^ 40 - 8 then
        answerPlain (some p) .doneOk (setStaged p { m with cap := c } s)
      else answerPlain (some p) .badParameter s := by
  unfold reqSetCapacity
  rw [h]
  rfl

/-- UNSTAGE from a port without the stage claim. -/
theorem reqUnstage_noStage (h : s.stagedBy p = none) : reqUnstage p s = answerPlain (some p) .noStage s := by
  unfold reqUnstage
  rw [h]

/-- UNSTAGE from the holder of the stage claim. -/
theorem reqUnstage_staged {m : RegionMap} (h : s.stagedBy p = some m) :
    reqUnstage p s = answerPlain (some p) .doneOk (setMap (dropStage p) s) := by
  unfold reqUnstage
  rw [h]

/-- With no activation in progress the end of a stage claim ends its staging map and nothing else (R13). -/
theorem dropStage_idle {u : MapUnit} {m : RegionMap} (h : u.stage = some (p, m)) (ha : u.activation = none) :
    dropStage p u = { u with stage := none } := by
  unfold dropStage
  simp [h, ha]

/-- Settles O44: CLEAR_REGION, SET_CAPACITY and UNSTAGE by the stage claim and the parameter. -/
theorem clearRegionSetCapacityAndUnstage : Obligations.ClearRegionSetCapacityAndUnstage := by
  refine ⟨fun p q index c s h => ⟨fun hs => ?_, fun m hs => ?_⟩, fun p q s h => ⟨fun hs => ?_, fun m hs ha => ?_⟩⟩
  · have hn (code : Nat) : (s.inProgressFor p q code).stagedBy p = none := by simpa using stagedBy_none hs
    exact ⟨exec_answered (r := .clearRegion index) h rfl (reqEdit_noStage index c (hn _)).1,
      exec_answered (r := .setCapacity c) h rfl (reqEdit_noStage index c (hn _)).2⟩
  · have hm (code : Nat) : (s.inProgressFor p q code).stagedBy p = some m := by simpa using stagedBy_some hs
    have ec := reqClearRegion_staged index (hm 0x03)
    have es := reqSetCapacity_staged c (hm 0x04)
    refine ⟨fun hi => ?_, fun hi => ?_, fun h1 h2 => ?_, fun hc => ?_⟩
    · exact exec_answered (r := .clearRegion index) h rfl (ec.trans (if_pos hi))
    · exact exec_mapped (r := .clearRegion index) h rfl (ec.trans (if_neg (Nat.not_lt.2 hi)))
    · exact exec_mapped (r := .setCapacity c) h rfl (es.trans (if_pos ⟨h1, h2⟩))
    · exact exec_answered (r := .setCapacity c) h rfl (es.trans (if_neg hc))
  · exact exec_answered (r := .unstage) h rfl (reqUnstage_noStage (by simpa using stagedBy_none hs))
  · rw [← dropStage_idle hs ha]
    exact exec_mapped (r := .unstage) h rfl (reqUnstage_staged (m := m) (by simpa using stagedBy_some hs))

/-! ## ACTIVATE (R14, R16, R56) -/

@[simp] theorem storeBusy_inProgressFor (s : State) (p : Port) (q : BitVec 16) (code : Nat) :
    (s.inProgressFor p q code).storeBusy = s.storeBusy := by
  unfold State.storeBusy State.mapBusy
  simp

@[simp] theorem capacity_inProgressFor (s : State) (p : Port) (q : BitVec 16) (code : Nat) :
    (s.inProgressFor p q code).capacity = s.capacity := by
  unfold State.capacity
  simp

@[simp] theorem blockedIndex_inProgressFor (s : State) (p : Port) (q : BitVec 16) (code : Nat) (m : RegionMap) :
    (s.inProgressFor p q code).blockedIndex m = s.blockedIndex m := blockedIndex_congr m (by simp) (by simp)

/-- What makes the store busy (R14, R103, R113). -/
theorem storeBusy_iff : s.storeBusy = true ↔ s.mrg.state ≠ .none ∨ s.mrg.discard.isSome = true ∨
    s.map.activation.isSome = true ∨ s.mnt.format.isSome = true := by
  simp [State.storeBusy, State.mapBusy, or_assoc]

/-- ACTIVATE without the stage claim. -/
theorem reqActivate_noStage (h : s.stagedBy p = none) : reqActivate p s = answerPlain (some p) .noStage s := by
  unfold reqActivate
  rw [h]

/-- ACTIVATE from the holder under the hold state. -/
theorem reqActivate_held {m : RegionMap} (h : s.stagedBy p = some m) (hh : s.map.hold = true) :
    reqActivate p s = answerPlain (some p) .held s := by
  unfold reqActivate
  rw [h]
  exact if_pos hh

/-- ACTIVATE from the holder while the store is busy. -/
theorem reqActivate_busy {m : RegionMap} (h : s.stagedBy p = some m) (hh : s.map.hold = false)
    (hb : s.storeBusy = true) : reqActivate p s = answerPlain (some p) .busy s := by
  unfold reqActivate
  simp only [h, hh, hb, Bool.false_eq_true, if_false, if_true]

/-- ACTIVATE from the holder of a staged map that fails validation (R14). -/
theorem reqActivate_invalid {m : RegionMap} {i : Nat} {why : MapReason} (h : s.stagedBy p = some m)
    (hh : s.map.hold = false) (hb : s.storeBusy = false) (hf : mapFault m s.map.layout s.capacity = some (i, why)) :
    reqActivate p s = refuseMap p i why s := by
  unfold reqActivate
  simp only [h, hh, hb, hf, Bool.false_eq_true, if_false]

/-- ACTIVATE from the holder of a valid staged map that changes an index with entries (R14, R15). -/
theorem reqActivate_blocked {m : RegionMap} {i : Nat} (h : s.stagedBy p = some m) (hh : s.map.hold = false)
    (hb : s.storeBusy = false) (hf : mapFault m s.map.layout s.capacity = none) (hx : s.blockedIndex m = some i) :
    reqActivate p s = answer (some p) .regionHasOverlay 0 0 0 0 [indexItem i 0] s := by
  unfold reqActivate
  simp only [h, hh, hb, hf, hx, Bool.false_eq_true, if_false]

/-- ACTIVATE from the holder that no condition refuses (R16). -/
theorem reqActivate_starts {m : RegionMap} (h : s.stagedBy p = some m) (hh : s.map.hold = false)
    (hb : s.storeBusy = false) (hf : mapFault m s.map.layout s.capacity = none) (hx : s.blockedIndex m = none) :
    reqActivate p s = startActivation p m s := by
  unfold reqActivate
  simp only [h, hh, hb, hf, hx, Bool.false_eq_true, if_false]

/-- The drain counts the records of path REGION and PLAIN, and with none the anchor write's buffers are claimed at once
(R16, R56). -/
theorem startActivation_free {m : RegionMap} (h : s.blockedIndex m = none) :
    startActivation p m s = { s with
      adm := { s.adm with
        pause := true,
        records := s.adm.records.map fun r => { r with
          counted := decide (r.path = some .region) || decide (r.path = some .plain) } },
      map := { s.map with
        activation := some
          { map := m, port := p, owed := some p, claimKept := true,
            remaining := (s.adm.records.filter Record.drains).length,
            draining := decide (0 < (s.adm.records.filter Record.drains).length) } },
      pool := { s.pool with claimsI := s.pool.claimsI ++
        (if (s.adm.records.filter Record.drains).length = 0 then [⟨.anchor, 3⟩] else []) } } := by
  unfold startActivation
  dsimp only
  split
  · rename_i hn
    rw [endDrain_free (by simpa [State.blockedIndex, State.entryCount] using h)]
    simp only [hn]
    rfl
  · rename_i hn
    simp only [Nat.pos_of_ne_zero hn, decide_true, List.append_nil]
    rfl

/-- Settles O45: ACTIVATE by the first condition that refuses it, and its start. -/
theorem activateIsRefusedOrStarts : Obligations.ActivateIsRefusedOrStarts := by
  refine ⟨fun p q s h => ⟨fun hs => ?_, fun m hs => ?_⟩, fun p q m s h hs hh hb hf hx => ?_⟩
  · exact exec_answered (r := .activate) h rfl (reqActivate_noStage (by simpa using stagedBy_none hs))
  · have hm : (s.inProgressFor p q 0x06).stagedBy p = some m := by simpa using stagedBy_some hs
    refine ⟨fun hh => ?_, fun hh => ⟨fun hb => ?_, fun hb => ⟨fun i why hf => ?_, fun i hf hx => ?_⟩⟩⟩
    · exact exec_answered (r := .activate) h rfl (reqActivate_held hm (by simpa using hh))
    · exact exec_answered (r := .activate) h rfl
        (reqActivate_busy hm (by simpa using hh) (by simpa using storeBusy_iff.2 hb))
    · exact exec_answered (r := .activate) h rfl
        (reqActivate_invalid hm (by simpa using hh) (by simpa using hb) (by simpa using hf))
    · exact exec_answered (r := .activate) h rfl
        (reqActivate_blocked hm (by simpa using hh) (by simpa using hb) (by simpa using hf) (by simpa using hx))
  · have e := (reqActivate_starts (p := p) (m := m) (s := s.inProgressFor p q 0x06) (by simpa using stagedBy_some hs)
      (by simpa using hh) (by simpa using hb) (by simpa using hf) (by simpa using hx)).trans
        (startActivation_free (by simpa using hx))
    refine ⟨_, exec_taken (r := .activate) h rfl e, ?_⟩
    cases p <;> exact ⟨rfl, rfl, rfl, rfl, rfl, rfl, rfl, rfl, rfl, rfl⟩

/-! ## The access decision (R5, R6, R7) -/

/-- The access decision for a port that may make the access, of a region that is not DENY (R7). -/
theorem accessDecision_inPorts {eff : Policy} {write : Bool} {p : Port} {r : Region} (unavailable : Bool)
    (cond : JCondition) (hd : eff ≠ .deny) (hp : (if write then r.writePorts else r.readPorts).has p = true) :
    accessDecision eff write p r unavailable cond =
      if write = true ∧ eff = .readonly then some .writeProtected
      else if unavailable = true then some .unavailable
      else if write = true ∧ eff = .keep ∧ cond = .fault then some .journalFault
      else none := by
  unfold accessDecision
  rw [if_neg hd]
  cases write with
  | false => simp [show r.readPorts.has p = true from hp]
  | true => simp [show r.writePorts.has p = true from hp]

/-- Settles O53: the table of R6 by the policy and the layout, and the conditions of R7 one after the other. -/
theorem accessDecisionTakesTheFirstCondition : Obligations.AccessDecisionTakesTheFirstCondition := by
  refine ⟨fun pol layout => by cases pol <;> rfl, fun layout => ?_, fun eff write p r unavailable cond => ?_⟩
  · cases layout <;> exact ⟨rfl, rfl, rfl, rfl, rfl, rfl, rfl, rfl, rfl⟩
  · refine ⟨fun hd => ?_, fun hd => ⟨fun hw hr => ?_, fun hw hr => ?_, fun hp => ?_⟩⟩
    · simp [accessDecision, hd]
    · simp [accessDecision, hd, hw, hr]
    · simp [accessDecision, hd, hw, hr]
    · rw [accessDecision_inPorts unavailable cond hd hp]
      refine ⟨fun hw he => if_pos ⟨hw, he⟩, fun he => ?_⟩
      rw [if_neg he]
      refine ⟨fun hu => if_pos hu, fun hu => ?_⟩
      rw [if_neg (by simp [hu])]
      exact ⟨fun hw hk hf => if_pos ⟨hw, hk, hf⟩, fun hn => if_neg hn⟩

/-! ## Map validation (R3, R4) -/

/-- Ranges that do not meet share no number. -/
theorem ne_of_not_rangesMeet {a n b m x y : Nat} (h : rangesMeet a n b m = false) (hx : a ≤ x ∧ x < a + n)
    (hy : b ≤ y ∧ y < b + m) : x ≠ y := by
  simp [rangesMeet] at h
  omega

/-- The checks of R3 that an in-use region of a valid map has passed. -/
structure RegionMap.Checked (m : RegionMap) (capacity i : Nat) : Prop where
  mapEnd      : (m.region i).first + (m.region i).count ≤ m.cap
  targetEnd   : (m.region i).target + (m.region i).count ≤ capacity
  anchorArea  : rangesMeet (m.region i).target (m.region i).count 0 8 = false
  logical     : ∀ j, j < i → (m.region j).inUse = true →
    rangesMeet (m.region i).first (m.region i).count (m.region j).first (m.region j).count = false
  target      : ∀ j, j < i → (m.region j).inUse = true →
    rangesMeet (m.region i).target (m.region i).count (m.region j).target (m.region j).count = false

theorem checked_of_regionFault {m : RegionMap} {layout : Option Layout} {capacity i : Nat}
    (h : regionFault m layout capacity i = none) : m.Checked capacity i := by
  have lower {f : Region → Bool} (hf : (((List.range i).map m.region).filter (·.inUse)).any f = false) :
      ∀ j, j < i → (m.region j).inUse = true → f (m.region j) = false := by
    intro j hj hu
    simpa using List.any_eq_false.1 hf (m.region j)
      (List.mem_filter.2 ⟨List.mem_map.2 ⟨j, List.mem_range.2 hj, rfl⟩, hu⟩)
  unfold regionFault at h
  dsimp only at h
  split at h; · cases h
  split at h; · cases h
  split at h; · cases h
  rename_i hcap
  split at h; · cases h
  rename_i hlog
  split at h; · cases h
  rename_i hrange
  split at h; · cases h
  rename_i htgt
  have hr : targetRangeOk (m.region i) layout capacity = true := by simpa using hrange
  unfold targetRangeOk at hr
  simp only [Bool.and_eq_true, decide_eq_true_eq, Bool.not_eq_true'] at hr
  obtain ⟨⟨hend, hanchor⟩, _⟩ := hr
  exact ⟨Nat.not_lt.1 hcap, hend, hanchor, lower (Bool.eq_false_iff.2 hlog), lower (Bool.eq_false_iff.2 htgt)⟩

/-- Every in-use region of a valid map has passed the checks of R3. -/
theorem checked_of_mapFault {m : RegionMap} {layout : Option Layout} {capacity i : Nat}
    (h : mapFault m layout capacity = none) (hi : i < 32) (hu : (m.region i).inUse = true) : m.Checked capacity i := by
  have e := List.findSome?_eq_none_iff.1 h i (List.mem_range.2 hi)
  rw [if_pos hu] at e
  exact checked_of_regionFault (Option.map_eq_none_iff.1 e)

theorem Region.holds_iff {r : Region} {b : Nat} :
    r.holds b = true ↔ r.inUse = true ∧ r.first ≤ b ∧ b < r.first + r.count := by
  simp [Region.holds]

/-- The base location of a block of a region is in the region's target range (R1). -/
theorem Region.base_mem {r : Region} {b : Nat} (h : r.holds b = true) :
    r.target ≤ r.base b ∧ r.base b < r.target + r.count := by
  have := Region.holds_iff.1 h
  unfold Region.base
  omega

/-- Of two regions of a valid map, the one of higher index shares neither a logical nor a target block with the other. -/
theorem ne_of_checked {m : RegionMap} {capacity i j b c : Nat} (h : m.Checked capacity i) (hj : j < i)
    (hb : (m.region i).holds b = true) (hc : (m.region j).holds c = true) :
    b ≠ c ∧ (m.region i).base b ≠ (m.region j).base c := by
  have hu := (Region.holds_iff.1 hc).1
  exact ⟨ne_of_not_rangesMeet (h.logical j hj hu) (Region.holds_iff.1 hb).2 (Region.holds_iff.1 hc).2,
    ne_of_not_rangesMeet (h.target j hj hu) (Region.base_mem hb) (Region.base_mem hc)⟩

/-- Two regions of a valid map share neither a logical nor a target block. -/
theorem ne_of_mapFault {m : RegionMap} {layout : Option Layout} {capacity i j b c : Nat}
    (h : mapFault m layout capacity = none) (hi : i < 32) (hj : j < 32) (hij : i ≠ j)
    (hb : (m.region i).holds b = true) (hc : (m.region j).holds c = true) :
    b ≠ c ∧ (m.region i).base b ≠ (m.region j).base c := by
  rcases Nat.lt_or_gt_of_ne hij with hlt | hlt
  · exact (ne_of_checked (checked_of_mapFault h hj (Region.holds_iff.1 hc).1) hlt hc hb).imp Ne.symm Ne.symm
  · exact ne_of_checked (checked_of_mapFault h hi (Region.holds_iff.1 hb).1) hlt hb hc

/-- Settles O54: the pairs by the higher of two indices, and one region by its own checks. -/
theorem regionsOfAValidMapDoNotOverlap : Obligations.RegionsOfAValidMapDoNotOverlap := by
  intro m layout capacity h
  refine ⟨fun i j b hi hj hij hb => ?_, fun i j b c hi hj hij hb hc => (ne_of_mapFault h hi hj hij hb hc).2,
    fun i b hi hb => ?_⟩
  · exact Bool.eq_false_iff.2 fun hc => (ne_of_mapFault h hi hj hij hb hc).1 rfl
  · have k := checked_of_mapFault h hi (Region.holds_iff.1 hb).1
    have hl := (Region.holds_iff.1 hb).2
    have ht := Region.base_mem hb
    have hlow : 8 ≤ (m.region i).base b := by
      by_contra x
      exact ne_of_not_rangesMeet k.anchorArea ht (y := (m.region i).base b) ⟨Nat.zero_le _, by omega⟩ rfl
    exact ⟨Nat.lt_of_lt_of_le hl.2 k.mapEnd, Nat.lt_of_lt_of_le ht.2 k.targetEnd, hlow⟩

end Sys2Proof.Machine
end

section
/-! SUPPORT. The end of a target operation and its owner: the anchor write of an activation, and the writes of a
checkpoint run. -/

namespace Sys2Proof.Machine

variable {s : State}

/-! ## STATUS of an operation (R73, R83, R85) -/

/-- An act that ends with a final outcome while the link is UP has nothing left to fail (R99). -/
theorem settleDown_finalOutcome {r : Request} {got : List Block} {out : TOutcome} (h : s.te.link = .up) :
    settleDown (finalOutcome r got out s) = finalOutcome r got out s := by
  refine settleDown_of_link ?_
  rw [(keeps_finalOutcome r got out (Keeps.refl s)).link, h]
  simp

/-- STATUS OK of an operation whose every block was transferred is its final outcome OK. -/
theorem exec_status_ok {tag done value : Nat} {detail : Option Nat} {o : TargetOp} (hl : s.te.link = .up)
    (ho : s.op? tag = some o) (hs : o.stop = none) (hc : o.complete = true) :
    exec (.targetStatus tag 0x00 done detail value) s = .next (finalOutcome o.req o.got .ok (removeOp o.tag s)) := by
  have e : takeStatus tag 0x00 done detail value s = finalOutcome o.req o.got .ok (removeOp o.tag s) := by
    unfold takeStatus endOp
    simp only [hl, ho, hs, hc, if_true]
  have f := settleDown_finalOutcome (s := removeOp o.tag s) (r := o.req) (got := o.got) (out := .ok) hl
  exact congrArg _ ((congrArg settleDown e).trans f)

/-- A media failure of an operation that reads no slot is a final outcome other than OK; a free place may have been drawn for
it (R83, R85). -/
theorem mediaEnd_final {o : TargetOp} (done : Nat) (detail : Option Nat) (h : s.slotRead o.req = false) :
    ∃ got out n, out ≠ TOutcome.ok ∧ mediaEnd o done detail s = finalOutcome o.req got out { s with free := n } := by
  unfold mediaEnd
  split
  · exact ⟨[], .fault, s.free, by simp, rfl⟩
  · rw [if_neg (by simp [h])]
    unfold failingPlace
    dsimp only
    split
    · exact ⟨_, _, s.free, by simp, rfl⟩
    · exact ⟨_, _, s.free + 1, by simp, rfl⟩

/-- STATUS MEDIA_ERROR of an operation that reads no slot ends it with an outcome other than OK. -/
theorem exec_status_media {tag : Nat} (done value : Nat) (detail : Option Nat) {o : TargetOp} (hl : s.te.link = .up)
    (ho : s.op? tag = some o) (hs : o.stop = none) (hr : (removeOp o.tag s).slotRead o.req = false) :
    ∃ got out n, out ≠ TOutcome.ok ∧ exec (.targetStatus tag 0x0C done detail value) s =
      .next (finalOutcome o.req got out { removeOp o.tag s with free := n }) := by
  obtain ⟨got, out, n, hne, e⟩ := mediaEnd_final done detail hr
  refine ⟨got, out, n, hne, ?_⟩
  have k : takeStatus tag 0x0C done detail value s = mediaEnd o done detail (removeOp o.tag s) := by
    unfold takeStatus endOp
    simp only [hl, ho, hs, if_true]
  have f := settleDown_finalOutcome (s := { removeOp o.tag s with free := n }) (r := o.req) (got := got) (out := out) hl
  exact congrArg _ ((congrArg settleDown (k.trans e)).trans f)

/-! ## Responses and notices (R171, R178) -/

/-- The response of a port that is answered (R171). -/
@[simp] theorem mg_answer (p : Port) (res : Reply) (n1 n2 n3 n4 : Nat) (items : List (List Byte)) (s : State) :
    (answer (some p) res n1 n2 n3 n4 items s).mg p = { s.mg p with
      inProgress := none,
      response := { (s.mg p).response with
        state := .done, result := some res, n1 := n1, n2 := n2, n3 := n3, n4 := n4, items := items } } := by
  unfold answer
  exact mg_setMg ..

/-- An answer touches no notice queue. -/
@[simp] theorem notices_answer (owed : Option Port) (res : Reply) (n1 n2 n3 n4 : Nat) (items : List (List Byte))
    (s : State) (p : Port) : ((answer owed res n1 n2 n3 n4 items s).mg p).notices = (s.mg p).notices := by
  unfold answer
  split
  · rfl
  · rename_i o
    cases o <;> cases p <;> rfl

@[simp] theorem mg_raise (b : NoticeBody) (r : Option Nat) (s : State) (p : Port) :
    (raise b r s).mg p = offer b r (s.mg p) := by
  cases p <;> rfl

theorem respondedWith_congr {s t : State} {p : Port} {res : Reply} {n1 n2 n3 n4 : Nat} (h : t.mg p = s.mg p) :
    t.respondedWith p res n1 n2 n3 n4 ↔ s.respondedWith p res n1 n2 n3 n4 := by
  unfold State.respondedWith
  rw [h]

/-- A port that is answered has its response. -/
theorem respondedWith_answer (p : Port) (res : Reply) (n1 n2 n3 n4 : Nat) (items : List (List Byte)) (s : State) :
    (answer (some p) res n1 n2 n3 n4 items s).respondedWith p res n1 n2 n3 n4 := by
  unfold State.respondedWith
  simp

/-! ## The anchor write of an activation (R15 to R18) -/

/-- DRAIN_END while the drain of an activation runs. -/
theorem exec_drainEnd {a : Activation} (h : s.map.activation = some a) (hd : a.draining = true) :
    exec .drainEnd s = .next (if a.remaining = 0 then endDrain a s else s) := by
  show Host.Outcome.next _ = _
  simp only [h, hd, Bool.true_and, decide_eq_true_eq]

/-- The end of the anchor write of an activation. -/
theorem anchorEnd_activation {a : Activation} {out : TOutcome} (h : s.map.activation = some a) :
    anchorEnd out s = if out = .ok then activationSucceeds a (release .internal 3 s)
      else activationFails a .anchorFault [] (release .internal 3 s) := by
  unfold anchorEnd
  simp only [release_map, h]

/-- An activation that does not succeed: what R18 says of it, and the response. -/
theorem activationFails_facts {a : Activation} {p : Port} (h : a.owed = some p) (res : Reply) (items : List (List Byte)) :
    (activationFails a res items s).map = { s.map with activation := none } ∧
      (activationFails a res items s).adm.pause = false ∧
      ((activationFails a res items s).mg p).inProgress = none ∧
      ((activationFails a res items s).mg p).response.state = .done ∧
      ((activationFails a res items s).mg p).response.result = some res ∧
      ((activationFails a res items s).mg p).response.items = items := by
  unfold activationFails
  rw [h]
  simp [setMap, setPause]

@[simp] theorem leaveBlank_map (s : State) : (leaveBlank s).map = s.map := by
  unfold leaveBlank
  split <;> rfl

@[simp] theorem leaveBlank_adm (s : State) : (leaveBlank s).adm = s.adm := by
  unfold leaveBlank
  split <;> rfl

@[simp] theorem leaveBlank_mg (s : State) (p : Port) : (leaveBlank s).mg p = s.mg p := by
  unfold leaveBlank
  split <;> rfl

/-- A device state of BLANK becomes READY (R17). -/
theorem leaveBlank_dev (h : s.mnt.dev = .blank) : (leaveBlank s).mnt.dev = .ready := by
  unfold leaveBlank
  rw [if_pos h]

/-- A successful activation: what R17 says of the maps, the pause and the device state, and the response. -/
theorem activationSucceeds_facts {a : Activation} {p : Port} (h : a.owed = some p) :
    (activationSucceeds a s).map = activatedMap a s.map ∧ (activationSucceeds a s).adm.pause = false ∧
      (s.mnt.dev = .blank → (activationSucceeds a s).mnt.dev = .ready) ∧
      ((activationSucceeds a s).mg p).inProgress = none ∧
      ((activationSucceeds a s).mg p).response.state = .done ∧
      ((activationSucceeds a s).mg p).response.result = some .doneOk ∧
      ((activationSucceeds a s).mg p).response.n1 = s.map.anchorGen + 1 := by
  unfold activationSucceeds
  rw [h]
  refine ⟨?_, ?_, fun hb => leaveBlank_dev (by simpa using hb), ?_⟩
  · simp [setMap]
  · simp [setPause]
  · simp

/-- Settles O31: DRAIN_END by the counted records left and the blocked index, and the anchor write by its result. -/
theorem activationEndsWithTheAnchorWrite : Obligations.ActivationEndsWithTheAnchorWrite := by
  refine ⟨fun s a ha hd => ⟨fun hr => ?_, fun hr hx => ?_, fun hr i p hx hp => ?_⟩,
    fun s tag done value detail o a p hl ho hs hown hop ha hp => ⟨fun hc => ?_, ?_⟩⟩
  · rw [exec_drainEnd ha hd, if_neg hr]
  · rw [exec_drainEnd ha hd, if_pos hr, endDrain_free hx]
    rfl
  · rw [exec_drainEnd ha hd, if_pos hr, endDrain_blocked hx]
    exact ⟨_, rfl, activationFails_facts hp _ _⟩
  · have e := exec_status_ok (done := done) (value := value) (detail := detail) hl ho hs
      (by simpa [TargetOp.complete, hop] using hc)
    have f : finalOutcome o.req o.got .ok (removeOp o.tag s) =
        activationSucceeds a (release .internal 3 (removeOp o.tag s)) := by
      unfold finalOutcome
      simp only [hown]
      exact (anchorEnd_activation (s := removeOp o.tag s) ha).trans (if_pos rfl)
    obtain ⟨hmap, hpause, hdev, hresp⟩ := activationSucceeds_facts (s := release .internal 3 (removeOp o.tag s)) hp
    rw [e, f]
    exact ⟨_, rfl, by rw [hmap]; rfl, by rw [hmap]; rfl, by rw [hmap]; rfl, by rw [hmap]; rfl, hpause, hdev, hresp⟩
  · obtain ⟨got, out, n, hne, e⟩ := exec_status_media done value detail hl ho hs (by simp [State.slotRead, hop])
    have f : finalOutcome o.req got out { removeOp o.tag s with free := n } =
        activationFails a .anchorFault [] (release .internal 3 { removeOp o.tag s with free := n }) := by
      unfold finalOutcome
      simp only [hown]
      exact (anchorEnd_activation (s := { removeOp o.tag s with free := n }) ha).trans (if_neg hne)
    obtain ⟨hmap, hpause, hprog, hstate, hres, _⟩ :=
      activationFails_facts (s := release .internal 3 { removeOp o.tag s with free := n }) hp .anchorFault []
    rw [e, f]
    exact ⟨_, rfl, hmap, hpause, hprog, hstate, hres⟩

/-! ## Checkpoint runs that go on (R126) -/

/-- A body write of the run that stands ends OK. -/
theorem ckBodyEnd_ok {r : CkRun} (h : s.jrn.run = some r) :
    ckBodyEnd r.serial .ok s = runAdvance (setJrn (fun j => { j with run := some { r with unwritten := r.unwritten - 1 } })
      (release .internal 1 s)) := by
  unfold ckBodyEnd
  simp [h]

/-- A write of the run that stands ends otherwise. -/
theorem ckEnd_failed {r : CkRun} {out : TOutcome} (h : s.jrn.run = some r) (hne : out ≠ .ok) :
    ckBodyEnd r.serial out s = runFails r (release .internal 1 s) ∧
      ckHeaderEnd r.serial out s = runFails r (release .internal 1 s) := by
  unfold ckBodyEnd ckHeaderEnd
  simp [h, hne]

/-- The header write of the run that stands ends OK. -/
theorem ckHeaderEnd_ok {r : CkRun} (h : s.jrn.run = some r) :
    ckHeaderEnd r.serial .ok s = runCompletes r (release .internal 1 s) := by
  unfold ckHeaderEnd
  simp [h]

/-- The run enters HEADER once its walk has ended and no block is unwritten. -/
theorem runAdvance_header {r : CkRun} (h : s.jrn.run = some r) (hw : r.walkEnded = true) (hu : r.unwritten = 0)
    (hp : r.phase ≠ .header) : runAdvance s = placeClaim .internal (.ckHeader r.serial) 1
      (setJrn (fun j => { j with run := some { r with phase := .header, claiming := true } }) s) := by
  unfold runAdvance
  simp [h, hw, hu, hp]

/-- While its walk goes on or a block is unwritten, the run looks for its next block. -/
theorem runAdvance_body {r : CkRun} (h : s.jrn.run = some r) (hu : ¬ (r.walkEnded = true ∧ r.unwritten = 0)) :
    runAdvance s = claimBody s := by
  unfold runAdvance
  simp only [h]
  rw [if_neg]
  simp only [Bool.and_eq_true, decide_eq_true_eq]
  exact fun x => hu x.1

theorem claimBody_walkEnded {r : CkRun} (h : s.jrn.run = some r) (hw : r.walkEnded = true) : claimBody s = s := by
  unfold claimBody
  simp [h, hw]

theorem claimBody_next {r : CkRun} (h : s.jrn.run = some r) (hw : r.walkEnded = false) (hc : r.claiming = false)
    (hu : r.unwritten < 4) : claimBody s = placeClaim .internal (.ckBody r.serial) 1
      (setJrn (fun j => { j with run := some { r with claiming := true } }) s) := by
  unfold claimBody
  simp [h, hw, hc, Config.bodyWindow, Nat.not_le.2 hu]

/-! ## Checkpoint runs that complete (R123, R127, R132) -/

/-- The run that starts (R125). -/
theorem startRun_run (origin : CkOrigin) (owed : Option Port) (s : State) :
    ∃ r, (startRun origin owed s).jrn.run = some r ∧ r.origin = origin ∧ r.owed = owed ∧ r.phase = .bitmap :=
  ⟨_, rfl, rfl, rfl, rfl⟩

/-- With no run, an automatic one starts exactly when the live count has reached J - 16 (R123). -/
theorem autoCheckpoint_run (h : s.jrn.run = none) :
    (autoCheckpoint s).jrn.run.isSome = true ↔ s.journalLen ≤ s.jrn.live + 16 := by
  unfold autoCheckpoint
  simp only [h, Option.isNone_none, Bool.true_and, decide_eq_true_eq]
  split
  · rename_i hj
    obtain ⟨r, e, _⟩ := startRun_run .automatic none s
    exact iff_of_true (by simp [e]) hj
  · rename_i hj
    exact iff_of_false (by simp [h]) hj

@[simp] theorem autoCheckpoint_mg (s : State) (p : Port) : (autoCheckpoint s).mg p = s.mg p :=
  mg_congr p (by simp) (by simp)

/-- With an empty open buffer nothing is to be closed (R120). -/
theorem canClose_empty (h : s.jrn.openBuf = []) : s.canClose = false := by
  simp [State.canClose, h]

/-- With an empty open buffer and no hand-off waiting a fall of the live count lets nothing in (R119, R120). -/
theorem journalGoesOn_idle (ho : s.jrn.openBuf = []) (hw : s.jrn.waiting = []) : journalGoesOn s = s := by
  have ht : takeHandOffs s = s := by
    unfold takeHandOffs
    simp only [hw, List.length_nil]
    split <;> rfl
  unfold journalGoesOn closeTest
  simp [canClose_empty ho, ht]

/-- Slots join the ring in order (R26). -/
theorem joinAll_ring (slots : List Nat) (s : State) : (joinAll slots s).ov.ring = s.ov.ring ++ slots := by
  unfold joinAll
  induction slots generalizing s with
  | nil => simp
  | cons n ns ih =>
    rw [List.foldl_cons, ih]
    simp [joinRing]

/-- Once every release is durable, no slot is pending and those that were stand at the ring's tail (R33). -/
theorem freePending_all (s : State) : (freePending (fun _ => true) s).ov.pendingFree = [] ∧
    (freePending (fun _ => true) s).ov.ring = s.ov.ring ++ s.ov.pendingFree.map (·.slot) := by
  unfold freePending
  simp [joinAll_ring]

/-! ## Checkpoint runs that fail (R128, R130) -/

/-- What the act of a failure leaves as it was once FAULT is entered: the condition, the run, the empty list of hand-offs, the
background queue, and the notice queues. -/
structure FaultKeeps (s t : State) : Prop where
  cond    : t.jrn.cond = s.jrn.cond
  run     : t.jrn.run = s.jrn.run
  waiting : s.jrn.waiting = [] → t.jrn.waiting = []
  backQ   : t.te.backQ = s.te.backQ
  notices : ∀ p, (t.mg p).notices = (s.mg p).notices

theorem FaultKeeps.refl (s : State) : FaultKeeps s s := ⟨rfl, rfl, id, rfl, fun _ => rfl⟩

theorem FaultKeeps.trans {s t u : State} (a : FaultKeeps s t) (b : FaultKeeps t u) : FaultKeeps s u :=
  ⟨b.cond.trans a.cond, b.run.trans a.run, b.waiting ∘ a.waiting, b.backQ.trans a.backQ,
    fun p => (b.notices p).trans (a.notices p)⟩

theorem letGo_backQ (r : Record) (s : State) : (letGo r s).te.backQ = s.te.backQ := by
  unfold letGo orphanHandOffs undepend
  simp

theorem letGo_waiting {r : Record} (h : s.jrn.waiting = []) : (letGo r s).jrn.waiting = [] := by
  unfold letGo orphanHandOffs undepend
  simp [setJrn, h]

/-- A record that leaves touches neither the background queue nor an empty list of hand-offs. -/
theorem leave_backQ_waiting (c : CmdId) (s : State) :
    (leave c s).te.backQ = s.te.backQ ∧ (s.jrn.waiting = [] → (leave c s).jrn.waiting = []) := by
  unfold leave
  split
  · exact ⟨rfl, id⟩
  · rename_i r _
    dsimp only
    split
    · refine ⟨by simp [removeRecord, letGo_backQ], fun h => ?_⟩
      simp [removeRecord, letGo_waiting, h]
    · refine ⟨by simp [removeRecord, letGo_backQ], fun h => ?_⟩
      simp [removeRecord, letGo_waiting, h]

theorem faultKeeps_endRecord (c : CmdId) (res : Result) (done : Nat) (d : Option Nat) (v : Nat) (s : State) :
    FaultKeeps s (endRecord c res done d v s) := by
  obtain ⟨hb, hw⟩ := leave_backQ_waiting c (sendStatus c res done d v s)
  refine ⟨by simp, by simp, fun h => hw (by simpa using h), hb.trans (by simp), fun p => ?_⟩
  rw [mg_congr (s := s) p (by simp) (by simp)]

theorem faultKeeps_discardAnswer (s : State) : FaultKeeps s (discardAnswer s) := by
  unfold discardAnswer
  split
  · exact FaultKeeps.refl s
  · refine ⟨by simp, by simp, fun h => by simpa using h, by simp, fun p => ?_⟩
    rw [notices_answer, mg_congr (s := s) p (by simp) (by simp)]

/-- A failure of a checkpoint write with no hand-off waiting and no run left: the condition is FAULT, its notice is offered,
and no run or request is made (R128, R130). -/
theorem enterFault_facts {b : NoticeBody} (hr : s.jrn.run = none) (hw : s.jrn.waiting = []) :
    (enterFault b [] s).jrn.cond = .fault ∧ (enterFault b [] s).jrn.run = none ∧
      (enterFault b [] s).te.backQ = s.te.backQ ∧
      ∀ p, ((enterFault b [] s).mg p).notices = (offer b none (s.mg p)).notices := by
  unfold enterFault
  extract_lets lostIds s1 s2 s3
  have k2 : FaultKeeps s1 s2 := foldl_rel FaultKeeps FaultKeeps.refl (fun _ _ _ => FaultKeeps.trans)
    (fun _ _ => faultKeeps_endRecord ..) _ _
  have k3 : FaultKeeps s1 s3 := by
    refine k2.trans ?_
    unfold s3
    split
    · split
      · exact faultKeeps_discardAnswer s2
      · exact FaultKeeps.refl s2
    · exact FaultKeeps.refl s2
  have hw3 : s3.jrn.waiting = [] := k3.waiting hw
  have hr3 : s3.jrn.run = none := k3.run.trans hr
  rw [hw3]
  refine ⟨k3.cond, ?_, k3.backQ, fun p => (k3.notices p).trans (congrArg _ (mg_raise b none s p))⟩
  show s3.jrn.run.map _ = none
  rw [hr3]
  rfl

/-- A run that is removed has no request left in the background queue (R128). -/
theorem removeRun_backQ (r : CkRun) (s : State) :
    ∀ x ∈ (removeRun r s).te.backQ, Owner.ofRun r.serial x.owner = false := by
  intro x hx
  have h : x ∈ s.te.backQ.filter fun y => !Owner.ofRun r.serial y.owner := hx
  simpa using (List.mem_filter.1 h).2

/-- A run that fails (R128). -/
theorem runFails_facts {r : CkRun} (hw : s.jrn.waiting = []) :
    (runFails r s).jrn.cond = .fault ∧ (runFails r s).jrn.run = none ∧
      (∀ x ∈ (runFails r s).te.backQ, Owner.ofRun r.serial x.owner = false) ∧
      (∀ p, ((runFails r s).mg p).notices = (offer (.journalFaultCheckpoint r.area) none (s.mg p)).notices) ∧
      ∀ p, r.owed = some p → (runFails r s).respondedWith p .journalFault 0 0 0 0 := by
  obtain ⟨hc, hr, hb, hn⟩ := enterFault_facts (s := removeRun r s) (b := .journalFaultCheckpoint r.area) rfl hw
  unfold runFails answerPlain CkRun.owes
  refine ⟨by simpa using hc, by simpa using hr, fun x hx => ?_, fun p => ?_, fun p hp => ?_⟩
  · exact removeRun_backQ r s x (by simpa [hb] using hx)
  · rw [notices_answer, hn]
    rfl
  · rw [hp]
    exact respondedWith_answer ..

/-! ## TARGET_STATUS of a checkpoint write -/

/-- The start sequence, area and generation of a run are in force, and the run is over (R127). -/
def runInForce (r : CkRun) (s : State) : State :=
  setJrn (fun j => { j with sCk := r.start, newest := some r.area, newestGen := r.gen, run := none }) s

@[simp] theorem runInForce_frame (r : CkRun) (s : State) :
    (runInForce r s).jrn = { s.jrn with sCk := r.start, newest := some r.area, newestGen := r.gen, run := none } ∧
      (runInForce r s).map = s.map ∧ (runInForce r s).ov = s.ov ∧ (runInForce r s).mgA = s.mgA ∧
      (runInForce r s).mgB = s.mgB := ⟨rfl, rfl, rfl, rfl, rfl⟩

@[simp] theorem runAnswer_frame (r : CkRun) (s : State) :
    (runAnswer r s).jrn = s.jrn ∧ (runAnswer r s).map = s.map ∧ (runAnswer r s).ov = s.ov := by
  simp [runAnswer]

@[simp] theorem clearUnavailable_unavailable (s : State) :
    (clearUnavailable s).map.unavailable = s.map.unavailable.map fun _ => false := rfl

/-- A checkpoint header under NORMAL with nothing to close or to take (R123, R127). -/
theorem runCompletes_normal {r : CkRun} (hn : s.jrn.cond = .normal) (hw : s.jrn.waiting = []) (ho : s.jrn.openBuf = []) :
    runCompletes r s = autoCheckpoint (runAnswer r (clearUnavailable (runInForce r s))) := by
  unfold runCompletes
  dsimp only
  split
  · exact congrArg (fun u => autoCheckpoint (runAnswer r u))
      (journalGoesOn_idle (s := clearUnavailable (runInForce r s)) ho hw)
  · rename_i hf
    exact absurd (hn.symm.trans hf) (by decide)

/-- A checkpoint header under FAULT: FAULT is left, or a record was missed and a new run starts (R127, R132). -/
theorem runCompletes_fault {r : CkRun} (hf : s.jrn.cond = .fault) : runCompletes r s =
    if r.missed then startRun .automatic r.owed (runInForce r s)
    else autoCheckpoint (runAnswer r (faultClear r (runInForce r s))) := by
  unfold runCompletes
  dsimp only
  split
  · rename_i hn
    exact absurd (hf.symm.trans hn) (by decide)
  · rfl

/-- A run that completes under NORMAL: what is in force, the UNAVAILABLE flags, and whether a new run stands. -/
theorem runCompletes_normal_facts {r : CkRun} (hn : s.jrn.cond = .normal) (hw : s.jrn.waiting = [])
    (ho : s.jrn.openBuf = []) :
    (runCompletes r s).jrn.cond = .normal ∧ (runCompletes r s).jrn.sCk = r.start ∧
      (runCompletes r s).jrn.newest = some r.area ∧ (runCompletes r s).jrn.newestGen = r.gen ∧
      (runCompletes r s).jrn.qNext = s.jrn.qNext ∧
      (runCompletes r s).map.unavailable = s.map.unavailable.map (fun _ => false) ∧
      ((runCompletes r s).jrn.run.isSome = true ↔ s.journalLen ≤ s.jrn.qNext - r.start + 16) := by
  rw [runCompletes_normal hn hw ho]
  refine ⟨by simpa using hn, by simp, by simp, by simp, by simp, by simp, (autoCheckpoint_run (by simp)).trans ?_⟩
  simp [State.journalLen, clearUnavailable, JournalUnit.live]

/-- A run that completes under FAULT with no record missed: FAULT is left (R132). -/
theorem runCompletes_cleared_facts {r : CkRun} (hf : s.jrn.cond = .fault) (hr : r.missed = false) :
    (runCompletes r s).jrn.cond = .normal ∧ (runCompletes r s).jrn.sCk = r.start ∧
      (runCompletes r s).jrn.qNext = r.start ∧ (runCompletes r s).jrn.newest = some r.area ∧
      (runCompletes r s).jrn.newestGen = r.gen ∧
      (runCompletes r s).map.unavailable = s.map.unavailable.map (fun _ => false) ∧
      (runCompletes r s).ov.pendingFree = [] ∧
      (runCompletes r s).ov.ring = s.ov.ring ++ s.ov.pendingFree.map (·.slot) ∧
      ∀ p, ((runCompletes r s).mg p).notices = (offer (.journalCleared r.start) none (s.mg p)).notices := by
  rw [runCompletes_fault hf, if_neg (by simp [hr])]
  obtain ⟨hp, hg⟩ := freePending_all
    (setJrn (fun j => { j with sCk := r.start, qNext := r.start, cond := .normal }) (runInForce r s))
  refine ⟨by simp [faultClear], by simp [faultClear], by simp [faultClear], by simp [faultClear], by simp [faultClear],
    by simp [faultClear], by simpa [faultClear] using hp, by simpa [faultClear] using hg, fun p => ?_⟩
  rw [autoCheckpoint_mg]
  unfold runAnswer faultClear
  rw [notices_answer, mg_raise, mg_congr (s := s) p (by simp) (by simp)]

/-- A run that completes under FAULT with a record missed: an automatic run stands that owes the response (R123, R127). -/
theorem runCompletes_missed_facts {r : CkRun} (hf : s.jrn.cond = .fault) (hr : r.missed = true) :
    ∃ r', (runCompletes r s).jrn.cond = .fault ∧ (runCompletes r s).jrn.run = some r' ∧ r'.origin = .automatic ∧
      r'.owed = r.owed ∧ r'.phase = .bitmap ∧ (runCompletes r s).mgA = s.mgA ∧ (runCompletes r s).mgB = s.mgB := by
  rw [runCompletes_fault hf, if_pos hr]
  obtain ⟨r', hrun, horigin, howed, hphase⟩ := startRun_run .automatic r.owed (runInForce r s)
  exact ⟨r', by simpa using hf, hrun, horigin, howed, hphase, by simp, by simp⟩

/-- A run that completes and does not start anew answers the request it owes (R127). -/
theorem runCompletes_responds {r : CkRun} {p : Port} (h : r.owed = some p)
    (hc : (s.jrn.cond = .normal ∧ s.jrn.waiting = [] ∧ s.jrn.openBuf = []) ∨ (s.jrn.cond = .fault ∧ r.missed = false)) :
    (runCompletes r s).respondedWith p .doneOk r.start r.gen r.area.code 0 := by
  have key (u : State) : (autoCheckpoint (runAnswer r u)).respondedWith p .doneOk r.start r.gen r.area.code 0 := by
    rw [respondedWith_congr (autoCheckpoint_mg _ p)]
    unfold runAnswer CkRun.owes
    rw [h]
    exact respondedWith_answer ..
  rcases hc with ⟨hn, hw, ho⟩ | ⟨hf, hm⟩
  · rw [runCompletes_normal hn hw ho]
    exact key _
  · rw [runCompletes_fault hf, if_neg (by simp [hm])]
    exact key _

/-! ## TARGET_STATUS of a checkpoint write -/

/-- A checkpoint write reads no slot. -/
theorem slotRead_of_run {q : Request} {n : Nat} (h : q.owner = .ckBody n ∨ q.owner = .ckHeader n) :
    s.slotRead q = false := by
  unfold State.slotRead State.pieceSlot
  rcases h with h | h <;> simp [h]

/-- STATUS OK of a body write of the run that stands. -/
theorem exec_body_ok {tag : Nat} (done value : Nat) (detail : Option Nat) {o : TargetOp} {r : CkRun}
    (h : s.carriedOut tag o) (hr : s.jrn.run = some r) (ho : o.req.owner = .ckBody r.serial) :
    exec (.targetStatus tag 0x00 done detail value) s = .next (runAdvance
      (setJrn (fun j => { j with run := some { r with unwritten := r.unwritten - 1 } })
        (release .internal 1 (removeOp o.tag s)))) := by
  obtain ⟨hl, hop, hs, hc⟩ := h
  rw [exec_status_ok hl hop hs hc, ← ckBodyEnd_ok (s := removeOp o.tag s) hr]
  unfold finalOutcome
  simp only [ho]

/-- STATUS OK of the header write of the run that stands. -/
theorem exec_header_ok {tag : Nat} (done value : Nat) (detail : Option Nat) {o : TargetOp} {r : CkRun}
    (h : s.carriedOut tag o) (hr : s.jrn.run = some r) (ho : o.req.owner = .ckHeader r.serial) :
    exec (.targetStatus tag 0x00 done detail value) s =
      .next (runCompletes r (release .internal 1 (removeOp o.tag s))) := by
  obtain ⟨hl, hop, hs, hc⟩ := h
  rw [exec_status_ok hl hop hs hc, ← ckHeaderEnd_ok (s := removeOp o.tag s) hr]
  unfold finalOutcome
  simp only [ho]

/-- STATUS MEDIA_ERROR of a write of the run that stands. -/
theorem exec_run_media {tag : Nat} (done value : Nat) (detail : Option Nat) {o : TargetOp} {r : CkRun}
    (h : s.carriedOut tag o) (hr : s.jrn.run = some r)
    (ho : o.req.owner = .ckBody r.serial ∨ o.req.owner = .ckHeader r.serial) :
    ∃ n, exec (.targetStatus tag 0x0C done detail value) s =
      .next (runFails r (release .internal 1 { removeOp o.tag s with free := n })) := by
  obtain ⟨hl, hop, hs, _⟩ := h
  obtain ⟨got, out, n, hne, e⟩ := exec_status_media done value detail hl hop hs (slotRead_of_run ho)
  obtain ⟨hb, hh⟩ := ckEnd_failed (s := { removeOp o.tag s with free := n }) hr hne
  refine ⟨n, e.trans (congrArg _ ?_)⟩
  unfold finalOutcome
  rcases ho with ho | ho
  · simp only [ho, hb]
  · simp only [ho, hh]

/-- Settles O36: a body write by the walk and the blocks unwritten, the header write by the condition and the missed mark, and
either write that fails. -/
theorem checkpointWritesEnd : Obligations.CheckpointWritesEnd := by
  intro s tag done value detail o r h hr
  refine ⟨fun ho hp hu => ?_, fun ho => ?_, fun ho hw => ?_⟩
  · rw [exec_body_ok done value detail h hr ho]
    refine ⟨fun hwalk h1 => ⟨_, rfl, ?_⟩, fun hwalk h1 => ⟨_, rfl, ?_⟩, fun hwalk hcl h4 => ⟨_, rfl, ?_⟩⟩
    · rw [runAdvance_header (r := { r with unwritten := r.unwritten - 1 }) rfl hwalk (by simp [h1]) hp, h1]
      exact ⟨rfl, rfl⟩
    · rw [runAdvance_body (r := { r with unwritten := r.unwritten - 1 }) rfl
          (fun x => absurd (show r.unwritten - 1 = 0 from x.2) (by omega)),
        claimBody_walkEnded (r := { r with unwritten := r.unwritten - 1 }) rfl hwalk]
      exact ⟨rfl, rfl⟩
    · rw [runAdvance_body (r := { r with unwritten := r.unwritten - 1 }) rfl (by simp [hwalk]),
        claimBody_next (r := { r with unwritten := r.unwritten - 1 }) rfl hwalk hcl
          (show r.unwritten - 1 < 4 by omega)]
      exact ⟨rfl, rfl⟩
  · rw [exec_header_ok done value detail h hr ho]
    refine ⟨fun hn hw hob => ⟨_, rfl, ?_⟩, fun hf hm => ⟨_, rfl, ?_⟩, fun hf hm => ?_⟩
    · obtain ⟨hcond, hsck, hnew, hgen, hq, hun, hrun⟩ :=
        runCompletes_normal_facts (s := release .internal 1 (removeOp o.tag s)) (r := r) hn hw hob
      exact ⟨hcond, hsck, hnew, hgen, hq, hun, hrun, fun p hp => runCompletes_responds hp (.inl ⟨hn, hw, hob⟩)⟩
    · obtain ⟨hcond, hsck, hq, hnew, hgen, hun, hpf, hring, hnot⟩ :=
        runCompletes_cleared_facts (s := release .internal 1 (removeOp o.tag s)) hf hm
      exact ⟨hcond, hsck, hq, hnew, hgen, hun, hpf, hring, hnot, fun p hp => runCompletes_responds hp (.inr ⟨hf, hm⟩)⟩
    · obtain ⟨r', facts⟩ := runCompletes_missed_facts (s := release .internal 1 (removeOp o.tag s)) hf hm
      exact ⟨_, r', rfl, facts⟩
  · obtain ⟨n, e⟩ := exec_run_media done value detail h hr ho
    exact ⟨_, e, runFails_facts (s := release .internal 1 { removeOp o.tag s with free := n }) hw⟩

end Sys2Proof.Machine
end

section
/-! SUPPORT. Host commands and records from arrival to leaving: creation, STOP, port reset, orphans, the turn for admission,
window commands and the placement of relocations. -/

namespace Sys2Proof.Machine

variable {s : State} {c : CmdId}

/-! ## Creation of a record (R38, R40, R153) -/

/-- A new record joins the records and its port's arrival queue, and nothing else changes. -/
theorem arrive_eq (a : Arrival) (s : State) : arrive a s = { s with
    adm := AdmissionUnit.setQueue
      { s.adm with records := s.adm.records ++ [waitingRecord a.id a.op a.first a.count a.durable] } a.id.port
      (s.adm.queue a.id.port ++ [a.id.tag]) } := by
  unfold arrive
  cases a.id.port <;> rfl

/-- The CMD frame of any operation is accepted in one way (R153). -/
theorem exec_hostCommand (op : HostOp) (p : Port) (tag first count : Nat) (durable : Bool) (s : State) :
    exec (hostCommand op p tag first count durable) s = .next (acceptCmd ⟨p, tag⟩ op first count durable s) := by
  cases op <;> rfl

/-- A port that is UP takes the frames that arrive on it (R162). -/
theorem portUp_of_up {p : Port} (h : (s.hp p).condition = .up) : s.portUp p = true := decide_eq_true h

/-- A frame that names a tag of a port that is UP is not discarded (R151). -/
theorem not_discarded {p : Port} {tag : Nat} (hp : (s.hp p).condition = .up) (hc : tag < 16) :
    (!s.portUp p || decide (Config.hostTags ≤ tag)) = false := by
  rw [portUp_of_up hp]
  exact decide_eq_false (Nat.not_le.2 hc)

/-- A CMD on a FREE tag of a port that is UP opens the tag; the record of an orphan makes it a deferred arrival (R40). -/
theorem acceptCmd_free {op : HostOp} {first count : Nat} {durable : Bool} (hp : (s.hp c.port).condition = .up)
    (hc : c.tag < 16) (ho : (s.tag c).isOpen = false) :
    acceptCmd c op first count durable s =
      if (s.rec? c).isSome then { s.setTag c Tag.opened with
        adm := { s.adm with deferred := s.adm.deferred ++ [⟨c, op, first, count, durable⟩] } }
      else arrive ⟨c, op, first, count, durable⟩ (s.setTag c Tag.opened) := by
  unfold acceptCmd
  simp only [not_discarded hp hc, ho, setTag_adm, Bool.false_eq_true, if_false]

/-- Settles O5: a CMD on a FREE tag by whether the tag's record is held. -/
theorem cmdCreatesRecordOrDeferredArrival : Obligations.CmdCreatesRecordOrDeferredArrival := by
  intro op p tag first count durable s hp hc ho
  rw [exec_hostCommand, acceptCmd_free (c := ⟨p, tag⟩) hp hc ho]
  refine ⟨fun hr => ?_, fun hr => ?_⟩
  · rw [hr, if_neg (by simp), arrive_eq, setTag_adm]
    rfl
  · rw [if_pos hr]
    rfl

/-! ## STOP (R57, R158) -/

/-- STOP at a tag of a port that is UP is answered NO_COMMAND or taken by what the OPEN tag names (R158). -/
theorem exec_stop {p : Port} {tag : Nat} (hp : (s.hp p).condition = .up) (hc : tag < 16) : exec (.stop p tag) s = .next
    (if (s.tag ⟨p, tag⟩).isOpen then settleDown (takeStop ⟨p, tag⟩ s)
      else sendStatus ⟨p, tag⟩ .noCommand 0 none 0 s) := by
  show Host.Outcome.next _ = _
  simp only [not_discarded hp hc, Bool.false_eq_true, if_false]

/-- STOP on an OPEN tag is taken by what the tag names, and nothing fails at the end of the act while the link is not DOWN. -/
theorem exec_stop_open {p : Port} {tag : Nat} (hp : (s.hp p).condition = .up) (hc : tag < 16) (hl : s.te.link ≠ .down)
    (ho : (s.tag ⟨p, tag⟩).isOpen = true) : exec (.stop p tag) s = .next (takeStop ⟨p, tag⟩ s) := by
  have hk : (takeStop ⟨p, tag⟩ s).te.link = s.te.link := (keeps_takeStop ⟨p, tag⟩ (Keeps.refl s)).link
  rw [exec_stop hp hc, if_pos ho, settleDown_of_link (hk ▸ hl)]

/-- STOP on a tag that names a deferred arrival (R57). -/
theorem takeStop_deferred (h : (s.deferred? c).isSome = true) :
    takeStop c s = sendStatus c .stopped 0 none 0 (dropDeferred c s) := by
  unfold takeStop
  rw [if_pos h]

/-- STOP on a tag that names a record that is not ACTIVE, by the state of the record (R57). -/
theorem takeStop_record {r : Record} (hd : s.deferred? c = none) (hr : s.rec? c = some r) :
    (r.state = .waiting ∨ r.state = .held → takeStop c s = endRecord c .stopped 0 none 0 s) ∧
      (r.state = .stopping → takeStop c s = s) ∧
      (r.state = .journalWait → takeStop c s = mapRec c (fun x => { x with stopNoted := true }) s) := by
  unfold takeStop
  rw [hd, if_neg (by simp), hr]
  dsimp only
  refine ⟨fun h => ?_, fun h => ?_, fun h => ?_⟩
  · rcases h with h | h <;> rw [h]
  · rw [h]
  · rw [h]

/-- No arrival of a tag stays deferred once it is discarded (R40). -/
theorem deferred?_filter {l : List Arrival} : (l.filter fun a => decide (a.id ≠ c)).find? (fun a => decide (a.id = c)) = none := by
  rw [List.find?_eq_none]
  intro a ha
  simpa using (List.mem_filter.1 ha).2

/-- A discarded arrival is deferred no more (R40). -/
theorem deferred?_dropDeferred : (dropDeferred c s).deferred? c = none := deferred?_filter

/-- Settles O11: STOP by the tag, the deferred arrival and the state of the record. -/
theorem stopByTheStateOfItsTag : Obligations.StopByTheStateOfItsTag := by
  intro p tag s hp hc hl
  refine ⟨fun ho => ?_, fun ho hd => ?_, fun ho hd r hr => ?_⟩
  · rw [exec_stop hp hc, ho]
    rfl
  · obtain ⟨hfree, hout⟩ := sendStatus_facts ⟨p, tag⟩ .stopped 0 none 0 (dropDeferred ⟨p, tag⟩ s)
    refine ⟨_, exec_stop_open hp hc hl ho, ?_⟩
    rw [takeStop_deferred hd]
    exact ⟨hout, hfree, (deferred_congr (s := dropDeferred ⟨p, tag⟩ s) _ (by simp)).trans deferred?_dropDeferred, rec?_sendStatus ..⟩
  · obtain ⟨hends, hstopping, hjournal⟩ := takeStop_record hd hr
    rw [exec_stop_open hp hc hl ho]
    refine ⟨fun h => ⟨_, rfl, ?_⟩, fun h => by rw [hstopping h], fun h => by rw [hjournal h]⟩
    rw [hends h]
    exact endRecord_ends ⟨p, tag⟩ .stopped 0 none 0 (by rw [hp]; simp) hd

/-! ## Placement of a relocation (R52, R88) -/

/-- Whether a place is HELD is no matter of the relocations (R49). -/
theorem placeHeld_setRelocs (f : List Reloc → List Reloc) (x : Placed) : (setRelocs f s).placeHeld x = s.placeHeld x := rfl

/-- With no HELD place a relocation claim goes to the end of the admitted order (R52). -/
theorem relocPosition_end {g : Nat} (h : ∀ x ∈ s.adm.order, s.placeHeld x = false) :
    s.relocPosition g = s.adm.order.length := by
  unfold State.relocPosition
  rw [List.findIdx?_eq_none_iff.2 fun x hx => by rw [h x hx, Bool.false_and]]

/-- Nothing conflicts with the first place of the admitted order (R50). -/
theorem conflictsWith_nil (ref : ClaimRef) : s.conflictsWith [] ref = false := by
  unfold State.conflictsWith
  split <;> rfl

/-- The state once the relocation of a grain is no longer queued (R52). -/
def heldReloc (g : Nat) (s : State) : State := mapReloc g (fun r => { r with stage := .held }) s

/-- The claim of a relocation placed at the end of the admitted order, after the places that stand there (R52). -/
def relocPlace (g : Nat) (s : State) : Placed :=
  { ref := .reloc g, granted := !(heldReloc g s).conflictsWith s.adm.order (.reloc g) }

/-- With no HELD place a relocation is placed at the end of the admitted order (R52). -/
theorem placeReloc_end {g : Nat} (h : ∀ x ∈ s.adm.order, s.placeHeld x = false) :
    placeReloc g s = setOrder (· ++ [relocPlace g s]) (heldReloc g s) := by
  have hpos : (heldReloc g s).relocPosition g = s.adm.order.length := relocPosition_end (s := heldReloc g s) h
  unfold relocPlace
  unfold placeReloc
  dsimp only
  unfold heldReloc at hpos ⊢
  rw [hpos]
  unfold setOrder
  simp

/-- Settles O25: a full part, an empty queue, and the oldest request placed at the end of the order. -/
theorem relocationPlacementTakesTheOldestRequest : Obligations.RelocationPlacementTakesTheOldestRequest := by
  refine ⟨fun s h => congrArg _ (placeQueued_of_full h), fun s h => congrArg _ (placeQueued_of_none ?_),
    fun s r hn hr hh => ⟨(relocPlace r.grain s).granted,
      congrArg _ ((placeQueued_of_first hn hr).trans (placeReloc_end hh)), fun ho => ?_⟩⟩
  · simpa using h
  · unfold relocPlace
    rw [ho, conflictsWith_nil]
    rfl


/-! ## What a record leaves behind (R40, R53, R163) -/

/-- The first part of a record's leaving: what comes before its tag's deferred arrival and its port's RESET_DONE (R53). -/
def departed (r : Record) (s : State) : State :=
  removeRecord r.id (letGo r (if r.counted then countDown (giveUpAll r.id s) else giveUpAll r.id s))

/-- A record leaves, and then its tag's deferred arrival or its port's RESET_DONE follows (R53). -/
theorem leave_departed {r : Record} (h : s.rec? c = some r) :
    leave c s = resetDoneCheck c.port (lateCreation c (departed r s)) := by
  unfold leave departed
  rw [h, rec?_id h]

/-- Of the records, only the one that leaves goes. -/
theorem departed_records (r : Record) (s : State) :
    (departed r s).adm.records = s.adm.records.filter fun x => decide (x.id ≠ r.id) := by
  unfold departed removeRecord
  dsimp only
  split <;> simp

/-- What the first part of leaving leaves as it was. -/
theorem departed_frame (r : Record) (s : State) :
    (departed r s).hpA = s.hpA ∧ (departed r s).hpB = s.hpB ∧ (departed r s).outA = s.outA ∧
      (departed r s).outB = s.outB ∧ (departed r s).adm.deferred = s.adm.deferred ∧
      (departed r s).ov.table = s.ov.table := by
  unfold departed
  split <;> simp

/-- A claim queue is not an account of charges (R66). -/
@[simp] theorem charge_setClaims (b : BufferPool) (o k : BufOwner) (l : List BufClaim) :
    (b.setClaims o l).charge k = b.charge k := by
  cases o with
  | internal => cases k with
    | internal => rfl
    | host q => cases q <;> rfl
  | host p => cases p <;> cases k with
    | internal => rfl
    | host q => cases q <;> rfl

/-- The charge of an owner reads as set (R66). -/
@[simp] theorem charge_setCharge (b : BufferPool) (o : BufOwner) (n : Nat) : (b.setCharge o n).charge o = n := by
  cases o with
  | internal => rfl
  | host p => cases p <;> rfl

/-- The buffers of a record that leaves are released (R53, R67). -/
theorem departed_charge (r : Record) (s : State) : (departed r s).pool.charge (.host r.id.port) =
    s.pool.charge (.host r.id.port) - heldBuffers r.plan := by
  have hl (u : State) : (letGo r u).pool.charge (.host r.id.port) =
      u.pool.charge (.host r.id.port) - heldBuffers r.plan := by
    unfold letGo
    simp [undepend, orphanHandOffs, dropClaims]
  unfold departed
  rw [(removeRecord_frame _ _).2.2.2.2.2.1, hl]
  split <;> simp

/-- An arrival queue is neither the records, nor the deferred arrivals, nor the turn for admission (R38). -/
@[simp] theorem setQueue_records (u : AdmissionUnit) (p : Port) (l : List Nat) : (u.setQueue p l).records = u.records := by
  cases p <;> rfl
@[simp] theorem setQueue_deferred (u : AdmissionUnit) (p : Port) (l : List Nat) :
    (u.setQueue p l).deferred = u.deferred := by
  cases p <;> rfl
@[simp] theorem setQueue_next (u : AdmissionUnit) (p : Port) (l : List Nat) : (u.setQueue p l).next = u.next := by
  cases p <;> rfl

/-- Without a deferred arrival nothing is created (R40). -/
theorem lateCreation_none (h : s.deferred? c = none) : lateCreation c s = s := by
  unfold lateCreation
  rw [h]

/-- The deferred arrival of a tag without a record becomes the tag's record (R40). -/
theorem lateCreation_some {a : Arrival} (h : s.deferred? c = some a) (hr : s.rec? c = none) :
    lateCreation c s = arrive a (dropDeferred c s) := by
  unfold lateCreation
  rw [h, hr]
  rfl

/-- A deferred arrival is one of the tag it is found by. -/
theorem deferred?_id {a : Arrival} (h : s.deferred? c = some a) : a.id = c := by
  simpa using List.find?_some h

/-- The deferred arrival of a tag that has no record, once it is the tag's record (R40). -/
theorem lateCreation_creates {a : Arrival} (h : s.deferred? c = some a) (hr : s.rec? c = none) :
    (lateCreation c s).deferred? c = none ∧
      (lateCreation c s).rec? c = some (waitingRecord c a.op a.first a.count a.durable) := by
  rw [lateCreation_some h hr, arrive_eq, deferred?_id h]
  refine ⟨?_, ?_⟩
  · unfold State.deferred?
    rw [setQueue_deferred]
    exact deferred?_filter
  · unfold State.rec? at hr ⊢
    rw [setQueue_records, List.find?_append]
    simp [hr, waitingRecord]

/-- A late creation takes no record away. -/
theorem mem_lateCreation {r : Record} (h : r ∈ s.adm.records) : r ∈ (lateCreation c s).adm.records := by
  unfold lateCreation
  split
  · split
    · rw [arrive_eq, setQueue_records]
      exact List.mem_append_left _ h
    · exact h
  · exact h

/-- A record of the port remains, so RESET_DONE is not sent; nor is it while the port is UP (R163). -/
theorem resetDoneCheck_stays {p : Port} (h : (s.hp p).condition = .up ∨ s.portRecords p ≠ []) : resetDoneCheck p s = s := by
  unfold resetDoneCheck
  rw [if_neg]
  rintro ⟨hc, he⟩
  rcases h with h | h
  · rw [h] at hc
    cases hc
  · exact h (List.isEmpty_iff.1 he)

/-- A RESETTING port without a record sends RESET_DONE (R163). -/
theorem resetDoneCheck_sends {p : Port} (hc : (s.hp p).condition = .resetting) (h : s.portRecords p = []) :
    resetDoneCheck p s =
      (s.send p .resetDone).setHp p { condition := .up, tags := List.replicate 16 ⟨false, 0, 0, 0⟩ } := by
  unfold resetDoneCheck
  rw [if_pos ⟨hc, by rw [h]; rfl⟩]
  rfl

/-- The other port is no concern of a port's RESET_DONE. -/
theorem resetDoneCheck_other (p : Port) (s : State) :
    (resetDoneCheck p s).out p.other = s.out p.other ∧ (resetDoneCheck p s).hp p.other = s.hp p.other := by
  unfold resetDoneCheck
  split
  · cases p <;> exact ⟨rfl, rfl⟩
  · exact ⟨rfl, rfl⟩

/-- A port has no record when every record is of the other port. -/
theorem portRecords_eq_nil {p : Port} : s.portRecords p = [] ↔ ∀ r ∈ s.adm.records, r.id.port ≠ p := by
  unfold State.portRecords
  simp

/-- The records of a port when one record of it leaves: those of the others (R163). -/
theorem portRecords_departed {p : Port} {r : Record} :
    (departed r s).portRecords p = [] ↔ ∀ x ∈ s.adm.records, x.id.port = p → x.id = r.id := by
  rw [portRecords_eq_nil, departed_records]
  simp only [List.mem_filter, decide_eq_true_eq]
  grind

/-! ## Orphans (R59) -/

/-- An ORPHANED record with nothing left to end leaves (R59). -/
theorem exec_orphanLeaves {p : Port} {tag : Nat} {r : Record} (h : s.rec? ⟨p, tag⟩ = some r)
    (hm : s.orphanMayLeave r = true) : exec (.orphanLeaves p tag) s = .next (leave ⟨p, tag⟩ s) := by
  show Host.Outcome.next _ = _
  simp only [h, hm, if_true]

/-- An ORPHANED record may leave when no piece of it is still to end, no FLUSH of it is at the target and no relocation names
it (R59). -/
theorem orphanMayLeave_of {r : Record} (ho : r.state = .orphaned)
    (hp : ∀ x ∈ r.plan, x.isPending = false ∧ (x.kind = .lost ∨ x.state ≠ .ready))
    (hf : s.hasWork (Owner.ofFlush r.id) = false) (hd : s.isDependant r.id = false) : s.orphanMayLeave r = true := by
  have hu : r.plan.any Piece.isUnended = false := by
    rw [List.any_eq_false]
    intro x hx
    obtain ⟨h1, h2⟩ := hp x hx
    unfold Piece.isUnended
    rcases h2 with h | h <;> simp [h1, h]
  unfold State.orphanMayLeave
  rw [ho, hu, hf, hd]
  rfl

/-- Settles O13: what a record leaves behind, the deferred arrival of its tag, and RESET_DONE, in the act and as commands. -/
theorem orphanLeavesAndWhatFollows : Obligations.OrphanLeavesAndWhatFollows := by
  refine ⟨fun p tag s r hr ho hp hf hd => ?_, fun p s hc => ?_, fun p tag s a ha hr => ?_⟩
  · have hid : r.id = ⟨p, tag⟩ := rec?_id hr
    obtain ⟨fA, fB, oA, oB, hdef, htab⟩ := departed_frame r s
    have hcharge := departed_charge r s
    rw [hid] at hcharge
    have hgone : (departed r s).rec? ⟨p, tag⟩ = none := by
      unfold State.rec?
      rw [departed_records, hid, List.find?_eq_none]
      intro x hx
      simpa using (List.mem_filter.1 hx).2
    have hout (q : Port) : (lateCreation ⟨p, tag⟩ (departed r s)).out q = s.out q :=
      out_congr q (by simp [oA]) (by simp [oB])
    have hhp (q : Port) : (lateCreation ⟨p, tag⟩ (departed r s)).hp q = s.hp q :=
      hp_congr q (by simp [fA]) (by simp [fB])
    refine ⟨_, exec_orphanLeaves hr (orphanMayLeave_of ho hp hf hd), ?_⟩
    rw [leave_departed hr]
    refine ⟨?_, ?_, ?_, fun hn => ?_, fun a ha => ?_, fun hs => ?_, fun hc hn hall => ?_⟩
    · rw [(resetDoneCheck_other p _).1, hout]
    · simp [hcharge]
    · simp [htab]
    · rw [lateCreation_none ((deferred_congr _ hdef).trans hn), rec_congr (s := departed r s) _ (by simp)]
      exact hgone
    · obtain ⟨h1, h2⟩ := lateCreation_creates ((deferred_congr _ hdef).trans ha) hgone
      exact ⟨(deferred_congr _ (by simp)).trans h1, (rec_congr _ (by simp)).trans h2⟩
    · rw [resetDoneCheck_stays, hout, hhp]
      · exact ⟨rfl, rfl⟩
      · rw [hhp]
        refine hs.imp_right fun ⟨x, hx, hxp, hne⟩ he => ?_
        refine portRecords_eq_nil.1 he x (mem_lateCreation ?_) hxp
        rw [departed_records, hid]
        exact List.mem_filter.2 ⟨hx, decide_eq_true hne⟩
    · have hn' : (departed r s).deferred? ⟨p, tag⟩ = none := (deferred_congr _ hdef).trans hn
      have hcond : ((departed r s).hp p).condition = .resetting := by rw [hp_congr p fA fB, hc]
      have he : (departed r s).portRecords p = [] := portRecords_departed.2 (hid ▸ hall)
      rw [lateCreation_none hn', resetDoneCheck_sends hcond he]
      exact ⟨by simp [out_congr p oA oB], by simp⟩
  · exact ⟨fun he => congrArg _ (resetDoneCheck_sends hc he), fun he => congrArg _ (resetDoneCheck_stays (.inr he))⟩
  · have e : exec (.deferredArrivalBecomesRecord p tag) s = .next (lateCreation ⟨p, tag⟩ s) := rfl
    rw [e, lateCreation_some ha hr, arrive_eq, deferred?_id ha]
    rfl


/-! ## Port reset (R58, R162, R182) -/

/-- What cutting a record off makes of the records: its own is gone or ORPHANED, and of the others none is new (R58). -/
structure CutFrom (c : CmdId) (s t : State) : Prop where
  ids : (t.adm.records.map (·.id)).Sublist (s.adm.records.map (·.id))
  records : ∀ r ∈ t.adm.records, (r.id ≠ c ∧ r ∈ s.adm.records) ∨ (r.id = c ∧ r.state = .orphaned)
  deferred : t.adm.deferred = s.adm.deferred
  active : t.map.active = s.map.active

/-- A tag that is cut off again is cut off from the state before. -/
theorem CutFrom.trans {t u : State} (a : CutFrom c s t) (b : CutFrom c t u) : CutFrom c s u where
  ids := b.ids.trans a.ids
  records r hr := (b.records r hr).elim
    (fun ⟨hne, hm⟩ => (a.records r hm).imp id fun h => absurd h.1 hne) .inr
  deferred := b.deferred.trans a.deferred
  active := b.active.trans a.active

/-- A record that leaves is gone (R53). -/
theorem cutFrom_leave (hd : s.deferred? c = none) : CutFrom c s (leave c s) := by
  cases h : s.rec? c with
  | none =>
    have hl : leave c s = s := by
      unfold leave
      rw [h]
    rw [hl]
    exact ⟨.refl _, fun r hr => .inl ⟨by simpa using List.find?_eq_none.1 h r hr, hr⟩, rfl, rfl⟩
  | some r =>
    obtain ⟨-, -, -, -, hdef, -⟩ := departed_frame r s
    have hn : (departed r s).deferred? c = none := (deferred_congr _ hdef).trans hd
    have hrec : (leave c s).adm.records = s.adm.records.filter fun x => decide (x.id ≠ c) := by
      rw [leave_departed h, lateCreation_none hn, ← rec?_id h, ← departed_records]
      simp
    refine ⟨?_, fun x hx => .inl ?_, ?_, by simp⟩
    · rw [hrec]
      exact (List.filter_sublist).map _
    · rw [hrec] at hx
      exact ⟨by simpa using (List.mem_filter.1 hx).2, (List.mem_filter.1 hx).1⟩
    · rw [leave_departed h, lateCreation_none hn, ← hdef]
      simp

/-- A change of the record of a tag keeps the names of the records. -/
theorem ids_mapRec {f : Record → Record} (hf : ∀ r, (f r).id = r.id) :
    (mapRec c f s).adm.records.map (·.id) = s.adm.records.map (·.id) := by
  unfold mapRec
  rw [List.map_map]
  refine List.map_congr_left fun r _ => ?_
  dsimp only [Function.comp]
  split
  · exact hf r
  · rfl

/-- A record after a change of the record of a tag: one of another tag, or the changed one. -/
theorem mem_mapRec {f : Record → Record} {x : Record} (h : x ∈ (mapRec c f s).adm.records) :
    (x.id ≠ c ∧ x ∈ s.adm.records) ∨ ∃ r ∈ s.adm.records, r.id = c ∧ f r = x := by
  obtain ⟨r, hm, rfl⟩ := List.mem_map.1 h
  by_cases e : r.id = c
  · rw [if_pos e]
    exact .inr ⟨r, hm, e, rfl⟩
  · rw [if_neg e]
    exact .inl ⟨e, hm⟩

/-- A record that becomes ORPHANED is cut off (R79). -/
theorem cutFrom_orphaned {f : Record → Record} (hf : ∀ r, (f r).id = r.id ∧ (f r).state = .orphaned) :
    CutFrom c s (mapRec c f s) where
  ids := by rw [ids_mapRec fun r => (hf r).1]
  records x hx := (mem_mapRec hx).imp_right fun ⟨r, _, e, ex⟩ => ex ▸ ⟨(hf r).1.trans e, (hf r).2⟩
  deferred := rfl
  active := rfl

/-- A record that has been cut off stays so when its plan changes. -/
theorem CutFrom.mapRec {t : State} {f : Record → Record} (h : CutFrom c s t)
    (hf : ∀ r, (f r).id = r.id ∧ (f r).state = r.state) : CutFrom c s (mapRec c f t) where
  ids := by
    rw [ids_mapRec fun r => (hf r).1]
    exact h.ids
  records x hx := (mem_mapRec hx).elim (fun ⟨_, hm⟩ => h.records x hm) fun ⟨r, hm, e, ex⟩ =>
    .inr <| ex ▸ ⟨(hf r).1.trans e,
      (hf r).2.trans ((h.records r hm).elim (fun k => absurd e k.1) fun k => k.2)⟩
  deferred := h.deferred
  active := h.active

/-- A record that has been cut off stays so in every state with the same records, arrivals and active map. -/
theorem CutFrom.congr {t u : State} (h : CutFrom c s t) (hr : u.adm.records = t.adm.records)
    (hd : u.adm.deferred = t.adm.deferred) (ha : u.map.active = t.map.active) : CutFrom c s u where
  ids := hr ▸ h.ids
  records := hr ▸ h.records
  deferred := hd.trans h.deferred
  active := ha.trans h.active

/-- A record that has been cut off stays so when pieces of it are withdrawn (R79). -/
theorem CutFrom.withdrawPieces {t : State} (w : Piece → Bool) (h : CutFrom c s t) :
    CutFrom c s (withdrawPieces c w t) := by
  unfold Machine.withdrawPieces
  split
  · exact h
  · exact (h.mapRec (f := fun x => { x with plan := x.plan.map fun p => if w p then p.drop .withdrawn else p })
      fun _ => ⟨rfl, rfl⟩).congr rfl rfl rfl

/-- A record that has been cut off stays so when pieces of it give back their buffers (R67). -/
theorem CutFrom.freeEnded {t : State} (h : CutFrom c s t) : CutFrom c s (freeEnded c t) := by
  unfold Machine.freeEnded freePieces
  split
  · split
    · exact h
    · exact (h.mapRec (f := fun x => { x with plan := x.plan.map fun p => if p.isOver then p.drop p.state else p })
        fun _ => ⟨rfl, rfl⟩).congr rfl rfl rfl
  · exact h

/-- A record that is orphaned is cut off, whether or not it leaves at once (R58, R79). -/
theorem cutFrom_orphanOrLeave {r : Record} (h : s.rec? c = some r) (hd : s.deferred? c = none) :
    CutFrom c s (orphanOrLeave c s) := by
  have ho : CutFrom c s (orphan c s) := by
    unfold orphan
    rw [h]
    have hf : CutFrom c s (mapRec c (fun x => { x with state := .orphaned, winding := false }) s) :=
      cutFrom_orphaned fun _ => ⟨rfl, rfl⟩
    exact ((hf.congr (u := withdrawHost (Owner.ofFlush c) (mapRec c _ s)) rfl rfl rfl).withdrawPieces _).freeEnded
  unfold orphanOrLeave
  dsimp only
  split
  · exact ho
  · split
    · exact ho.trans (cutFrom_leave ((deferred_congr c ho.deferred).trans hd))
    · exact ho

/-- Of records with distinct names, each is the record of its tag. -/
theorem rec?_of_mem {r : Record} (hn : (s.adm.records.map (·.id)).Nodup) (hr : r ∈ s.adm.records) :
    s.rec? r.id = some r := by
  cases e : s.rec? r.id with
  | none => exact absurd (List.find?_eq_none.1 e r hr) (by simp)
  | some x => rw [List.inj_on_of_nodup_map hn (List.mem_of_find?_eq_some e) hr (rec?_id e)]

/-- A record that is cut off is gone or ORPHANED, whatever its state (R58). -/
theorem cutFrom_cutOff (hn : (s.adm.records.map (·.id)).Nodup) (hd : s.deferred? c = none) :
    CutFrom c s (cutOff c s) := by
  have stays (h : ∀ r ∈ s.adm.records, r.id = c → r.state = .orphaned) : CutFrom c s s :=
    ⟨.refl _, fun r hr => if e : r.id = c then .inr ⟨e, h r hr e⟩ else .inl ⟨e, hr⟩, rfl, rfl⟩
  cases hr : s.rec? c with
  | none =>
    unfold cutOff
    rw [hr]
    exact stays fun r hm e => absurd (rec?_of_mem hn hm) (by rw [e, hr]; simp)
  | some r =>
    cases hs : r.state with
    | waiting => exact cutOff_leave hr (.inl hs) ▸ cutFrom_leave hd
    | held => exact cutOff_leave hr (.inr (.inl hs)) ▸ cutFrom_leave hd
    | journalWait => exact cutOff_leave hr (.inr (.inr hs)) ▸ cutFrom_leave hd
    | active => exact cutOff_orphan hr (.inl hs) ▸ cutFrom_orphanOrLeave hr hd
    | stopping => exact cutOff_orphan hr (.inr hs) ▸ cutFrom_orphanOrLeave hr hd
    | orphaned =>
      unfold cutOff
      simp only [hr, hs]
      refine stays fun x hm e => ?_
      have hx := rec?_of_mem hn hm
      rw [e, hr] at hx
      cases hx
      exact hs

/-- What cutting off the records of a port makes of the part, for the tags `l` still to be taken (R58). -/
structure PortCut (p : Port) (l : List CmdId) (s t : State) : Prop where
  records : ∀ r ∈ t.adm.records, (r ∈ s.adm.records ∧ r.id ∉ l) ∨ r.state = .orphaned
  deferred : t.adm.deferred = s.adm.deferred
  active : t.map.active = s.map.active
  hp (q : Port) : t.hp q = s.hp q
  out (q : Port) : t.out q = s.out q

/-- All records of a port are cut off, one after the other (R58). -/
theorem portCut_foldl {p : Port} (l : List CmdId) (hl : ∀ c ∈ l, c.port = p) (hp : (s.hp p).condition = .up)
    (hn : (s.adm.records.map (·.id)).Nodup) (hd : ∀ c ∈ l, s.deferred? c = none) :
    PortCut p l s (l.foldl (fun t c => cutOff c t) s) := by
  induction l generalizing s with
  | nil => exact ⟨fun r hr => .inl ⟨hr, by simp⟩, rfl, rfl, fun _ => rfl, fun _ => rfl⟩
  | cons c l ih =>
    have hc := cutFrom_cutOff hn (hd c (by simp))
    obtain ⟨hA, hB, oA, oB⟩ := cutOff_port (c := c) (s := s) (by rw [hl c (by simp), hp]; simp)
    have k := ih (s := cutOff c s) (fun d hm => hl d (by simp [hm])) (by rw [hp_congr p hA hB, hp])
      (hn.sublist hc.ids) (fun d hm => (deferred_congr d hc.deferred).trans (hd d (by simp [hm])))
    refine ⟨fun r hr => ?_, k.deferred.trans hc.deferred, k.active.trans hc.active,
      fun q => (k.hp q).trans (hp_congr q hA hB), fun q => (k.out q).trans (out_congr q oA oB)⟩
    rcases k.records r hr with ⟨hm, hnl⟩ | ho
    · exact (hc.records r hm).imp (fun h => ⟨h.2, by simp [h.1, hnl]⟩) fun h => h.2
    · exact .inr ho

/-- The records of a port cut off, its deferred arrivals discarded (R58). -/
def cutPort (p : Port) (s : State) : State :=
  ((s.portRecords p).foldl (fun t c => cutOff c t)
    { s with adm := { s.adm with deferred := s.adm.deferred.filter fun a => decide (a.id.port ≠ p) } })

/-- A port whose records are cut off keeps ORPHANED records only and no deferred arrival; frames, ports and the active map are
as before (R58). -/
theorem cutPort_facts {p : Port} (hp : (s.hp p).condition = .up) (hn : (s.adm.records.map (·.id)).Nodup) :
    (∀ a ∈ (cutPort p s).adm.deferred, a.id.port ≠ p) ∧
      (∀ r ∈ (cutPort p s).adm.records, r.id.port = p → r.state = .orphaned) ∧
      (cutPort p s).map.active = s.map.active ∧ (∀ q, (cutPort p s).hp q = s.hp q) ∧
      ∀ q, (cutPort p s).out q = s.out q := by
  have hl : ∀ c ∈ s.portRecords p, c.port = p := by
    intro c hc
    obtain ⟨r, hr, rfl⟩ := List.mem_map.1 hc
    simpa using (List.mem_filter.1 hr).2
  have k := portCut_foldl (p := p) (s.portRecords p) hl (s := { s with
    adm := { s.adm with deferred := s.adm.deferred.filter fun a => decide (a.id.port ≠ p) } }) hp hn (by
      intro c hc
      refine List.find?_eq_none.2 fun a ha => ?_
      have hne : a.id.port ≠ p := by simpa using (List.mem_filter.1 ha).2
      simpa using fun e : a.id = c => hne (e ▸ hl c hc))
  refine ⟨fun a ha => ?_, fun r hr hrp => ?_, k.active, k.hp, k.out⟩
  · rw [show (cutPort p s).adm.deferred = _ from k.deferred] at ha
    simpa using (List.mem_filter.1 ha).2
  · refine (k.records r hr).resolve_left fun ⟨hm, hnm⟩ => hnm ?_
    exact List.mem_map.2 ⟨r, List.mem_filter.2 ⟨hm, decide_eq_true hrp⟩, rfl⟩

/-- A port reset in its steps: the records, the link, the stage claim, the Management Unit, and the notice (R58, R162, R182). -/
theorem portReset_eq (p : Port) (s : State) : portReset p s = raise (.portReset p) none
    ((setMap (dropStage p) (detach p (startResetting p (cutPort p s)))).setMg p
      ((setMap (dropStage p) (detach p (startResetting p (cutPort p s)))).mg p).portReset) := rfl

/-- The stage claim a port holds is released (R19). -/
theorem dropStage_stage (p : Port) (u : MapUnit) (m : RegionMap) : (dropStage p u).stage ≠ some (p, m) := by
  unfold dropStage
  dsimp only
  split
  · split
    · simp
    · rename_i hne
      simp [hne]
  · simp

/-- A notice is no concern of a port's sequence, request in progress and response (R178). -/
theorem offer_keeps (b : NoticeBody) (r : Option Nat) (m : PortMgmt) : (offer b r m).lastSeq = m.lastSeq ∧
    (offer b r m).inProgress = m.inProgress ∧ (offer b r m).response = m.response := by
  unfold offer
  repeat' split
  all_goals exact ⟨rfl, rfl, rfl⟩

/-- A port is RESETTING after its reset, with its own records cut off, and the other port as before (R58, R162, R182). -/
theorem portReset_facts {p : Port} (hp : (s.hp p).condition = .up) :
    (portReset p s).adm = (cutPort p s).adm ∧
      (∀ m, (portReset p s).map.stage ≠ some (p, m)) ∧ (portReset p s).map.active = (cutPort p s).map.active ∧
      ((portReset p s).mg p).lastSeq = none ∧ ((portReset p s).mg p).inProgress = none ∧
      ((portReset p s).mg p).response = Response.empty ∧ ((portReset p s).hp p).condition = .resetting ∧
      (portReset p s).hp p.other = (cutPort p s).hp p.other ∧ (portReset p s).out p = (cutPort p s).out p := by
  have hmg : (portReset p s).mg p = offer (.portReset p) none
      ((setMap (dropStage p) (detach p (startResetting p (cutPort p s)))).mg p).portReset := by
    rw [portReset_eq]
    cases p <;> rfl
  obtain ⟨hseq, hprog, hresp⟩ := offer_keeps (.portReset p) none
    ((setMap (dropStage p) (detach p (startResetting p (cutPort p s)))).mg p).portReset
  rw [hmg, portReset_eq]
  refine ⟨?_, fun m => ?_, ?_, hseq, hprog, hresp, ?_, ?_, ?_⟩
  · simp [detach, startResetting]
  · simpa using dropStage_stage p _ m
  · simp [dropStage, detach, startResetting]
  all_goals cases p <;> rfl

/-- LINKRESET on a port that is UP (R162, R163). -/
theorem exec_linkreset {p : Port} (hp : (s.hp p).condition = .up) :
    exec (.linkreset p) s = .next (resetDoneCheck p (portReset p s)) := by
  show Host.Outcome.next _ = _
  rw [if_pos (portUp_of_up hp)]

/-- Settles O12: the reset of the port, and RESET_DONE by whether a record is left. -/
theorem linkresetResetsOnePort : Obligations.LinkresetResetsOnePort := by
  intro p s hp hn
  obtain ⟨hdef, hrec, hact, hhp, hout⟩ := cutPort_facts hp hn
  obtain ⟨uadm, ustage, uact, useq, uprog, uresp, ucond, uother, uout⟩ := portReset_facts hp
  have hmg : (resetDoneCheck p (portReset p s)).mg p = (portReset p s).mg p := mg_congr p (by simp) (by simp)
  have hrecs : (resetDoneCheck p (portReset p s)).portRecords p = (portReset p s).portRecords p := by
    unfold State.portRecords
    simp
  refine ⟨_, exec_linkreset hp, ?_⟩
  rw [hmg, hrecs]
  simp only [resetDoneCheck_frame, uadm]
  refine ⟨hdef, hrec, ustage, useq, uprog, uresp, ?_, uact.trans hact, fun he => ?_, fun he => ?_⟩
  · rw [(resetDoneCheck_other p _).2, uother, hhp]
  · rw [resetDoneCheck_sends ucond he]
    exact ⟨by simp, by simp [uout, hout]⟩
  · rw [resetDoneCheck_stays (.inr he)]
    exact ⟨ucond, uout.trans (hout p)⟩


/-! ## The turn for admission (R41) -/

/-- The record taken next is the record of its tag (R41). -/
theorem nextAdmission_rec? {r : Record} (h : s.nextAdmission = some r) : s.rec? r.id = some r := by
  have found (p : Port) (h : s.admissible p = some r) : s.rec? r.id = some r := by
    have hm : r ∈ (s.adm.queue p).filterMap fun t => s.rec? { port := p, tag := t } := by
      unfold State.admissible at h
      dsimp only at h
      split at h
      · exact List.mem_of_find?_eq_some h
      · exact List.mem_of_mem_head? h
    obtain ⟨t, _, ht⟩ := List.mem_filterMap.1 hm
    rw [rec?_id ht]
    exact ht
  unfold State.nextAdmission at h
  split at h
  · rename_i q hq
    cases h
    exact found _ hq
  · exact found _ h

/-- ADMISSION takes the record taken next through the checks, and the turn passes to the other port (R41, R42). -/
theorem exec_admission {r : Record} (h : s.nextAdmission = some r) (hl : s.te.link ≠ .down) :
    exec .admission s = .next (admitRecord r (servePort r.id.port s)) := by
  have hk : (admitRecord r (servePort r.id.port s)).te.link = s.te.link :=
    (keeps_admitRecord r (Keeps.refl (servePort r.id.port s))).link
  have e : exec .admission s = .next (settleDown (admitRecord r (servePort r.id.port s))) := by
    show Host.Outcome.next _ = _
    simp only [h]
  rw [e, settleDown_of_link (hk ▸ hl)]

/-- A late creation is no concern of the turn for admission. -/
theorem lateCreation_next (c : CmdId) (s : State) : (lateCreation c s).adm.next = s.adm.next := by
  unfold lateCreation
  split
  · split
    · rw [arrive_eq, setQueue_next]
      rfl
    · rfl
  · rfl

/-- The end of a record is no concern of the turn for admission. -/
theorem endRecord_next (c : CmdId) (res : Result) (done : Nat) (d : Option Nat) (v : Nat) (s : State) :
    (endRecord c res done d v s).adm.next = s.adm.next := by
  have hs : (sendStatus c res done d v s).adm = s.adm := sendStatus_adm ..
  unfold endRecord
  cases h : (sendStatus c res done d v s).rec? c with
  | none =>
    unfold leave
    simp [h]
  | some r =>
    have hd : (departed r (sendStatus c res done d v s)).adm.next = s.adm.next := by
      unfold departed
      split <;> simp
    simp [leave_departed h, lateCreation_next, hd]

/-! ## Records without a claim (R48) -/

/-- An arrival queue reads as set (R38). -/
theorem queue_setQueue (u : AdmissionUnit) (p : Port) (l : List Nat) : (u.setQueue p l).queue p = l := by
  cases p <;> rfl

/-- A record placed without a claim is ACTIVE on its path (R48). -/
theorem rec?_placePlain {r : Record} (path : Path) (h : s.rec? c = some r) :
    (placePlain c path s).rec? c = some { r with state := .active, path := some path } := by
  unfold placePlain
  refine (rec_congr c (placeAtEnd_adm_records _ _)).trans ((rec?_mapRec ?_).trans ?_)
  · exact fun _ => rfl
  rw [rec_congr (s := s) c (by simp), h]
  rfl

/-- A record placed without a claim stands at the end of the admitted order (R48). -/
theorem order_placePlain (c : CmdId) (path : Path) (s : State) :
    ∃ g, (placePlain c path s).adm.order = s.adm.order ++ [⟨.cmd c, g⟩] :=
  ⟨_, congrArg (· ++ [(⟨.cmd c, _⟩ : Placed)]) (unqueue_adm_order s c)⟩

/-- A record placed without a claim has left its arrival queue (R48). -/
theorem queue_placePlain (c : CmdId) (path : Path) (s : State) :
    (placePlain c path s).adm.queue c.port = (s.adm.queue c.port).filter fun t => decide (t ≠ c.tag) := by
  have h : (placePlain c path s).adm.queue c.port = (unqueue c s).adm.queue c.port := by
    unfold placePlain
    cases c.port <;> simp [AdmissionUnit.queue]
  rw [h]
  exact queue_setQueue ..

/-- What placing a record without a claim leaves as it was. -/
@[simp] theorem placePlain_frame (c : CmdId) (path : Path) (s : State) :
    (placePlain c path s).map = s.map ∧ (placePlain c path s).te = s.te ∧ (placePlain c path s).mnt = s.mnt ∧
      (placePlain c path s).hpA = s.hpA ∧ (placePlain c path s).hpB = s.hpB ∧ (placePlain c path s).mgA = s.mgA ∧
      (placePlain c path s).mgB = s.mgB ∧ (placePlain c path s).outA = s.outA ∧ (placePlain c path s).outB = s.outB ∧
      (placePlain c path s).outT = s.outT ∧ (placePlain c path s).adm.next = s.adm.next ∧
      (placePlain c path s).adm.deferred = s.adm.deferred := by
  unfold placePlain
  simp

/-- The turn for admission is all that serving a port changes (R41). -/
@[simp] theorem servePort_frame (p : Port) (s : State) : (servePort p s).adm.next = p.other ∧
    (servePort p s).adm.records = s.adm.records ∧ (servePort p s).adm.order = s.adm.order ∧
    (servePort p s).adm.deferred = s.adm.deferred ∧ (servePort p s).map = s.map ∧ (servePort p s).te = s.te ∧
    (servePort p s).mnt = s.mnt ∧ (servePort p s).hpA = s.hpA ∧ (servePort p s).hpB = s.hpB ∧
    (servePort p s).mgA = s.mgA ∧ (servePort p s).mgB = s.mgB ∧ (servePort p s).outA = s.outA ∧
    (servePort p s).outB = s.outB ∧ (servePort p s).outT = s.outT := by
  simp [servePort]

/-- The turn for admission is no arrival queue. -/
@[simp] theorem queue_servePort (p q : Port) (s : State) : (servePort p s).adm.queue q = s.adm.queue q := by
  cases q <;> rfl

/-! ## SIZE and FLUSH (R48, R80, R81) -/

/-- A SIZE that the device state allows ends at once with the capacity (R81). -/
theorem admitRecord_size {r : Record} (ha : stateAllows s.mnt.dev r = true) (ho : r.op = .size) :
    admitRecord r s = endRecord r.id .ok 0 none s.map.active.cap (placePlain r.id .plain s) := by
  unfold admitRecord shapeGood
  simp [ha, ho]

/-- A FLUSH that the device state allows becomes ACTIVE and requests its FLUSH (R80). -/
theorem admitRecord_flush {r : Record} (ha : stateAllows s.mnt.dev r = true) (ho : r.op = .flush) :
    admitRecord r s = enqueue (flushRequest r.id) (placePlain r.id .plain s) := by
  unfold admitRecord shapeGood
  simp [ha, ho]

/-- The queue of a class reads as set (R71). -/
theorem queue_setQueue_te (te : TransferEngine) (k : TClass) (l : List Request) : (te.setQueue k l).queue k = l := by
  cases k with
  | host p => cases p <;> rfl
  | _ => rfl

/-- Settles O15: SIZE by its end and FLUSH by its place and its request. -/
theorem admissionOfSizeAndFlush : Obligations.AdmissionOfSizeAndFlush := by
  intro s r hr hl ha
  rw [exec_admission hr hl]
  refine ⟨fun ho hans => ⟨_, rfl, ?_, ?_⟩, fun ho => ?_⟩
  · rw [admitRecord_size (by simpa using ha) ho, endRecord_next]
    simp
  · obtain ⟨hup, hd⟩ := hans
    rw [admitRecord_size (by simpa using ha) ho]
    have he := endRecord_ends_of (s := s) (t := placePlain r.id .plain (servePort r.id.port s)) (c := r.id) .ok 0 none
      (servePort r.id.port s).map.active.cap (out_congr _ (by simp) (by simp)) (mg_congr _ (by simp) (by simp))
      (by rw [hp_congr (s := s) _ (by simp) (by simp), hup]; simp) ((deferred_congr (s := s) _ (by simp)).trans hd)
    simpa using he
  · obtain ⟨g, hg⟩ := order_placePlain r.id .plain (servePort r.id.port s)
    refine ⟨_, g, rfl, ?_⟩
    rw [admitRecord_flush (by simpa using ha) ho]
    refine ⟨by simp, ?_, ?_, ?_, ?_, by simp, by simp, by simp⟩
    · refine (rec_congr (s := placePlain r.id .plain (servePort r.id.port s)) r.id (by simp)).trans
        (rec?_placePlain .plain ?_)
      exact (rec_congr r.id (by simp)).trans (nextAdmission_rec? hr)
    · simpa using queue_placePlain r.id .plain (servePort r.id.port s)
    · simpa using hg
    · unfold enqueue
      dsimp only
      rw [show (flushRequest r.id).cls = .host r.id.port from rfl, queue_setQueue_te]
      simp [flushRequest]


/-! ## Window commands (R45, R64, R168) -/

/-- The window begins four blocks below the end of the address space (R168). -/
theorem windowBase_eq : Config.windowBase = 2 ^ 40 - 4 := rfl

/-- A window block reads the Management Unit's state, the device state and the maps (R168). -/
theorem windowBlock_congr {t : State} {p : Port} {k : Nat} (hA : t.mgA = s.mgA) (hB : t.mgB = s.mgB)
    (hm : t.map = s.map) (hn : t.mnt = s.mnt) : t.windowBlock p k = s.windowBlock p k := by
  unfold State.windowBlock identBlock
  rw [mg_congr p hA hB, hm, hn]

/-- A window command of a good shape is allowed in every device state (R43, R44). -/
theorem stateAllows_window {dev : DevState} {r : Record} (hs : shapeGood r = true) (ht : r.op.isTransfer = true)
    (hw : rangeInWindow r.first r.count = true) : stateAllows dev r = true := by
  have hc : decide (1 ≤ r.count ∧ r.count ≤ Config.maxBlocks) = true := by
    unfold shapeGood at hs
    cases ho : r.op with
    | read => simpa only [ho] using hs
    | write => simpa only [ho] using hs
    | _ =>
      rw [ho] at ht
      cases ht
  have hi : r.isWindow = true := by
    unfold Record.isWindow
    rw [ht, hc, hw]
    rfl
  unfold stateAllows
  cases dev <;> simp [hi]

/-- A READ of a good shape has one block at least (R44). -/
theorem count_pos_of_shape {r : Record} (hs : shapeGood r = true) (ho : r.op = .read) : 1 ≤ r.count := by
  unfold shapeGood at hs
  rw [ho] at hs
  exact (of_decide_eq_true hs).1

/-- Check 3 lets a window command of a window shape start (R45). -/
theorem admitTransfer_window {r : Record} (hw : rangeTouchesWindow r.first r.count = true)
    (hi : rangeInWindow r.first r.count = true) (hsh : windowShape r.op r.first r.count = true) :
    admitTransfer r s = startWindow r.id r (placePlain r.id .window s) := by
  unfold admitTransfer
  rw [if_pos hw, if_pos (by rw [hi, hsh]; rfl)]

/-- A window command of a window shape is started without a claim (R45, R48). -/
theorem admitRecord_window {r : Record} (hs : shapeGood r = true) (hw : rangeTouchesWindow r.first r.count = true)
    (hi : rangeInWindow r.first r.count = true) (hsh : windowShape r.op r.first r.count = true)
    (ht : r.op = .read ∨ r.op = .write) : admitRecord r s = startWindow r.id r (placePlain r.id .window s) := by
  have ha : stateAllows s.mnt.dev r = true :=
    stateAllows_window hs (by rcases ht with h | h <;> rw [h] <;> rfl) hi
  rw [← admitTransfer_window hw hi hsh]
  unfold admitRecord
  rw [ha, hs]
  rcases ht with h | h <;> rw [h] <;> rfl

/-- A READ with no grant, and something left to deliver, sends nothing (R69). -/
theorem deliver_ungranted {r : Record} (h : s.rec? c = some r) (hg : (s.tag c).granted = 0)
    (hm : (s.tag c).moved ≠ r.deliveryEnd) : deliver c s = s := by
  unfold deliver
  rw [hg]
  unfold deliveryCheck
  simp [deliverBlocks, h, hm]

/-- A window READ has its blocks formed in the act, and sends nothing without a grant (R64, R69). -/
theorem startWindow_read {r x : Record} (ho : r.op = .read) (h : s.rec? c = some x) (hg : (s.tag c).granted = 0)
    (hm : (s.tag c).moved ≠ x.deliveryEnd) : startWindow c r s = mapRec c (fun y => { y with
      window := (List.range r.count).map fun k => s.windowBlock c.port (r.first + k - Config.windowBase) }) s := by
  unfold startWindow
  rw [if_pos ho]
  refine deliver_ungranted ((rec?_mapRec ?_).trans (congrArg _ h)) hg hm
  exact fun _ => rfl

/-- A frame sent on a port is not sent on the other. -/
theorem out_send_other (s : State) (p : Port) (f : HostFrame) : (s.send p f).out p.other = s.out p.other := by
  cases p <;> rfl

/-- A window WRITE is granted its one block (R64). -/
theorem startWindow_write {r : Record} (ho : r.op = .write) : startWindow c r s =
    (s.send c.port (.grant c.tag 1)).setTag c { s.tag c with granted := 1 } := by
  unfold startWindow
  rw [if_neg (by rw [ho]; simp)]

/-- The record taken next, once it is placed without a claim (R48). -/
theorem rec?_served {r : Record} (path : Path) (h : s.nextAdmission = some r) :
    (placePlain r.id path (servePort r.id.port s)).rec? r.id = some { r with state := .active, path := some path } :=
  rec?_placePlain path ((rec_congr (s := s) r.id (by simp)).trans (nextAdmission_rec? h))

/-- ADMISSION of a window command (R45, R48, R64): a READ with no grant, and a WRITE. -/
theorem admission_window {r : Record} (hr : s.nextAdmission = some r) (hl : s.te.link ≠ .down)
    (hs : shapeGood r = true) (hw : rangeTouchesWindow r.first r.count = true)
    (hi : rangeInWindow r.first r.count = true) (hsh : windowShape r.op r.first r.count = true)
    (hopen : (s.tag r.id).isOpen = true) (hg : (s.tag r.id).granted = 0) (hm : (s.tag r.id).moved = 0)
    (hcut : r.cut = none) :
    (r.op = .read → ∃ t g, exec .admission s = .next t ∧
      t.rec? r.id = some { r with
        state := .active, path := some .window,
        window := (List.range r.count).map fun k => s.windowBlock r.id.port (r.first + k - (2 ^ 40 - 4)) } ∧
      t.adm.order = s.adm.order ++ [⟨.cmd r.id, g⟩] ∧ t.outA = s.outA ∧ t.outB = s.outB ∧ t.outT = s.outT) ∧
    (r.op = .write → ∃ t g, exec .admission s = .next t ∧
      t.rec? r.id = some { r with state := .active, path := some .window } ∧
      t.adm.order = s.adm.order ++ [⟨.cmd r.id, g⟩] ∧ (t.tag r.id).granted = 1 ∧
      t.out r.id.port = s.out r.id.port ++ [.grant r.id.tag 1] ∧ t.out r.id.port.other = s.out r.id.port.other) := by
  obtain ⟨g, hord⟩ := order_placePlain r.id .window (servePort r.id.port s)
  have hrec := rec?_served .window hr
  have htag : (placePlain r.id .window (servePort r.id.port s)).tag r.id = s.tag r.id :=
    tag_congr r.id (by simp) (by simp)
  have hout (q : Port) : (placePlain r.id .window (servePort r.id.port s)).out q = s.out q :=
    out_congr q (by simp) (by simp)
  rw [exec_admission hr hl]
  refine ⟨fun ho => ⟨_, g, rfl, ?_⟩, fun ho => ⟨_, g, rfl, ?_⟩⟩
  · have hend : (s.tag r.id).moved ≠
        Record.deliveryEnd { r with state := .active, path := some .window } := by
      have := count_pos_of_shape hs ho
      unfold Record.deliveryEnd
      rw [hm, hcut]
      dsimp only
      omega
    have hblocks : ((List.range r.count).map fun k =>
        (placePlain r.id .window (servePort r.id.port s)).windowBlock r.id.port (r.first + k - Config.windowBase)) =
          (List.range r.count).map fun k => s.windowBlock r.id.port (r.first + k - (2 ^ 40 - 4)) := by
      rw [windowBase_eq]
      exact List.map_congr_left fun k _ => windowBlock_congr (by simp) (by simp) (by simp) (by simp)
    rw [admitRecord_window hs hw hi hsh (.inl ho),
      startWindow_read ho hrec (by rw [htag, hg]) (by rw [htag]; exact hend)]
    rw [hblocks]
    refine ⟨(rec?_mapRec ?_).trans (congrArg _ hrec), by simpa using hord, by simp, by simp, by simp⟩
    exact fun _ => rfl
  · have hlt : r.id.tag < (((placePlain r.id .window (servePort r.id.port s)).send r.id.port
        (.grant r.id.tag 1)).hp r.id.port).tags.length := by
      rw [hp_send, hp_congr (s := s) _ (by simp) (by simp)]
      exact tag_lt_of_open hopen
    rw [admitRecord_window hs hw hi hsh (.inr ho), startWindow_write ho]
    refine ⟨?_, by simpa using hord, ?_, ?_, ?_⟩
    · rw [rec?_setTag, rec?_send]
      exact hrec
    · rw [tag_setTag hlt]
    · rw [out_setTag, out_send, hout]
    · rw [out_setTag, out_send_other, hout]


/-! ## What a request leaves alone (R170) -/

/-- What handing over a request block leaves alone: the host ports, their tags and frames, and the deferred arrivals. -/
structure SamePorts (s t : State) : Prop where
  hpA : t.hpA = s.hpA
  hpB : t.hpB = s.hpB
  outA : t.outA = s.outA
  outB : t.outB = s.outB
  deferred : t.adm.deferred = s.adm.deferred

theorem SamePorts.refl (s : State) : SamePorts s s := ⟨rfl, rfl, rfl, rfl, rfl⟩

theorem SamePorts.trans {t u : State} (a : SamePorts s t) (b : SamePorts t u) : SamePorts s u :=
  ⟨b.hpA.trans a.hpA, b.hpB.trans a.hpB, b.outA.trans a.outA, b.outB.trans a.outB, b.deferred.trans a.deferred⟩

/-- An answer changes the Management Unit alone (R171). -/
theorem samePorts_answer {t : State} (owed : Option Port) (res : Reply) (n1 n2 n3 n4 : Nat) (items : List (List Byte))
    (h : SamePorts s t) : SamePorts s (answer owed res n1 n2 n3 n4 items t) :=
  h.trans (by constructor <;> simp)

theorem samePorts_answerPlain {t : State} (owed : Option Port) (res : Reply) (h : SamePorts s t) :
    SamePorts s (answerPlain owed res t) := samePorts_answer owed res 0 0 0 0 [] h

theorem samePorts_setMg {t : State} (p : Port) (m : PortMgmt) (h : SamePorts s t) : SamePorts s (t.setMg p m) :=
  h.trans (by constructor <;> simp)

/-- The staging map is a matter of the Map Unit (R10). -/
theorem samePorts_setStaged (p : Port) (m : RegionMap) (s : State) : SamePorts s (setStaged p m s) :=
  ⟨rfl, rfl, rfl, rfl, rfl⟩

/-- The requests on the staging map change it or answer alone (R10 to R13). -/
theorem samePorts_reqStage (p : Port) (s : State) : SamePorts s (reqStage p s) := by
  unfold reqStage
  split
  · split
    · exact samePorts_answerPlain _ _ (samePorts_setStaged ..)
    · exact samePorts_answerPlain _ _ (SamePorts.refl s)
  · exact samePorts_answerPlain _ _ (samePorts_setStaged ..)

theorem samePorts_reqPutRegion (p : Port) (index policy : Nat) (rp wp : PortSet) (first count target : Nat) (s : State) :
    SamePorts s (reqPutRegion p index policy rp wp first count target s) := by
  unfold reqPutRegion refuseMap
  repeat' split
  all_goals first
    | exact samePorts_answer _ _ _ _ _ _ _ (SamePorts.refl s)
    | exact samePorts_answerPlain _ _ (samePorts_setStaged ..)

theorem samePorts_reqClearRegion (p : Port) (index : Nat) (s : State) : SamePorts s (reqClearRegion p index s) := by
  unfold reqClearRegion
  split
  · exact samePorts_answerPlain _ _ (SamePorts.refl s)
  · split
    · exact samePorts_answerPlain _ _ (SamePorts.refl s)
    · exact samePorts_answerPlain _ _ (samePorts_setStaged ..)

theorem samePorts_reqSetCapacity (p : Port) (n : Nat) (s : State) : SamePorts s (reqSetCapacity p n s) := by
  unfold reqSetCapacity
  split
  · exact samePorts_answerPlain _ _ (SamePorts.refl s)
  · split
    · exact samePorts_answerPlain _ _ (samePorts_setStaged ..)
    · exact samePorts_answerPlain _ _ (SamePorts.refl s)

theorem samePorts_reqUnstage (p : Port) (s : State) : SamePorts s (reqUnstage p s) := by
  unfold reqUnstage
  split
  · exact samePorts_answerPlain _ _ (SamePorts.refl s)
  · refine samePorts_answerPlain _ _ ?_
    exact ⟨rfl, rfl, rfl, rfl, rfl⟩

/-- The end of a drain answers or claims the buffers of the anchor write (R16, R18). -/
theorem samePorts_endDrain {t : State} (a : Activation) (h : SamePorts s t) : SamePorts s (endDrain a t) := by
  unfold endDrain activationFails
  split
  · exact samePorts_answer _ _ _ _ _ _ _ (h.trans ⟨rfl, rfl, rfl, rfl, rfl⟩)
  · exact h.trans ⟨rfl, rfl, rfl, rfl, rfl⟩

/-- ACTIVATE answers or starts its drain (R14, R16). -/
theorem samePorts_reqActivate (p : Port) (s : State) : SamePorts s (reqActivate p s) := by
  have starts (m : RegionMap) : SamePorts s (startActivation p m s) := by
    unfold startActivation
    dsimp only
    split
    · refine samePorts_endDrain _ ?_
      exact ⟨rfl, rfl, rfl, rfl, rfl⟩
    · exact ⟨rfl, rfl, rfl, rfl, rfl⟩
  unfold reqActivate refuseMap
  repeat' split
  all_goals first
    | exact starts _
    | exact samePorts_answer _ _ _ _ _ _ _ (SamePorts.refl s)

/-- SET_LAYOUT answers or claims the buffers of its first write (R146, R147). -/
theorem samePorts_reqSetLayout (p : Port) (l : Layout) (s : State) : SamePorts s (reqSetLayout p l s) := by
  unfold reqSetLayout
  repeat' split
  all_goals first
    | exact samePorts_answerPlain _ _ (SamePorts.refl s)
    | exact ⟨rfl, rfl, rfl, rfl, rfl⟩

/-- The end of a merge run raises a notice and answers the halts that wait (R110, R111). -/
theorem samePorts_mergeEnd {t : State} (cause : Option MergeCause) (h : SamePorts s t) : SamePorts s (mergeEnd cause t) := by
  unfold mergeEnd
  dsimp only
  refine SamePorts.trans ?_ (foldl_rel SamePorts SamePorts.refl (fun _ _ _ => SamePorts.trans)
    (fun u q => samePorts_answerPlain _ _ (SamePorts.refl u)) _ _)
  exact h.trans ⟨rfl, rfl, rfl, rfl, rfl⟩

/-- A search ends the run or places the claim of a grain (R104). -/
theorem samePorts_mergeSearch {t : State} (h : SamePorts s t) : SamePorts s (mergeSearch t) := by
  unfold mergeSearch
  dsimp only
  repeat' split
  · exact samePorts_mergeEnd _ h
  · exact samePorts_mergeEnd _ h
  · exact samePorts_mergeEnd _ (h.trans ⟨rfl, rfl, rfl, rfl, rfl⟩)
  · exact h.trans ⟨rfl, rfl, rfl, rfl, rfl⟩

/-- MERGE answers, or starts its run with a search (R103). -/
theorem samePorts_reqMerge (p : Port) (index : Nat) (s : State) : SamePorts s (reqMerge p index s) := by
  have starts (sel : List Nat) (all : Bool) : SamePorts s (startMerge p sel all s) := by
    refine samePorts_mergeSearch (samePorts_answer _ _ _ _ _ _ _ ?_)
    exact ⟨rfl, rfl, rfl, rfl, rfl⟩
  unfold reqMerge
  repeat' split
  all_goals first
    | exact starts ..
    | exact samePorts_answerPlain _ _ (SamePorts.refl s)

/-- HALT_MERGE answers, ends the run or waits for its end (R110). -/
theorem samePorts_reqHaltMerge (p : Port) (s : State) : SamePorts s (reqHaltMerge p s) := by
  unfold reqHaltMerge
  repeat' split
  · exact samePorts_answerPlain _ _ (SamePorts.refl s)
  · exact ⟨rfl, rfl, rfl, rfl, rfl⟩
  · exact samePorts_answerPlain _ _ (samePorts_mergeEnd _ (SamePorts.refl s))
  · refine samePorts_answerPlain _ _ (samePorts_mergeEnd _ ?_)
    exact ⟨rfl, rfl, rfl, rfl, rfl⟩
  · exact ⟨rfl, rfl, rfl, rfl, rfl⟩

/-- DISCARD answers or places its claim (R113). -/
theorem samePorts_reqDiscard (p : Port) (index : Nat) (s : State) : SamePorts s (reqDiscard p index s) := by
  have places (d : Discard) : SamePorts s (discardPlace (setMrg (fun m => { m with discard := some d }) s)) := by
    unfold discardPlace
    repeat' split
    all_goals exact ⟨rfl, rfl, rfl, rfl, rfl⟩
  unfold reqDiscard
  dsimp only
  repeat' split
  all_goals first
    | exact samePorts_answerPlain _ _ (SamePorts.refl s)
    | exact places _

/-- CHECKPOINT answers or starts its run (R129). -/
theorem samePorts_reqCheckpoint (p : Port) (s : State) : SamePorts s (reqCheckpoint p s) := by
  unfold reqCheckpoint
  split
  · exact samePorts_answerPlain _ _ (SamePorts.refl s)
  · split
    · exact samePorts_answerPlain _ _ (SamePorts.refl s)
    · constructor <;> simp

/-- The queries with a parameter answer alone (R173 to R175). -/
theorem samePorts_reqQueryRegion (p : Port) (index map : Nat) (s : State) : SamePorts s (reqQueryRegion p index map s) := by
  unfold reqQueryRegion
  repeat' split
  all_goals exact samePorts_answer _ _ _ _ _ _ _ (SamePorts.refl s)

theorem samePorts_reqQueryOverlay (p : Port) (grain : Nat) (s : State) : SamePorts s (reqQueryOverlay p grain s) := by
  unfold reqQueryOverlay
  split <;> exact samePorts_answer _ _ _ _ _ _ _ (SamePorts.refl s)

theorem samePorts_reqQueryRetired (p : Port) (start : Nat) (s : State) : SamePorts s (reqQueryRetired p start s) := by
  unfold reqQueryRetired
  split <;> exact samePorts_answer _ _ _ _ _ _ _ (SamePorts.refl s)

/-- ACK_NOTICES empties a part of its port's notice queue and answers (R180). -/
theorem samePorts_reqAckNotices (p : Port) (n : BitVec 32) (s : State) : SamePorts s (reqAckNotices p n s) := by
  unfold reqAckNotices
  exact samePorts_answer _ _ _ _ _ _ _ (samePorts_setMg _ _ (SamePorts.refl s))

/-- No owner of a request touches the host ports (R172). -/
theorem samePorts_takeOwner (p : Port) (r : MReq) (s : State) : SamePorts s (takeOwner p r s) := by
  unfold takeOwner
  cases r with
  | stage => exact samePorts_reqStage ..
  | putRegion => exact samePorts_reqPutRegion ..
  | clearRegion => exact samePorts_reqClearRegion ..
  | setCapacity => exact samePorts_reqSetCapacity ..
  | unstage => exact samePorts_reqUnstage ..
  | activate => exact samePorts_reqActivate ..
  | setLayout => exact samePorts_reqSetLayout ..
  | merge => exact samePorts_reqMerge ..
  | haltMerge => exact samePorts_reqHaltMerge ..
  | discard => exact samePorts_reqDiscard ..
  | checkpoint => exact samePorts_reqCheckpoint ..
  | queryRegion => exact samePorts_reqQueryRegion ..
  | queryOverlay => exact samePorts_reqQueryOverlay ..
  | querySlots => exact samePorts_answer _ _ _ _ _ _ _ (SamePorts.refl s)
  | queryRetired => exact samePorts_reqQueryRetired ..
  | queryJournal => exact samePorts_answer _ _ _ _ _ _ _ (SamePorts.refl s)
  | ackNotices => exact samePorts_reqAckNotices ..
  | unknown => exact samePorts_answerPlain _ _ (SamePorts.refl s)

/-- No request block that is handed over touches the host ports (R169, R170). -/
theorem samePorts_request (p : Port) (q : BitVec 16) (r : MReq) (s : State) : SamePorts s (request p q r s) := by
  unfold request post
  dsimp only
  repeat' split
  · exact SamePorts.refl s
  · exact SamePorts.refl s
  · unfold acceptAndTake
    dsimp only
    split
    · exact samePorts_answerPlain _ _ (samePorts_setMg _ _ (SamePorts.refl s))
    · exact (samePorts_setMg _ _ (SamePorts.refl s)).trans (samePorts_takeOwner ..)
  · exact samePorts_setMg _ _ (SamePorts.refl s)

/-! ## The block of a window WRITE (R64, R169) -/

/-- A request block is not received while a request is in progress (R169). -/
theorem post_busy {p : Port} {q : BitVec 16} {r : MReq} (h : (s.mg p).inProgress ≠ none) : post p q r s = (false, s) := by
  unfold post
  exact if_pos (Option.isSome_iff_ne_none.2 h)

/-- A request block is received when no request is in progress (R169). -/
theorem post_received {p : Port} {q : BitVec 16} {r : MReq} (h : (s.mg p).inProgress = none) :
    post p q r s = (true, request p q r s) := by
  have hr : (post p q r s).1 = true := by
    unfold post
    dsimp only
    rw [if_neg (by simp [h])]
    split
    · rfl
    · split <;> rfl
  exact Prod.ext hr rfl

/-- A management request command is the hand-over of the request it carries (R169; log entry 3). -/
theorem exec_management {i : Instr} {p : Port} {q : BitVec 16} {code : Nat} {r : MReq}
    (h : i.request? = some (p, q, code)) (hr : i.management? = some r) (s : State) :
    exec i s = .next (request p q r s) := by
  cases i <;> cases h <;> cases hr <;> rfl

/-- The DATA of the one block of an ACTIVE window WRITE is handed to the Management Unit (R64, R154). -/
theorem takeData_window {block : Block} {r : Record} (hd : s.deferred? c = none) (hr : s.rec? c = some r)
    (ho : r.op = .write) (hp : r.path = some .window) (hw : r.winding = false) (hn : (s.tag c).next = 0)
    (hg : (s.tag c).granted = 1) : takeData c 0 block (blockCheck block) s =
      takeWindowBlock c block (s.setTag c { s.tag c with moved := (s.tag c).moved + 1, next := 1 }) := by
  have hnamed : s.named c = some (.write, r.count) := by
    unfold State.named
    simp [hd, hr, ho]
  have hwind : s.windingDown c = false := by
    unfold State.windingDown
    simp [hr, hw]
  unfold takeData
  simp only [hnamed, hwind, hn, hg]
  simp [placeData, hr, hp, hn, hg]

/-- DATA for an OPEN tag of a port that is UP, while the link is not DOWN (R154). -/
theorem exec_data {p : Port} {tag index : Nat} {block : Block} {check : BitVec 32} (hp : (s.hp p).condition = .up)
    (ho : (s.tag ⟨p, tag⟩).isOpen = true) (hl : s.te.link ≠ .down) :
    exec (.data p tag index block check) s = .next (takeData ⟨p, tag⟩ index block check s) := by
  have hk : (takeData ⟨p, tag⟩ index block check s).te.link = s.te.link :=
    (keeps_takeData ⟨p, tag⟩ index block check (Keeps.refl s)).link
  have e : exec (.data p tag index block check) s = .next (settleDown (takeData ⟨p, tag⟩ index block check s)) := by
    show Host.Outcome.next _ = _
    simp only [portUp_of_up hp, ho, Bool.and_self, if_true]
  rw [e, settleDown_of_link (hk ▸ hl)]

/-- A tag's condition is that of its port, whatever the tag holds. -/
theorem condition_setTag (s : State) (c : CmdId) (t : Tag) (p : Port) :
    ((s.setTag c t).hp p).condition = (s.hp p).condition := by
  unfold State.setTag
  cases hc : c.port <;> cases p <;> rfl

/-- A record ends the same way after a request block has been handed over, with the attention flag as it leaves it. -/
theorem endRecord_after {t : State} (res : Result) (done : Nat) (h : SamePorts s t) (hp : (s.hp c.port).condition = .up)
    (hd : s.deferred? c = none) : (endRecord c res done none 0 t).endedWith s c [t.statusFor c res done none 0] := by
  obtain ⟨hrec, htag, hout⟩ := endRecord_ends c res done none 0 (s := t)
    (by rw [hp_congr c.port h.hpA h.hpB, hp]; simp) ((deferred_congr c h.deferred).trans hd)
  exact ⟨hrec, htag, hout.trans (by rw [out_congr c.port h.outA h.outB])⟩

/-- The request block of a window WRITE is handed over, or the WRITE ends WINDOW_BUSY (R64, R169). -/
theorem data_window {p : Port} {tag : Nat} {block : Block} {r : Record} (hans : s.answerable ⟨p, tag⟩)
    (hl : s.te.link ≠ .down) (hopen : (s.tag ⟨p, tag⟩).isOpen = true) (hr : s.rec? ⟨p, tag⟩ = some r)
    (ho : r.op = .write) (hpath : r.path = some .window) (hw : r.winding = false)
    (hn : (s.tag ⟨p, tag⟩).next = 0) (hg : (s.tag ⟨p, tag⟩).granted = 1) :
    ((s.mg p).inProgress ≠ none → ∃ t, exec (.data p tag 0 block (blockCheck block)) s = .next t ∧
      t.endedWith s ⟨p, tag⟩ [s.statusFor ⟨p, tag⟩ .windowBusy 0 none 0] ∧ t.mgA = s.mgA ∧ t.mgB = s.mgB) ∧
    ((s.mg p).inProgress = none → ∀ (i : Instr) (code : Nat), i.request? = some (p, (parseRequest block).1, code) →
      i.management? = some (parseRequest block).2 →
      ∃ t u, exec i (s.setTag ⟨p, tag⟩ { s.tag ⟨p, tag⟩ with moved := (s.tag ⟨p, tag⟩).moved + 1, next := 1 }) = .next u ∧
        exec (.data p tag 0 block (blockCheck block)) s = .next t ∧ t.mgA = u.mgA ∧ t.mgB = u.mgB ∧
        t.map.stage = u.map.stage ∧ t.endedWith s ⟨p, tag⟩ [u.statusFor ⟨p, tag⟩ .ok 1 none 0]) := by
  obtain ⟨hup, hd⟩ := hans
  rw [exec_data hup hopen hl, takeData_window hd hr ho hpath hw hn hg]
  generalize { s.tag ⟨p, tag⟩ with moved := (s.tag ⟨p, tag⟩).moved + 1, next := 1 } = tag'
  have hup' : ((s.setTag ⟨p, tag⟩ tag').hp p).condition = .up := (condition_setTag ..).trans hup
  have hd' : (s.setTag ⟨p, tag⟩ tag').deferred? ⟨p, tag⟩ = none := (deferred_congr _ (by simp)).trans hd
  have hout (q : Port) : (s.setTag ⟨p, tag⟩ tag').out q = s.out q := out_setTag ..
  unfold takeWindowBlock
  dsimp only
  refine ⟨fun hb => ⟨_, rfl, ?_⟩, fun hb i code hi hm => ?_⟩
  · rw [post_busy (by rw [mg_setTag]; exact hb)]
    refine ⟨?_, by simp, by simp⟩
    exact endRecord_ends_of .windowBusy 0 none 0 (hout p) (mg_setTag ..) (by rw [hup']; simp) hd'
  · refine ⟨_, _, exec_management hi hm _, rfl, ?_⟩
    rw [post_received (by rw [mg_setTag]; exact hb)]
    refine ⟨by simp, by simp, by simp, ?_⟩
    obtain ⟨hrec, htag, hsent⟩ := endRecord_after .ok 1
      (samePorts_request p (parseRequest block).1 (parseRequest block).2 (s.setTag ⟨p, tag⟩ tag')) hup' hd'
    exact ⟨hrec, htag, hsent.trans (by rw [hout])⟩

/-- Settles O19: ADMISSION of a window command, the blocks of the window, and the DATA of a window WRITE. -/
theorem windowCommandsAreServed : Obligations.WindowCommandsAreServed :=
  ⟨fun _ _ hr hl hs hw hi hsh hopen hg hm hcut => admission_window hr hl hs hw hi hsh hopen hg hm hcut,
    fun _ _ => ⟨rfl, rfl, rfl⟩,
    fun _ _ _ _ _ hans hl hopen hr ho _ hpath hw hn hg => data_window hans hl hopen hr ho hpath hw hn hg⟩

end Sys2Proof.Machine
end

section
/-! SUPPORT. What one step keeps: the bounds of notice queues, charges and tags, and the target operation table. -/

namespace Sys2Proof.Machine

variable {s t : State}

/-- After reset no queue holds a notice, no buffer is charged, each port has 16 tags, and no operation or request stands. -/
theorem bounds_of_reset : State.reset.noticesOk ∧ State.reset.pool.withinQuota ∧ State.reset.portsOk ∧
    State.reset.te.tableOk ∧ State.reset.te.queuesOk := by
  refine ⟨⟨⟨?_, ?_⟩, ⟨?_, ?_⟩⟩, ⟨?_, ?_, ?_⟩, ⟨?_, ?_⟩, tableOk_empty rfl ?_,
    fun r (hr : r ∈ ([] : List Request)) => nomatch hr⟩
  all_goals decide

/-- What one step can do: idle on an empty queue, reset the part, or keep what the operations of the part keep. -/
theorem step_cases (h : step s = .next t) : t = s ∨
    (∃ hold pending, t = { State.reset with
      map := { State.reset.map with hold := hold }, outA := s.outA, outB := s.outB, outT := s.outT ++ [.linkreset],
      free := s.free, pending := pending }) ∨
    ∃ rest, Stays { s with pending := rest } t := by
  unfold step at h
  split at h
  case h_1 => exact .inl (by simpa using h.symm)
  case h_2 c rest _ =>
    by_cases hc : ∃ hold, c = .deviceReset hold
    · obtain ⟨hold, rfl⟩ := hc
      rw [exec_deviceReset] at h
      cases h
      exact .inr (.inl ⟨hold, rest, rfl⟩)
    · obtain ⟨u, e, k⟩ := stays_exec (s := { s with pending := rest }) c (not_exists.1 hc)
      rw [e] at h
      cases h
      exact .inr (.inr ⟨rest, k⟩)

/-- Settles O57: DEVICE_RESET empties what is bounded, and every other command keeps the bounds. -/
theorem queuesAndChargesStayBounded : Obligations.QueuesAndChargesStayBounded := by
  intro s t ⟨hn, hq, hp⟩ h
  obtain ⟨notices, quota, ports, -, -⟩ := bounds_of_reset
  rcases step_cases h with rfl | ⟨hold, pending, rfl⟩ | ⟨rest, k⟩
  · exact ⟨hn, hq, hp⟩
  · exact ⟨notices, quota, ports⟩
  · exact ⟨k.notices hn, k.quota hq, k.ports hp⟩

/-- Settles O58: DEVICE_RESET empties the table and the queues, and every other command keeps them well formed. -/
theorem targetTableStaysWithinCaps : Obligations.TargetTableStaysWithinCaps := by
  intro s t hs h
  obtain ⟨-, -, -, table, queues⟩ := bounds_of_reset
  rcases step_cases h with rfl | ⟨hold, pending, rfl⟩ | ⟨rest, k⟩
  · exact hs
  · exact ⟨table, queues⟩
  · exact k.engine hs

end Sys2Proof.Machine
end

section
/-! SUPPORT. One grant of a target tag: the lowest free tag, the class the arbiter serves, and what the issue of a request
leaves as it was. -/

namespace Sys2Proof.Machine

variable {s : State} {tag : Nat} {r : Request} {rest : List Request}

/-! ## The lowest free tag and the oldest request (R71, R72) -/

/-- A tag below 32 that is free, with none free below it, is the one the arbiter grants (R72). -/
theorem freeTag_of_lowest (ht : tag < 32) (hfree : ∀ o ∈ s.te.ops, o.tag ≠ tag)
    (hlow : ∀ k, k < tag → ∃ o ∈ s.te.ops, o.tag = k) : s.freeTag = some tag := by
  refine List.find?_range_eq_some.2 ⟨?_, List.mem_range.2 ht, fun k hk => ?_⟩
  · simpa using hfree
  · simpa using hlow k hk

/-- A class whose head request is within its cap serves that one (R71). -/
theorem oldest_head {c : TClass} (hq : s.te.queue c = r :: rest) (hcap : s.withinCap r = true) : s.oldest c = some 0 := by
  unfold State.oldest
  rw [hq]
  simp [List.findIdx?_cons, hcap]

theorem oldest_empty {c : TClass} (hq : s.te.queue c = []) : s.oldest c = none := by
  unfold State.oldest
  rw [hq]
  rfl

/-- The journal is served first, unless background work is due by the skip count (R72). -/
theorem arbiterClass_journal (hb : ¬ ((s.oldest .background).isSome = true ∧ s.te.skip = Config.skipLimit))
    (hj : (s.oldest .journal).isSome = true) : s.arbiterClass = some .journal := by
  unfold State.arbiterClass
  simp only [Bool.and_eq_true, decide_eq_true_eq]
  rw [if_neg hb, if_pos hj]

/-- With no journal and no recovery request, the host port the pointer names is served (R72). -/
theorem arbiterClass_host (hb : ¬ ((s.oldest .background).isSome = true ∧ s.te.skip = Config.skipLimit))
    (hj : s.oldest .journal = none) (hr : s.oldest .recovery = none) (hh : (s.oldest (.host s.te.hostPtr)).isSome = true) :
    s.arbiterClass = some (.host s.te.hostPtr) := by
  unfold State.arbiterClass
  simp only [Bool.and_eq_true, decide_eq_true_eq]
  rw [if_neg hb, if_neg (by simp [hj]), if_neg (by simp [hr]), if_pos hh]

/-- The grant takes the head request of the class that is served, and its tag is the lowest free one (R72). -/
theorem grantOne_head {c : TClass} (hl : s.te.link = .up) (ht : s.freeTag = some tag) (hc : s.arbiterClass = some c)
    (hq : s.te.queue c = r :: rest) (hcap : s.withinCap r = true) :
    grantOne s = issueOp tag r
      { s with te := afterGrant c (s.oldest .background).isSome (s.te.setQueue c rest) } := by
  unfold grantOne
  rw [if_neg (by simp [hl]), ht, hc]
  simp [oldest_head hq hcap, hq]

/-! ## The issue of a request (R70, R164) -/

/-- An operation under the tag that was free is the one the tag names. -/
theorem op?_append_free {o : TargetOp} (hfree : ∀ x ∈ s.te.ops, x.tag ≠ o.tag) :
    (s.te.ops ++ [o]).find? (fun x => x.tag == o.tag) = some o := by
  rw [List.find?_append, List.find?_eq_none.2 (by simpa using hfree)]
  simp

/-- No GRANT is sent for a WRITE (R164). -/
theorem grantTarget_write {o : TargetOp} (n : Nat) (ho : s.op? tag = some o) (hw : o.req.op = .write) :
    grantTarget n tag s = s := by
  cases n with
  | zero => rfl
  | succ n =>
    unfold grantTarget
    rw [ho]
    simp [hw]

/-- GRANT frames change the accounts of operations alone: each keeps its tag and its request. -/
theorem grantTarget_te (n tag : Nat) (s : State) : ∃ ops, (grantTarget n tag s).te = { s.te with ops := ops } ∧
    ops.map (fun o => (o.tag, o.req)) = s.te.ops.map fun o => (o.tag, o.req) := by
  induction n generalizing s with
  | zero => exact ⟨_, rfl, rfl⟩
  | succ n ih =>
    unfold grantTarget
    dsimp only
    split
    · exact ⟨_, rfl, rfl⟩
    · split
      · obtain ⟨ops, hte, hops⟩ := ih (mapOp tag (fun x => { x with granted := x.granted + _ }) (s.sendT (.grant tag _)))
        refine ⟨ops, hte, hops.trans ?_⟩
        simp only [mapOp, State.sendT, List.map_map]
        refine List.map_congr_left fun o _ => ?_
        simp only [Function.comp_apply]
        split <;> rfl
      · exact ⟨_, rfl, rfl⟩

/-- Engines with the same five queues have the same queue of each class. -/
theorem teQueue_congr {a b : TransferEngine} (c : TClass) (hj : a.journalQ = b.journalQ) (hr : a.recoveryQ = b.recoveryQ)
    (hA : a.hostAQ = b.hostAQ) (hB : a.hostBQ = b.hostBQ) (hb : a.backQ = b.backQ) : a.queue c = b.queue c := by
  cases c with
  | journal => exact hj
  | recovery => exact hr
  | host p => cases p with
    | A => exact hA
    | B => exact hB
  | background => exact hb

/-- A request is issued by adding its operation, marking its piece or its relocation, and sending CMD and its grants (R70). -/
theorem issueOp_marked (tag : Nat) (r : Request) (s : State) : ∃ u : State,
    issueOp tag r s = grantTarget grantRounds tag (u.sendT (.cmd tag r.op r.first r.count r.durable)) ∧ u.outT = s.outT ∧
      u.te.ops = s.te.ops ++ [{ tag := tag, req := r, granted := 0, moved := 0, got := [], stop := none }] ∧
      u.te.hostPtr = s.te.hostPtr ∧ ∀ c, u.te.queue c = s.te.queue c := by
  unfold issueOp
  dsimp only
  split
  all_goals exact ⟨_, rfl, rfl, rfl, rfl, fun c => teQueue_congr c rfl rfl rfl rfl rfl⟩

/-- After the issue of a request the queues and the pointer are as before, its operation holds the tag, and CMD is the first
frame sent (R70, R164). -/
theorem issueOp_facts (tag : Nat) (r : Request) (s : State) :
    (issueOp tag r s).te.hostPtr = s.te.hostPtr ∧ (∀ c, (issueOp tag r s).te.queue c = s.te.queue c) ∧
      (∃ o ∈ (issueOp tag r s).te.ops, o.tag = tag ∧ o.req = r) ∧
      s.outT ++ [.cmd tag r.op r.first r.count r.durable] <+: (issueOp tag r s).outT := by
  obtain ⟨u, e, hout, hops, hptr, hqueue⟩ := issueOp_marked tag r s
  obtain ⟨ops, hte, hfaces⟩ := grantTarget_te grantRounds tag (u.sendT (.cmd tag r.op r.first r.count r.durable))
  have hmem : (tag, r) ∈ ops.map fun o => (o.tag, o.req) := by
    rw [hfaces, sendT_te, hops]
    simp
  obtain ⟨x, hx, hface⟩ := List.mem_map.1 hmem
  rw [e, hte]
  refine ⟨hptr, fun c => (teQueue_congr c rfl rfl rfl rfl rfl).trans (hqueue c),
    ⟨x, hx, congrArg Prod.fst hface, congrArg Prod.snd hface⟩, ?_⟩
  rw [← hout]
  exact (keeps_grantTarget grantRounds tag (Keeps.refl (u.sendT (.cmd tag r.op r.first r.count r.durable)))).outT

/-- The issue of a journal block write adds its operation and its CMD frame, and nothing more (R70, R164). -/
theorem issueOp_journal (hfree : ∀ o ∈ s.te.ops, o.tag ≠ tag) (ho : r.owner = .journal) (hw : r.op = .write) :
    issueOp tag r s = ({ s with te := { s.te with
      ops := s.te.ops ++ [{ tag := tag, req := r, granted := 0, moved := 0, got := [], stop := none }] } } : State).sendT
        (.cmd tag .write r.first r.count r.durable) := by
  unfold issueOp
  rw [ho, hw]
  exact grantTarget_write _ (op?_append_free (o := { tag := tag, req := r, granted := 0, moved := 0, got := [], stop := none })
    hfree) hw

/-- Settles O22: while the link is UP the class is the journal, or the host port the pointer names, and its head is issued. -/
theorem arbiterGrantsTheLowestFreeTag : Obligations.ArbiterGrantsTheLowestFreeTag := by
  intro s
  refine ⟨fun hl => ?_, fun hl tag ht hfree hlow hback r rest hcap => ?_⟩
  · show Host.Outcome.next (grantOne s) = _
    unfold grantOne
    rw [if_pos hl]
  have htag := freeTag_of_lowest ht hfree hlow
  refine ⟨fun hq ho hw => ⟨_, rfl, ?_⟩, fun hj hr hq => ⟨_, rfl, ?_⟩⟩
  · have hold : s.oldest .journal = some 0 := oldest_head hq hcap
    rw [grantOne_head hl htag (arbiterClass_journal hback (by simp [hold])) hq hcap,
      issueOp_journal (s := { s with te := afterGrant .journal _ (s.te.setQueue .journal rest) }) hfree ho hw]
    exact ⟨rfl, rfl, rfl⟩
  · have hold := oldest_head hq hcap
    rw [grantOne_head hl htag
      (arbiterClass_host hback (oldest_empty hj) (oldest_empty hr) (by simp [hold])) hq hcap]
    obtain ⟨hptr, hqueue, hop, hout⟩ := issueOp_facts tag r { s with
      te := afterGrant (.host s.te.hostPtr) (s.oldest .background).isSome (s.te.setQueue (.host s.te.hostPtr) rest) }
    exact ⟨hptr, (hqueue _).trans (queue_setQueue_te s.te (.host s.te.hostPtr) rest), hop, hout⟩

end Sys2Proof.Machine
end

section
/-! SUPPORT. GRANT and DATA on an OPEN tag, the delivery of the last block of a READ, the block that joins its piece, and the
wind-down of a record of which nothing is issued. -/

namespace Sys2Proof.Machine

variable {s : State} {c : CmdId} {r : Record}

/-! ## What an OPEN tag names (R152, R154) -/

/-- A tag without a deferred arrival names its record. -/
theorem named_of_rec? (hd : s.deferred? c = none) (hr : s.rec? c = some r) : s.named c = some (r.op, r.count) := by
  unfold State.named
  rw [hd, hr]
  rfl

theorem windingDown_of_rec? (hd : s.deferred? c = none) (hr : s.rec? c = some r) : s.windingDown c = r.winding := by
  unfold State.windingDown
  rw [hd, hr]
  rfl

/-- GRANT for an OPEN tag of a port that is UP, while the link is not DOWN (R154). -/
theorem exec_grant {p : Port} {tag k : Nat} (hp : (s.hp p).condition = .up) (ho : (s.tag ⟨p, tag⟩).isOpen = true)
    (hl : s.te.link ≠ .down) : exec (.grant p tag k) s = .next (takeGrant ⟨p, tag⟩ k s) := by
  have hk : (takeGrant ⟨p, tag⟩ k s).te.link = s.te.link := (keeps_takeGrant ⟨p, tag⟩ k (Keeps.refl s)).link
  have e : exec (.grant p tag k) s = .next (settleDown (takeGrant ⟨p, tag⟩ k s)) := by
    show Host.Outcome.next _ = _
    simp only [portUp_of_up hp, ho, Bool.and_self, if_true]
  rw [e, settleDown_of_link (hk ▸ hl)]

/-- A GRANT of 1 to 16 blocks that stays within the command and the window of 64 is counted, and delivery goes on (R154). -/
theorem takeGrant_counted {k : Nat} (hd : s.deferred? c = none) (hr : s.rec? c = some r) (ho : r.op = .read)
    (hw : r.winding = false) (h1 : 1 ≤ k) (h16 : k ≤ 16) (hcount : (s.tag c).granted + k ≤ r.count)
    (hwin : (s.tag c).granted + k - (s.tag c).moved ≤ 64) :
    takeGrant c k s = deliver c (s.setTag c { s.tag c with granted := (s.tag c).granted + k }) := by
  have hin : ¬ (k = 0 ∨ Config.grantMax < k ∨ r.count < (s.tag c).granted + k ∨
      Config.grantWindow < (s.tag c).granted + k - (s.tag c).moved) := by
    unfold Config.grantMax Config.grantWindow
    omega
  unfold takeGrant
  rw [named_of_rec? hd hr]
  simp only [windingDown_of_rec? hd hr, ho, hw, hin, Bool.false_eq_true, and_false, if_false, ne_eq, not_true_eq_false]

/-! ## Delivery (R69) -/

/-- The state after one block of a READ has been sent and counted (R69). -/
def countedBlock (c : CmdId) (b : Block) (s : State) : State :=
  (s.send c.port (.data c.tag (s.tag c).moved b)).setTag c
    { s.tag c with moved := (s.tag c).moved + 1, next := (s.tag c).next + 1 }

/-- The state after its buffer has been given back as well (R67). -/
def sentBlock (c : CmdId) (first : Nat) (b : Block) (s : State) : State :=
  releaseBlock c (first + (s.tag c).moved) (countedBlock c b s)

theorem sentBlock_rec? {b : Block} (first : Nat) (hr : s.rec? c = some r) :
    ∃ plan, (sentBlock c first b s).rec? c = some { r with plan := plan } :=
  releaseBlock_rec? (((rec?_setTag ..).trans (rec?_send ..)).trans hr)

theorem sentBlock_tag (first : Nat) (b : Block) (hlen : c.tag < (s.hp c.port).tags.length) :
    (sentBlock c first b s).tag c = { s.tag c with moved := (s.tag c).moved + 1, next := (s.tag c).next + 1 } := by
  unfold sentBlock
  rw [tag_congr (s := countedBlock c b s) c (by simp) (by simp)]
  exact tag_setTag (by rw [hp_send]; exact hlen)

/-- A block that is sent adds its DATA frame, and leaves the notices and the condition of its port alone. -/
theorem sentBlock_port (first : Nat) (b : Block) (s : State) :
    (sentBlock c first b s).out c.port = s.out c.port ++ [.data c.tag (s.tag c).moved b] ∧
      (sentBlock c first b s).mg c.port = s.mg c.port ∧
      ((sentBlock c first b s).hp c.port).condition = (s.hp c.port).condition ∧
      (sentBlock c first b s).deferred? c = s.deferred? c := by
  unfold sentBlock
  refine ⟨?_, ?_, ?_, ?_⟩
  · rw [out_congr (s := countedBlock c b s) c.port (by simp) (by simp)]
    exact (out_setTag ..).trans (out_send ..)
  · rw [mg_congr (s := countedBlock c b s) c.port (by simp) (by simp)]
    exact (mg_setTag ..).trans (mg_send ..)
  · rw [hp_congr (s := countedBlock c b s) c.port (by simp) (by simp)]
    exact (condition_setTag ..).trans (congrArg _ (hp_send ..))
  · exact deferred_congr c (by simp [countedBlock])

/-- With one grant unused, a ready block is the one that is sent (R69). -/
theorem deliverBlocks_one {b : Block} (n : Nat) (hr : s.rec? c = some r) (ho : r.op = .read) (hs : r.state = .active)
    (hw : r.winding = false) (hlen : c.tag < (s.hp c.port).tags.length) (hg : (s.tag c).granted = (s.tag c).moved + 1)
    (hb : r.readyBlock (s.tag c).moved = some b) : deliverBlocks (n + 1) c s = sentBlock c r.first b s := by
  obtain ⟨plan, hplan⟩ := sentBlock_rec? (b := b) r.first hr
  have hused : ¬ ((sentBlock c r.first b s).tag c).moved < ((sentBlock c r.first b s).tag c).granted := by
    rw [sentBlock_tag _ _ hlen]
    simp [hg]
  unfold deliverBlocks
  rw [hr]
  dsimp only
  rw [if_pos ⟨ho, hs, hw, by omega⟩, hb]
  exact deliverBlocks_stop n hplan hused

/-- A READ that has met no failure and whose every block has been sent ends OK (R69, R74). -/
theorem deliveryCheck_ends (hr : s.rec? c = some r) (ho : r.op = .read) (hs : r.state = .active) (hw : r.winding = false)
    (hres : r.result = none) (hcut : r.cut = none) (hm : (s.tag c).moved = r.count) :
    deliveryCheck c s = endRecord c .ok r.count none 0 s := by
  have hend : r.deliveryEnd = r.count := by
    unfold Record.deliveryEnd
    rw [hcut]
  unfold deliveryCheck
  rw [hr]
  dsimp only
  rw [if_pos ⟨ho, hs, hw, hm.trans hend.symm⟩, hres, hm]

/-- The last block of a READ is sent, and the READ ends OK (R69, R74). -/
theorem deliver_last {b : Block} (hr : s.rec? c = some r) (ho : r.op = .read) (hs : r.state = .active)
    (hw : r.winding = false) (hres : r.result = none) (hcut : r.cut = none)
    (hlen : c.tag < (s.hp c.port).tags.length) (hg : (s.tag c).granted = (s.tag c).moved + 1)
    (hm : (s.tag c).moved + 1 = r.count) (hb : r.readyBlock (s.tag c).moved = some b) :
    deliver c s = endRecord c .ok r.count none 0 (sentBlock c r.first b s) := by
  obtain ⟨plan, hplan⟩ := sentBlock_rec? (b := b) r.first hr
  unfold deliver
  rw [hg, deliverBlocks_one _ hr ho hs hw hlen hg hb]
  exact deliveryCheck_ends (r := { r with plan := plan }) hplan ho hs hw hres hcut (by rw [sentBlock_tag _ _ hlen]; exact hm)

/-- The last block and the end of a READ, as the frames of its port see them. -/
theorem deliver_last_endedWith {b : Block} (hr : s.rec? c = some r) (ho : r.op = .read) (hs : r.state = .active)
    (hw : r.winding = false) (hres : r.result = none) (hcut : r.cut = none)
    (hlen : c.tag < (s.hp c.port).tags.length) (hg : (s.tag c).granted = (s.tag c).moved + 1)
    (hm : (s.tag c).moved + 1 = r.count) (hb : r.readyBlock (s.tag c).moved = some b)
    (hup : (s.hp c.port).condition = .up) (hd : s.deferred? c = none) :
    (deliver c s).endedWith s c [.data c.tag (s.tag c).moved b, s.statusFor c .ok r.count none 0] := by
  obtain ⟨hout, hmg, hcond, hdef⟩ := sentBlock_port (c := c) r.first b s
  rw [deliver_last hr ho hs hw hres hcut hlen hg hm hb]
  obtain ⟨hrec, hfree, hsent⟩ := endRecord_ends c .ok r.count none 0 (s := sentBlock c r.first b s)
    (by rw [hcond, hup]; simp) (hdef.trans hd)
  refine ⟨hrec, hfree, ?_⟩
  rw [hsent, hout, List.append_assoc]
  unfold State.statusFor
  rw [hmg]
  rfl

/-- Settles O8: the grant is counted, the block is sent, and the end of the READ follows. -/
theorem readEndsWithItsLastBlock : Obligations.ReadEndsWithItsLastBlock := by
  intro p tag s r b hp hopen hd hr hl ho hs hw hres hcut hg hm hb
  refine ⟨_, exec_grant hp hopen hl, ?_⟩
  rw [takeGrant_counted hd hr ho hw (Nat.le_refl 1) (by decide) (by omega) (by omega)]
  have htag := tag_setTag (c := ⟨p, tag⟩) (t := { s.tag ⟨p, tag⟩ with granted := (s.tag ⟨p, tag⟩).granted + 1 })
    (tag_lt_of_open hopen)
  have hlen := tag_lt_of_open (c := ⟨p, tag⟩) (s := s.setTag ⟨p, tag⟩
    { s.tag ⟨p, tag⟩ with granted := (s.tag ⟨p, tag⟩).granted + 1 }) (by rw [htag]; exact hopen)
  obtain ⟨hrec, hfree, hout⟩ := deliver_last_endedWith ((rec?_setTag ..).trans hr) ho hs hw hres hcut hlen
    (by rw [htag, hg]) (by rw [htag]; exact hm) (by rw [htag]; exact hb) ((condition_setTag ..).trans hp)
    ((deferred_congr _ (by simp)).trans hd)
  refine ⟨hrec, hfree, ?_⟩
  rw [hout, htag, out_setTag]
  unfold State.statusFor
  rw [mg_setTag]

/-! ## Wind-down (R78) -/

/-- A piece of a record after a wind-down: what is not issued is withdrawn, and an ended piece of a READ holds nothing. -/
def Piece.wound (op : HostOp) (p : Piece) : Piece :=
  let q := if p.unissued then p.drop .withdrawn else p
  if decide (op = .read) && q.isOver then q.drop q.state else q

/-- A record as a wind-down marks it (R78). -/
def Record.wind (stopped : Bool) (cause : Option PendingResult) (r : Record) : Record :=
  { r with
    winding := true, state := if stopped then .stopping else r.state,
    result := match r.result with
      | some o => some o
      | none => cause }

/-- A record after a wind-down. -/
def Record.wound (stopped : Bool) (cause : Option PendingResult) (r : Record) : Record :=
  { r.wind stopped cause with plan := r.plan.map (Piece.wound r.op) }

/-- The state after a wind-down, before its end check. -/
def woundDown (c : CmdId) (stopped : Bool) (cause : Option PendingResult) (s : State) : State :=
  freeEnded c (withdrawPieces c Piece.unissued (withdrawHost (Owner.ofFlush c) (mapRec c (Record.wind stopped cause) s)))

theorem windDown_eq (c : CmdId) (stopped : Bool) (cause : Option PendingResult) (s : State) :
    windDown c stopped cause s = endCheck c (woundDown c stopped cause s) := rfl

/-- A wind-down changes a piece only in what it holds and, of a piece not issued, in its state. -/
theorem Piece.wound_cases (op : HostOp) (p : Piece) :
    (p.wound op).kind = p.kind ∧ (p.wound op).count = p.count ∧
      (p.wound op).state = if p.unissued then .withdrawn else p.state := by
  unfold Piece.wound
  by_cases hu : p.unissued
  · simp only [hu, if_true]
    split <;> exact ⟨rfl, rfl, rfl⟩
  · simp only [hu, Bool.false_eq_true, if_false]
    split <;> exact ⟨rfl, rfl, rfl⟩

/-- After a wind-down the pieces still to end are those issued or handed (R78). -/
theorem Piece.wound_isUnended (op : HostOp) (p : Piece) : (p.wound op).isUnended = p.isPending := by
  obtain ⟨hkind, -, hstate⟩ := p.wound_cases op
  unfold Piece.isUnended Piece.isPending
  rw [hkind, hstate]
  unfold Piece.unissued
  by_cases hk : p.kind = .lost <;> cases p.state <;> simp [hk]

/-- A wind-down leaves the blocks done of a plan (R77). -/
theorem leadingDone_wound (op : HostOp) (plan : List Piece) : leadingDone (plan.map (Piece.wound op)) = leadingDone plan := by
  induction plan with
  | nil => rfl
  | cons p ps ih =>
    obtain ⟨-, hcount, hstate⟩ := p.wound_cases op
    have hdone : (p.wound op).state = .done ↔ p.state = .done := by
      rw [hstate]
      unfold Piece.unissued
      by_cases hk : p.kind = .lost <;> cases p.state <;> simp [hk]
    simp only [List.map_cons, leadingDone, hdone, hcount, ih]

theorem woundDown_rec? {stopped : Bool} {cause : Option PendingResult} (hr : s.rec? c = some r) :
    (woundDown c stopped cause s).rec? c = some (r.wound stopped cause) := by
  have hm : (mapRec c (Record.wind stopped cause) s).rec? c = some (r.wind stopped cause) :=
    (rec?_mapRec (f := Record.wind stopped cause) fun _ => rfl).trans (congrArg _ hr)
  have hw := freeEnded_rec? (withdrawPieces_rec? (w := Piece.unissued)
    ((rec_congr (t := withdrawHost (Owner.ofFlush c) (mapRec c (Record.wind stopped cause) s)) c rfl).trans hm))
  refine hw.trans ?_
  unfold Record.wound
  rw [List.map_map]
  rfl

theorem hasWork_congr {t : State} (m : Owner → Bool) (h : t.te = s.te) : t.hasWork m = s.hasWork m := by
  unfold State.hasWork
  rw [h]

/-- A withdrawal of requests makes no work. -/
theorem hasWork_withdrawHost {m : Owner → Bool} (gone : Owner → Bool) (h : s.hasWork m = false) :
    (withdrawHost gone s).hasWork m = false := by
  unfold State.hasWork at h ⊢
  simp only [Bool.or_eq_false_iff, List.any_eq_false] at h ⊢
  obtain ⟨⟨⟨hrest, hA⟩, hB⟩, hback⟩ := h
  exact ⟨⟨⟨hrest, fun r hr => hA r (List.mem_filter.1 hr).1⟩, fun r hr => hB r (List.mem_filter.1 hr).1⟩, hback⟩

theorem freeEnded_te (c : CmdId) (s : State) : (freeEnded c s).te = s.te := by simp

theorem hasWork_withdrawPieces {m : Owner → Bool} (which : Piece → Bool) (h : s.hasWork m = false) :
    (withdrawPieces c which s).hasWork m = false := by
  unfold withdrawPieces
  split
  · exact h
  · dsimp only
    rw [hasWork_congr m (release_te ..), hasWork_congr m (dropClaims_te ..)]
    exact hasWork_withdrawHost (s := mapRec c _ s) _ h

/-- With nothing of a record issued, handed, waiting as a FLUSH or waiting at the journal, a wind-down leaves no work to end
(R78). -/
theorem woundDown_idle {stopped : Bool} {cause : Option PendingResult} (hid : r.id = c)
    (hpend : r.plan.any Piece.isPending = false) (hflush : s.hasWork (Owner.ofFlush c) = false)
    (hhand : s.handOffWaits (.piece c) = false) (hdep : s.isDependant c = false) :
    (woundDown c stopped cause s).workPending (r.wound stopped cause) = false := by
  have hwork : (woundDown c stopped cause s).hasWork (Owner.ofFlush c) = false := by
    unfold woundDown
    rw [hasWork_congr (Owner.ofFlush c) (freeEnded_te ..)]
    exact hasWork_withdrawPieces _ (hasWork_withdrawHost (s := mapRec c _ s) _ hflush)
  have hplan : (r.wound stopped cause).plan.any Piece.isUnended = false := by
    unfold Record.wound
    rw [← hpend, List.any_map]
    exact congrArg (r.plan.any ·) (funext fun p => p.wound_isUnended r.op)
  have hwait : (woundDown c stopped cause s).handOffWaits (.piece c) = false := by
    rw [← hhand]
    unfold State.handOffWaits woundDown
    simp
  have hname : (woundDown c stopped cause s).isDependant c = false := by
    rw [← hdep]
    unfold State.isDependant woundDown
    simp
  have hid' : (r.wound stopped cause).id = c := hid
  unfold State.workPending
  rw [hid', hplan, hwork, hwait, hname]
  rfl

/-- The end of a record that has been wound down and has no work left: by STOP, or with its pending result (R57, R78). -/
theorem endCheck_wound {stopped : Bool} {x : PendingResult} (hr : s.rec? c = some r) (hidle : s.workPending r = false)
    (hs : r.state = if stopped then .stopping else .active) (hw : r.winding = true) (hres : r.result = some x)
    (hx : stopped = true → x = { result := .stopped, block := none }) :
    endCheck c s = endRecord c x.result (r.blocksDone (s.tag c)) x.block 0 s := by
  unfold endCheck
  rw [hr]
  dsimp only
  rw [hidle, hs, hw, hres]
  cases stopped with
  | true =>
    rw [hx rfl]
    rfl
  | false => rfl

/-- A wind-down of which nothing is left to end ends the record in the same act, with its cause and the blocks done (R78). -/
theorem windDown_ends {stopped : Bool} {x : PendingResult} (hr : s.rec? c = some r) (hs : r.state = .active)
    (hres : r.result = none) (hpend : r.plan.any Piece.isPending = false)
    (hflush : s.hasWork (Owner.ofFlush c) = false) (hhand : s.handOffWaits (.piece c) = false)
    (hdep : s.isDependant c = false) (hans : s.answerable c)
    (hx : stopped = true → x = { result := .stopped, block := none }) :
    (windDown c stopped (some x) s).endedWith s c
      [s.statusFor c x.result (r.blocksDone (s.tag c)) x.block 0] := by
  have htag : (woundDown c stopped (some x) s).tag c = s.tag c := tag_congr c (by simp [woundDown]) (by simp [woundDown])
  have hdone : (r.wound stopped (some x)).blocksDone (s.tag c) = r.blocksDone (s.tag c) := by
    have hop : (r.wound stopped (some x)).op = r.op := rfl
    have hlead : leadingDone (r.wound stopped (some x)).plan = leadingDone r.plan := leadingDone_wound ..
    unfold Record.blocksDone
    rw [hop, hlead]
  have hstate : (r.wound stopped (some x)).state = if stopped then .stopping else .active := by
    rw [← hs]
    rfl
  have hresult : (r.wound stopped (some x)).result = some x := by
    unfold Record.wound Record.wind
    dsimp only
    rw [hres]
  rw [windDown_eq, endCheck_wound (woundDown_rec? hr) (woundDown_idle (rec?_id hr) hpend hflush hhand hdep) hstate rfl
    hresult hx, htag, hdone]
  refine endRecord_ends_of _ _ _ _ (out_congr _ ?_ ?_) (mg_congr _ ?_ ?_) ?_ ((deferred_congr c ?_).trans hans.2)
  case refine_5 =>
    rw [hp_congr (s := s) _ (by simp [woundDown]) (by simp [woundDown]), hans.1]
    simp
  all_goals simp [woundDown]

/-- A DATA frame in order whose check fails winds its WRITE down (R78, R157). -/
theorem takeData_badCheck {index : Nat} {block : Block} {check : BitVec 32} (hd : s.deferred? c = none)
    (hr : s.rec? c = some r) (ho : r.op = .write) (hw : r.winding = false) (hi : index = (s.tag c).next)
    (hg : index < (s.tag c).granted) (hc : blockCheck block ≠ check) :
    takeData c index block check s = windDown c false (some { result := .dataCheck, block := none })
      (s.setTag c { s.tag c with next := (s.tag c).next + 1 }) := by
  subst hi
  unfold takeData
  rw [named_of_rec? hd hr]
  simp only [windingDown_of_rec? hd hr, ho, hw, hc, Nat.not_le.2 hg, Bool.false_eq_true, false_and, and_false, if_false, ne_eq,
    not_true_eq_false, false_or, not_false_eq_true, if_true]

/-- STOP of an ACTIVE record is a wind-down (R57). -/
theorem takeStop_active (hd : s.deferred? c = none) (hr : s.rec? c = some r) (hs : r.state = .active) :
    takeStop c s = windDown c true (some { result := .stopped, block := none }) s := by
  unfold takeStop
  rw [hd, if_neg (by simp), hr]
  dsimp only
  rw [hs]

/-- Settles O10: each of the three causes is a wind-down that leaves nothing to end. -/
theorem windDownWithNothingIssuedEndsAtOnce : Obligations.WindDownWithNothingIssuedEndsAtOnce := by
  intro c s r hr hs hw hres hpend hflush hhand hdep hans hl
  obtain ⟨hup, hd⟩ := hans
  refine ⟨fun hopen ho index block check hi hg hc => ?_, fun hruns => ⟨_, rfl, ?_⟩, fun hc hopen => ?_⟩
  · refine ⟨_, exec_data hup hopen hl, ?_⟩
    rw [takeData_badCheck hd hr ho hw hi hg hc]
    obtain ⟨hrec, hfree, hout⟩ := windDown_ends (c := c) (stopped := false) (x := { result := .dataCheck, block := none })
      (s := s.setTag c { s.tag c with next := (s.tag c).next + 1 }) ((rec?_setTag ..).trans hr) hs hres hpend
      ((hasWork_congr _ (by simp)).trans hflush) (by simpa [State.handOffWaits] using hhand)
      (by simpa [State.isDependant] using hdep)
      ⟨(condition_setTag ..).trans hup, (deferred_congr c (by simp)).trans hd⟩ (fun h => by cases h)
    refine ⟨hrec, hfree, ?_⟩
    rw [hout, out_setTag]
    unfold State.statusFor Record.blocksDone
    rw [mg_setTag, ho]
  · rw [hr]
    dsimp only
    rw [if_pos hruns]
    exact windDown_ends hr hs hres hpend hflush hhand hdep ⟨hup, hd⟩ (fun h => by cases h)
  · refine ⟨_, exec_stop_open hup hc hl hopen, ?_⟩
    rw [takeStop_active hd hr hs]
    exact windDown_ends hr hs hres hpend hflush hhand hdep ⟨hup, hd⟩ (fun _ => rfl)

/-! ## Pieces and their requests (R65, R68, R71) -/

/-- Blocks of a plan for which buffers have been claimed, the first piece apart. -/
theorem claimedBlocks_cons (p : Piece) (ps : List Piece) :
    claimedBlocks (p :: ps) = claimedBlocks [p] + claimedBlocks ps := by
  unfold claimedBlocks
  simp

/-- A change of one piece changes the blocks claimed by what it changes of that piece (R68). -/
theorem claimedBlocks_modify {plan : List Piece} {i : Nat} {x : Piece} (f : Piece → Piece) (hx : plan[i]? = some x) :
    claimedBlocks (plan.modify i f) + claimedBlocks [x] = claimedBlocks plan + claimedBlocks [f x] := by
  induction plan generalizing i with
  | nil => simp at hx
  | cons p ps ih =>
    cases i with
    | zero =>
      obtain rfl : p = x := by simpa using hx
      rw [List.modify_zero_cons, claimedBlocks_cons (f p) ps, claimedBlocks_cons p ps]
      omega
    | succ i =>
      have := ih (i := i) (by simpa using hx)
      rw [List.modify_succ_cons, claimedBlocks_cons p (ps.modify i f), claimedBlocks_cons p ps]
      omega

/-- The request a piece makes at the arbiter: its blocks are written or read, a slot's always durable (R65, R71). -/
def pieceRequest (c : CmdId) (i : Nat) (r : Record) (x : Piece) : Request :=
  if r.op = .write then
    newRequest (.host c.port) (.piece c i) .write x.target x.count (x.slot?.isSome || r.durable) x.data
  else newRequest (.host c.port) (.piece c i) .read x.target x.count false []

/-- A piece that is issued becomes READY, and its request joins the host class of its port (R65, R71). -/
theorem issuePiece_eq {i : Nat} {x : Piece} (hr : s.rec? c = some r) (hx : r.plan[i]? = some x) :
    issuePiece c i s = enqueue (pieceRequest c i r x) (mapPiece c i (fun p => { p with state := .ready }) s) := by
  have hbind : ((s.rec? c).bind fun r => r.plan[i]?) = some x := by rw [hr]; exact hx
  unfold issuePiece pieceRequest Piece.slot?
  rw [hbind, hr]
  dsimp only
  by_cases ho : r.op = .write
  · cases x.kind <;> simp [ho]
  · simp [ho]

theorem issuePiece_rec? {i : Nat} {x : Piece} (hr : s.rec? c = some r) (hx : r.plan[i]? = some x) :
    (issuePiece c i s).rec? c = some { r with plan := r.plan.modify i fun p => { p with state := .ready } } := by
  rw [issuePiece_eq hr hx]
  exact (rec_congr (s := mapPiece c i (fun p => { p with state := .ready }) s) c rfl).trans
    (rec?_mapPiece.trans (congrArg _ hr))

theorem issuePiece_queue {i : Nat} {x : Piece} (hr : s.rec? c = some r) (hx : r.plan[i]? = some x) :
    (issuePiece c i s).te.queue (.host c.port) = s.te.queue (.host c.port) ++ [pieceRequest c i r x] := by
  have hcls : (pieceRequest c i r x).cls = .host c.port := by
    unfold pieceRequest
    split <;> rfl
  rw [issuePiece_eq hr hx]
  unfold enqueue
  rw [hcls]
  exact queue_setQueue_te ..

/-- No GRANT is sent when the blocks granted are those claimed (R68). -/
theorem sendGrants_none {n : Nat} (hr : s.rec? c = some r) (h : nextGrant r (s.tag c) = none) : sendGrants n c s = s := by
  cases n with
  | zero => rfl
  | succ n =>
    unfold sendGrants
    rw [hr]
    dsimp only
    rw [h]

theorem nextGrant_none_of_claimed {t : Tag} (h : claimedBlocks r.plan = t.granted) : nextGrant r t = none := by
  unfold nextGrant
  simp [h]

/-! ## A usable block (R68, R154) -/

/-- A good DATA frame in order is placed (R154). -/
theorem takeData_good {index : Nat} {block : Block} (hd : s.deferred? c = none) (hr : s.rec? c = some r)
    (ho : r.op = .write) (hw : r.winding = false) (hi : index = (s.tag c).next) (hg : index < (s.tag c).granted) :
    takeData c index block (blockCheck block) s = placeData c block s := by
  subst hi
  unfold takeData
  rw [named_of_rec? hd hr]
  simp only [windingDown_of_rec? hd hr, ho, hw, Nat.not_le.2 hg, Bool.false_eq_true, false_and, and_false, if_false, ne_eq,
    not_true_eq_false, false_or]

/-- A tag after a usable block has been received. -/
def Tag.received (t : Tag) : Tag := { t with moved := t.moved + 1, next := t.next + 1 }

/-- A usable block of a path REGION WRITE is counted and gathered, and the grants that are due follow (R68). -/
theorem placeData_region {block : Block} (hr : s.rec? c = some r) (hp : r.path = some .region) :
    placeData c block s = sendGrants grantRounds c
      (gather c (r.first + (s.tag c).next) block (s.setTag c (s.tag c).received)) := by
  unfold placeData
  rw [hr]
  dsimp only
  rw [if_neg (by rw [hp]; simp)]
  rfl

/-- The piece that gathers a logical block (R68). -/
def gathererOf (plan : List Piece) (b : Nat) : Option Nat :=
  plan.findIdx? fun q => decide (q.state = .filling) && decide (q.first ≤ b ∧ b < q.first + q.count)

theorem filling_of_gathererOf {plan : List Piece} {b i : Nat} {x : Piece} (hi : gathererOf plan b = some i)
    (hx : plan[i]? = some x) : x.state = .filling := by
  obtain ⟨hlt, hp, -⟩ := List.findIdx?_eq_some_iff_getElem.1 hi
  rw [List.getElem?_eq_getElem hlt] at hx
  obtain rfl : plan[i] = x := by simpa using hx
  exact of_decide_eq_true (Bool.and_eq_true_iff.1 hp).1

/-- A piece with one more block. -/
def Piece.joinedBy (block : Block) (p : Piece) : Piece := { p with data := p.data ++ [block] }

/-- A block that does not fill its piece joins it (R68). -/
theorem gather_part {b i : Nat} {block : Block} {x : Piece} (hr : s.rec? c = some r) (hi : gathererOf r.plan b = some i)
    (hx : r.plan[i]? = some x) (hn : x.data.length + 1 < x.count) :
    gather c b block s = mapPiece c i (Piece.joinedBy block) s := by
  unfold gathererOf at hi
  unfold gather
  rw [hr]
  dsimp only
  rw [hi]
  dsimp only
  rw [hx]
  dsimp only
  rw [if_pos hn]
  rfl

/-- The block that fills a piece that is not of a slot out of service makes it READY (R65, R68). -/
theorem gather_full {b i : Nat} {block : Block} {x : Piece} (hr : s.rec? c = some r) (hi : gathererOf r.plan b = some i)
    (hx : r.plan[i]? = some x) (hn : x.data.length + 1 = x.count)
    (hk : x.kind = .base ∨ ∃ n, x.kind = .slot n ∧ s.outOfService n = false) :
    gather c b block s = issuePiece c i (mapPiece c i (Piece.joinedBy block) s) := by
  unfold gathererOf at hi
  unfold gather
  rw [hr]
  dsimp only
  rw [hi]
  dsimp only
  rw [hx]
  dsimp only
  rw [if_neg (by omega)]
  obtain hk | ⟨n, hk, hin⟩ := hk
  · rw [hk]
    rfl
  · rw [hk]
    simp only [hin, Bool.false_eq_true, if_false]
    rfl

/-- While every claimed block is granted, a piece that gathers a block or becomes READY makes no grant due (R68). -/
theorem claimedBlocks_gathered {plan : List Piece} {i : Nat} {x : Piece} {f : Piece → Piece} (hx : plan[i]? = some x)
    (hs : x.state = .filling) (hf : (f x).count = x.count ∧ ((f x).state = .filling ∨ (f x).state = .ready)) :
    claimedBlocks (plan.modify i f) = claimedBlocks plan := by
  obtain ⟨hcount, hstate⟩ := hf
  have hsum := claimedBlocks_modify f hx
  have hone : claimedBlocks [f x] = claimedBlocks [x] := by
    unfold claimedBlocks
    obtain h | h := hstate <;> simp [h, hs, hcount]
  omega

/-- Settles O9: the block is counted and joins its piece, which is issued when it is full; no grant is due. -/
theorem dataFillsItsPiece : Obligations.DataFillsItsPiece := by
  intro p tag index block s r i x hup hopen hd hr hl ho hs hpath hw hi hg hclaimed hfind hx
  subst hi
  have hfill := filling_of_gathererOf hfind hx
  have htag : (s.setTag ⟨p, tag⟩ (s.tag ⟨p, tag⟩).received).tag ⟨p, tag⟩ = (s.tag ⟨p, tag⟩).received :=
    tag_setTag (tag_lt_of_open hopen)
  have hru : (s.setTag ⟨p, tag⟩ (s.tag ⟨p, tag⟩).received).rec? ⟨p, tag⟩ = some r := (rec?_setTag ..).trans hr
  have hrv : (mapPiece ⟨p, tag⟩ i (Piece.joinedBy block) (s.setTag ⟨p, tag⟩ (s.tag ⟨p, tag⟩).received)).rec? ⟨p, tag⟩ =
      some { r with plan := r.plan.modify i (Piece.joinedBy block) } := rec?_mapPiece.trans (congrArg _ hru)
  rw [exec_data hup hopen hl, takeData_good hd hr ho hw rfl hg, placeData_region hr hpath]
  refine ⟨fun hn => ?_, fun hn hk => ?_⟩
  · rw [gather_part hru hfind hx hn]
    refine congrArg Host.Outcome.next (sendGrants_none hrv (nextGrant_none_of_claimed ?_))
    rw [tag_congr (s := s.setTag ⟨p, tag⟩ (s.tag ⟨p, tag⟩).received) _ (by simp) (by simp), htag]
    exact (claimedBlocks_gathered hx hfill ⟨rfl, .inl hfill⟩).trans hclaimed
  · have hxv : (r.plan.modify i (Piece.joinedBy block))[i]? = some (x.joinedBy block) := by
      simp [hx]
    have hout : ∀ n, (s.setTag ⟨p, tag⟩ (s.tag ⟨p, tag⟩).received).outOfService n = s.outOfService n := fun n => by
      unfold State.outOfService
      rw [setTag_ov]
    rw [gather_full hru hfind hx hn (by simpa only [hout] using hk)]
    have hrec := issuePiece_rec? hrv hxv
    rw [sendGrants_none hrec]
    · refine ⟨_, _, rfl, hrec, ?_, ?_, ?_⟩
      · simp [hx, Piece.joinedBy]
      · exact (out_congr (s := s.setTag ⟨p, tag⟩ (s.tag ⟨p, tag⟩).received) p (by simp) (by simp)).trans (out_setTag ..)
      · rw [issuePiece_queue hrv hxv, mapPiece_te, setTag_te]
        unfold pieceRequest Piece.slot?
        obtain hk | ⟨n, hk, -⟩ := hk
        · simp [ho, hk, Piece.joinedBy]
        · simp [ho, hk, Piece.joinedBy]
    · refine nextGrant_none_of_claimed ?_
      rw [tag_congr (s := s.setTag ⟨p, tag⟩ (s.tag ⟨p, tag⟩).received) _ (by simp) (by simp), htag]
      dsimp only
      rw [List.modify_modify_eq]
      exact (claimedBlocks_gathered hx hfill ⟨rfl, .inr rfl⟩).trans hclaimed

end Sys2Proof.Machine
end

section
/-! SUPPORT. A buffer claim that is met or waits, the claim of the next piece, and the grants a claim makes due. -/

namespace Sys2Proof.Machine

variable {s : State} {c : CmdId} {r : Record}

/-! ## Charges and claim queues (R66) -/

theorem claims_setClaims (b : BufferPool) (o : BufOwner) (l : List BufClaim) : (b.setClaims o l).claims o = l := by
  cases o with
  | host p => cases p <;> rfl
  | internal => rfl

theorem claims_setCharge (b : BufferPool) (o : BufOwner) (n : Nat) : (b.setCharge o n).claims o = b.claims o := by
  cases o with
  | host p => cases p <;> rfl
  | internal => rfl

/-- The state in which the head claim of an owner has been taken and charged (R66). -/
def State.charged (s : State) (o : BufOwner) (n : Nat) (rest : List BufClaim) : State :=
  { s with pool := (s.pool.setClaims o rest).setCharge o (s.pool.charge o + n) }

theorem charged_charge (s : State) (o : BufOwner) (n : Nat) (rest : List BufClaim) :
    (s.charged o n rest).pool.charge o = s.pool.charge o + n := charge_setCharge ..

theorem charged_claims (s : State) (o : BufOwner) (n : Nat) (rest : List BufClaim) :
    (s.charged o n rest).pool.claims o = rest := (claims_setCharge ..).trans (claims_setClaims ..)

/-- The head claim of an owner is met when its charge leaves room for it whole, and waits otherwise (R66). -/
theorem meetClaim_head {o : BufOwner} {x : BufClaim} {rest : List BufClaim} (h : s.pool.claims o = x :: rest) :
    meetClaim o s = if s.pool.charge o + x.count ≤ quotaOf o then claimMet x.who x.count (s.charged o x.count rest)
      else s := by
  unfold meetClaim
  rw [h]
  rfl

/-- BUFFER_CLAIM_MET while the link is not DOWN. -/
theorem exec_bufferClaimMet (o : BufOwner) (hl : s.te.link ≠ .down) :
    exec (.bufferClaimMet o) s = .next (meetClaim o s) := by
  have hk : (meetClaim o s).te.link = s.te.link := (keeps_meetClaim o (Keeps.refl s)).link
  have e : exec (.bufferClaimMet o) s = .next (settleDown (meetClaim o s)) := rfl
  rw [e, settleDown_of_link (hk ▸ hl)]

/-! ## The claim of the next piece (R67) -/

/-- The claim that follows in a plan: that of its first piece still to be given buffers (R67). -/
def followingClaim (c : CmdId) (plan : List Piece) : List BufClaim :=
  match nextPlanned plan with
  | some j => [⟨.piece c j, ((plan[j]?).map (·.count)).getD 0⟩]
  | none => []

theorem claimNext_pool (hr : s.rec? c = some r) :
    (claimNext c s).pool.charge (.host c.port) = s.pool.charge (.host c.port) ∧
      (claimNext c s).pool.claims (.host c.port) = s.pool.claims (.host c.port) ++ followingClaim c r.plan := by
  unfold claimNext followingClaim
  rw [hr]
  dsimp only
  cases nextPlanned r.plan with
  | none => exact ⟨rfl, (List.append_nil _).symm⟩
  | some j => exact ⟨charge_setClaims .., claims_setClaims ..⟩

/-! ## The grants a claim makes due (R68) -/

/-- The GRANT frames for a number of blocks: of 16 each, and the last of what is left. -/
def grantFrames (tag n : Nat) : List HostFrame :=
  (List.range ((n + 15) / 16)).map fun k => .grant tag (Nat.min 16 (n - 16 * k))

theorem grantFrames_zero (tag : Nat) : grantFrames tag 0 = [] := rfl

theorem grantFrames_pos {n : Nat} (tag : Nat) (h : 0 < n) :
    grantFrames tag n = .grant tag (Nat.min 16 n) :: grantFrames tag (n - Nat.min 16 n) := by
  have hmin : Nat.min 16 n = if 16 ≤ n then 16 else n := rfl
  have hlen : (n + 15) / 16 = (n - Nat.min 16 n + 15) / 16 + 1 := by
    rw [hmin]
    split <;> omega
  unfold grantFrames
  rw [hlen, List.range_succ_eq_map, List.map_cons, List.map_map]
  refine congrArg _ (List.map_congr_left fun k hk => ?_)
  have hlt := List.mem_range.1 hk
  have : n - 16 * (k + 1) = n - Nat.min 16 n - 16 * k := by
    rw [hmin] at hlt ⊢
    split at hlt <;> split <;> omega
  simp only [Function.comp_apply, Nat.succ_eq_add_one, this]

/-- A GRANT is due while claimed blocks are not granted and at most 48 are granted and not received (R68). -/
theorem nextGrant_due {t : Tag} (hs : r.state = .active) (hw : r.winding = false)
    (hmore : t.granted < claimedBlocks r.plan) (hwin : t.granted - t.moved ≤ 48) :
    nextGrant r t = some (Nat.min 16 (claimedBlocks r.plan - t.granted)) := by
  unfold nextGrant
  exact if_pos ⟨hs, hw, by omega, hwin⟩

theorem nextGrant_none_of_window {t : Tag} (h : 48 < t.granted - t.moved) : nextGrant r t = none := by
  unfold nextGrant
  refine if_neg fun ⟨_, _, _, hwin⟩ => ?_
  have : Config.grantWindow - Config.grantMax = 48 := rfl
  omega

/-- GRANT frames are sent for all claimed blocks while the window of 64 has room for them (R68). -/
theorem sendGrants_all {n a : Nat} (hr : s.rec? c = some r) (hs : r.state = .active) (hw : r.winding = false)
    (hlen : c.tag < (s.hp c.port).tags.length) (hclaimed : claimedBlocks r.plan = (s.tag c).granted + a)
    (hwin : (s.tag c).granted - (s.tag c).moved + 16 * n ≤ 64) (ha : a ≤ 16 * n) :
    ((sendGrants n c s).tag c).granted = (s.tag c).granted + a ∧
      (sendGrants n c s).out c.port = s.out c.port ++ grantFrames c.tag a := by
  induction n generalizing s a with
  | zero =>
    obtain rfl : a = 0 := by omega
    exact ⟨rfl, (List.append_nil _).symm⟩
  | succ n ih =>
    obtain rfl | hpos := Nat.eq_zero_or_pos a
    · rw [sendGrants_none hr (nextGrant_none_of_claimed hclaimed), grantFrames_zero]
      exact ⟨rfl, (List.append_nil _).symm⟩
    have hk : claimedBlocks r.plan - (s.tag c).granted = a := by omega
    have hmin : Nat.min 16 a = if 16 ≤ a then 16 else a := rfl
    have hdue := nextGrant_due hs hw (t := s.tag c) (by omega) (by omega)
    rw [hk] at hdue
    let u := (s.send c.port (.grant c.tag (Nat.min 16 a))).setTag c
      { s.tag c with granted := (s.tag c).granted + Nat.min 16 a }
    have hstep : sendGrants (n + 1) c s = sendGrants n c u := by
      rw [sendGrants, hr]
      dsimp only
      rw [hdue]
    have htag : u.tag c = { s.tag c with granted := (s.tag c).granted + Nat.min 16 a } :=
      tag_setTag (by rw [hp_send]; exact hlen)
    obtain ⟨hgranted, hout⟩ := ih (s := u) (a := a - Nat.min 16 a) ((rec?_setTag ..).trans ((rec?_send ..).trans hr))
      (by simpa [u, State.setTag] using hlen) (by rw [htag]; dsimp only; split at hmin <;> omega)
      (by rw [htag]; dsimp only; split at hmin <;> omega) (by split at hmin <;> omega)
    rw [hstep, hgranted, hout, htag, grantFrames_pos c.tag hpos]
    refine ⟨?_, ?_⟩
    · dsimp only
      split at hmin <;> omega
    · rw [out_setTag, out_send, List.append_assoc]
      rfl

/-! ## A claim of a piece (R67, R68) -/

/-- A piece that has been given its buffers. -/
def Piece.supplied (n : Nat) (p : Piece) : Piece := { p with held := n, state := .filling }

/-- The state after the buffers of a piece have been charged and given to it. -/
def State.supply (s : State) (c : CmdId) (i n : Nat) (rest : List BufClaim) : State :=
  mapPiece c i (Piece.supplied n) (s.charged (.host c.port) n rest)

/-- Giving a piece its buffers changes its record and the pool alone. -/
@[simp] theorem supply_frame (s : State) (c : CmdId) (i n : Nat) (rest : List BufClaim) :
    (s.supply c i n rest).te = s.te ∧ (s.supply c i n rest).hpA = s.hpA ∧ (s.supply c i n rest).hpB = s.hpB ∧
      (s.supply c i n rest).outA = s.outA ∧ (s.supply c i n rest).outB = s.outB ∧
      (s.supply c i n rest).pool = (s.charged (.host c.port) n rest).pool := ⟨rfl, rfl, rfl, rfl, rfl, rfl⟩

/-- A met claim of a READ piece: the piece is requested, and the next piece claims (R67). -/
theorem claimMet_read {i n : Nat} {rest : List BufClaim} (hr : s.rec? c = some r) (ho : r.op = .read) :
    claimMet (.piece c i) n (s.charged (.host c.port) n rest) = claimNext c (issuePiece c i (s.supply c i n rest)) := by
  have hr' : (s.charged (.host c.port) n rest).rec? c = some r := hr
  unfold claimMet
  dsimp only
  rw [hr']
  dsimp only
  rw [if_pos ho]
  rfl

/-- A met claim of a WRITE piece: the grants that are due are sent, and the next piece claims (R67, R68). -/
theorem claimMet_write {i n : Nat} {rest : List BufClaim} (hr : s.rec? c = some r) (ho : r.op = .write) :
    claimMet (.piece c i) n (s.charged (.host c.port) n rest) = claimNext c (sendGrants grantRounds c (s.supply c i n rest)) := by
  have hr' : (s.charged (.host c.port) n rest).rec? c = some r := hr
  unfold claimMet
  dsimp only
  rw [hr']
  dsimp only
  rw [if_neg (by rw [ho]; simp)]
  rfl

/-- A planned piece that is given its buffers adds its blocks to those claimed (R68). -/
theorem claimedBlocks_supplied {plan : List Piece} {i n : Nat} {q : Piece} (hq : plan[i]? = some q)
    (hs : q.state = .planned) : claimedBlocks (plan.modify i (Piece.supplied n)) = claimedBlocks plan + q.count := by
  have hsum := claimedBlocks_modify (Piece.supplied n) hq
  have hold : claimedBlocks [q] = 0 := by
    unfold claimedBlocks
    simp [hs]
  have hnew : claimedBlocks [q.supplied n] = q.count := rfl
  omega

/-- A change of the piece at an index is its replacement there. -/
theorem modify_eq_set {plan : List Piece} {i : Nat} {q : Piece} (f : Piece → Piece) (hq : plan[i]? = some q) :
    plan.modify i f = plan.set i (f q) := by
  rw [List.modify_eq_set_getElem?, hq]
  rfl

theorem supply_rec? {i n : Nat} {rest : List BufClaim} (hr : s.rec? c = some r) :
    (s.supply c i n rest).rec? c = some { r with plan := r.plan.modify i (Piece.supplied n) } :=
  rec?_mapPiece.trans (congrArg _ hr)

/-- A met claim of a READ piece: the piece is READY with its request, the charge has risen, and the next claim has joined. -/
theorem meet_read {i n : Nat} {q : Piece} {rest : List BufClaim} (hr : s.rec? c = some r) (hq : r.plan[i]? = some q)
    (ho : r.op = .read) : ∃ t r', claimMet (.piece c i) n (s.charged (.host c.port) n rest) = t ∧
      t.pool.charge (.host c.port) = s.pool.charge (.host c.port) + n ∧ t.rec? c = some r' ∧
      r'.plan = r.plan.set i { q with held := n, state := .ready } ∧
      t.pool.claims (.host c.port) = rest ++ followingClaim c r'.plan ∧
      t.te.queue (.host c.port) = s.te.queue (.host c.port) ++
        [newRequest (.host c.port) (.piece c i) .read q.target q.count false []] := by
  have hrv := supply_rec? (i := i) (n := n) (rest := rest) hr
  have hqv : (r.plan.modify i (Piece.supplied n))[i]? = some (q.supplied n) := by simp [hq]
  have hrec := issuePiece_rec? hrv hqv
  have hqueue := issuePiece_queue hrv hqv
  have hpool : (issuePiece c i (s.supply c i n rest)).pool = (s.charged (.host c.port) n rest).pool := by
    simp
  obtain ⟨hcharge, hclaims⟩ := claimNext_pool hrec
  refine ⟨_, _, claimMet_read hr ho, ?_, (rec_congr c (by simp)).trans hrec, ?_, ?_, ?_⟩
  · exact hcharge.trans (by rw [hpool, charged_charge])
  · rw [modify_eq_set _ hqv, modify_eq_set _ hq, List.set_set]
    rfl
  · exact hclaims.trans (by rw [hpool, charged_claims])
  · refine (congrArg (TransferEngine.queue · _) (claimNext_frame ..).2.2.2.2.2.1).trans (hqueue.trans ?_)
    unfold pieceRequest
    rw [if_neg (by simp [ho])]
    rfl

/-- A met claim of a planned WRITE piece: the piece is FILLING, the charge has risen, the next claim has joined, and its blocks
are granted as far as the window allows (R68). -/
theorem meet_write {i n : Nat} {q : Piece} {rest : List BufClaim} (hr : s.rec? c = some r) (hq : r.plan[i]? = some q)
    (ho : r.op = .write) (hs : r.state = .active) (hw : r.winding = false) (hopen : (s.tag c).isOpen = true)
    (hplanned : q.state = .planned) (hfit : q.count ≤ 64) :
    ∃ t r', claimMet (.piece c i) n (s.charged (.host c.port) n rest) = t ∧
      t.pool.charge (.host c.port) = s.pool.charge (.host c.port) + n ∧ t.rec? c = some r' ∧
      r'.plan = r.plan.set i { q with held := n, state := .filling } ∧
      t.pool.claims (.host c.port) = rest ++ followingClaim c r'.plan ∧ t.te = s.te ∧
      ((s.tag c).granted = claimedBlocks r.plan → (s.tag c).moved = (s.tag c).granted →
        (t.tag c).granted = (s.tag c).granted + q.count ∧ t.out c.port = s.out c.port ++ grantFrames c.tag q.count) ∧
      (48 < (s.tag c).granted - (s.tag c).moved → t.tag c = s.tag c ∧ t.out c.port = s.out c.port) := by
  have hrv := supply_rec? (i := i) (n := n) (rest := rest) hr
  have htag : (s.supply c i n rest).tag c = s.tag c := tag_congr c (by simp) (by simp)
  have hout : (s.supply c i n rest).out c.port = s.out c.port := out_congr _ (by simp) (by simp)
  have hrec : (sendGrants grantRounds c (s.supply c i n rest)).rec? c =
      some { r with plan := r.plan.modify i (Piece.supplied n) } := (rec_congr c (by simp)).trans hrv
  have hpool : (sendGrants grantRounds c (s.supply c i n rest)).pool = (s.charged (.host c.port) n rest).pool := by
    simp
  obtain ⟨hcharge, hclaims⟩ := claimNext_pool hrec
  have hnext : ∀ u : State, (claimNext c u).tag c = u.tag c ∧ (claimNext c u).out c.port = u.out c.port := fun u =>
    ⟨tag_congr c (by simp) (by simp), out_congr _ (by simp) (by simp)⟩
  refine ⟨_, _, claimMet_write hr ho, ?_, (rec_congr c (by simp)).trans hrec, modify_eq_set _ hq, ?_, ?_, ?_, ?_⟩
  · exact hcharge.trans (by rw [hpool, charged_charge])
  · exact hclaims.trans (by rw [hpool, charged_claims])
  · simp
  · intro hgranted hmoved
    rw [(hnext _).1, (hnext _).2, ← htag, ← hout]
    refine sendGrants_all hrv hs hw ?_ ?_ ?_ ?_
    · exact tag_lt_of_open (by rw [htag]; exact hopen)
    · rw [htag, hgranted]
      exact claimedBlocks_supplied hq hplanned
    · rw [htag, hmoved, Nat.sub_self]
      decide
    · exact hfit
  · intro hwin
    rw [(hnext _).1, (hnext _).2, ← htag, ← hout]
    have hnone := sendGrants_none (n := grantRounds) hrv (nextGrant_none_of_window (by rw [htag]; exact hwin))
    exact ⟨congrArg (State.tag · c) hnone, congrArg (State.out · c.port) hnone⟩

/-- Settles O21: the head claim is charged or waits, and a piece of a READ is requested, of a WRITE granted. -/
theorem bufferClaimIsMetWholeOrWaits : Obligations.BufferClaimIsMetWholeOrWaits := by
  intro s o x rest hl hclaims
  refine ⟨fun hquota => ?_, fun hquota c i r q hown hwho hr hq => ⟨fun ho => ?_, fun ho hs hw hopen hplanned hfit => ?_⟩⟩
  · rw [exec_bufferClaimMet o hl, meetClaim_head hclaims, if_neg (by omega)]
  all_goals
    subst hown
    rw [exec_bufferClaimMet _ hl, meetClaim_head hclaims, if_pos hquota, hwho]
  · obtain ⟨t, r', e, h⟩ := meet_read (n := x.count) (rest := rest) hr hq ho
    exact ⟨t, r', congrArg _ e, h⟩
  · obtain ⟨t, r', e, h⟩ := meet_write (n := x.count) (rest := rest) hr hq ho hs hw hopen hplanned hfit
    exact ⟨t, r', congrArg _ e, h⟩

end Sys2Proof.Machine
end

section
/-! SUPPORT. The waiting hand-offs of the journal: those that fit are taken, those under FAULT are dropped, and what the
producer of one does once it is taken. -/

namespace Sys2Proof.Machine

variable {s : State} {c : CmdId} {r : Record}

/-! ## Taking and dropping (R119, R131) -/

/-- JOURNAL_HANDOFF_TAKEN while the link is not DOWN. -/
theorem exec_journalHandoffTaken (hl : s.te.link ≠ .down) :
    exec .journalHandoffTaken s = .next (takeHandOffs s) := by
  have hk : (takeHandOffs s).te.link = s.te.link := (keeps_takeHandOffs (Keeps.refl s)).link
  have e : exec .journalHandoffTaken s = .next (settleDown (takeHandOffs s)) := rfl
  rw [e, settleDown_of_link (hk ▸ hl)]

theorem takeParts_nil (n : Nat) (s : State) : takeParts n [] s = ([], s) := by
  cases n <;> rfl

/-- Records for which the open buffer has room are taken whole (R119). -/
theorem takePart_fits {recs : List JRecord} (hne : recs ≠ []) (hlive : s.jrn.live < s.journalLen)
    (hfit : s.jrn.openBuf.length + recs.length ≤ 30) : takePart recs s = ([], takeRecords recs s) := by
  have hpos : 0 < recs.length := List.length_pos_iff.2 hne
  have hroom : ¬ s.jrn.openBuf.length = Config.journalRecords := by
    unfold Config.journalRecords
    omega
  have hall : recs.take Config.journalRecords = recs := List.take_of_length_le (by unfold Config.journalRecords; omega)
  have hleft : recs.drop Config.journalRecords = [] := List.drop_of_length_le (by unfold Config.journalRecords; omega)
  unfold takePart
  simp only [hroom, decide_false, Bool.false_and, Bool.false_eq_true, if_false, hall, hleft]
  exact if_pos ⟨hlive, hfit⟩

theorem takeParts_fits {recs : List JRecord} (hne : recs ≠ []) (hlive : s.jrn.live < s.journalLen)
    (hfit : s.jrn.openBuf.length + recs.length ≤ 30) :
    takeParts recs.length recs s = ([], takeRecords recs s) := by
  cases recs with
  | nil => exact absurd rfl hne
  | cons x xs =>
    rw [List.length_cons, takeParts]
    simp only [List.isEmpty_cons, Bool.false_eq_true, if_false, takePart_fits hne hlive hfit]
    rw [if_pos (by simp), takeParts_nil]

/-- The state in which hand-offs have been taken into the open buffer. -/
def takenAll (hs : List HandOff) (s : State) : State :=
  { s with jrn := { s.jrn with
      waiting := [], openBuf := s.jrn.openBuf ++ hs.flatMap (·.recs),
      fates := s.jrn.fates ++ (hs.flatMap (·.recs)).map fun r => (r.id, Fate.inBuffer) } }

theorem takenAll_nil (h : s.jrn.waiting = []) : takenAll [] s = s := by
  simp only [takenAll, List.flatMap_nil, List.append_nil, List.map_nil]
  rw [← h]

/-- The state in which hand-offs have been dropped under FAULT. -/
def droppedAll (hs : List HandOff) (s : State) : State :=
  { s with jrn := { s.jrn with
      waiting := [], fates := s.jrn.fates ++ (hs.flatMap (·.recs)).map fun r => (r.id, Fate.dropped),
      run := s.jrn.run.map fun r => { r with missed := true } } }

/-- While the journal has room for all of them, the waiting hand-offs are taken in order, with their producers (R119). -/
theorem takeWaiting_all {hs : List HandOff} (hw : s.jrn.waiting = hs) (hne : ∀ h ∈ hs, h.recs ≠ [])
    (hlive : s.jrn.live < s.journalLen) (hfit : s.jrn.openBuf.length + (hs.flatMap (·.recs)).length ≤ 30) :
    takeWaiting hs.length s = (hs.map (·.by'), takenAll hs s) := by
  induction hs generalizing s with
  | nil => exact Prod.ext rfl (takenAll_nil hw).symm
  | cons h rest ih =>
    rw [List.flatMap_cons, List.length_append] at hfit
    have hfirst : takeParts h.recs.length h.recs s = ([], takeRecords h.recs s) :=
      takeParts_fits (hne h List.mem_cons_self) hlive (by omega)
    have hrest := ih (s := setJrn (fun j => { j with waiting := rest }) (takeRecords h.recs s)) rfl
      (fun x hx => hne x (List.mem_cons_of_mem _ hx)) hlive
      (by simp only [setJrn, takeRecords, List.length_append]; omega)
    rw [List.length_cons, takeWaiting, hw]
    simp only [hfirst, List.isEmpty_nil, if_true, hrest]
    simp [takenAll, setJrn, takeRecords]

/-- Under FAULT the hand-offs of producers that have left are dropped, and the run is marked (R130, R131). -/
theorem dropWaiting_left {hs : List HandOff} (hw : s.jrn.waiting = hs) (hne : hs ≠ []) (hby : ∀ h ∈ hs, h.by' = .none) :
    dropWaiting hs.length s = droppedAll hs s := by
  induction hs generalizing s with
  | nil => exact absurd rfl hne
  | cons h rest ih =>
    rw [List.length_cons, dropWaiting, hw]
    dsimp only
    rw [hby h List.mem_cons_self]
    cases rest with
    | nil => simp [dropWaiting, produced, droppedAll, dropRecords, markMissed, setJrn]
    | cons k rest =>
      refine (ih (s := dropRecords h.recs (setJrn (fun j => { j with waiting := k :: rest }) s)) rfl (by simp)
        fun x hx => hby x (List.mem_cons_of_mem _ hx)).trans ?_
      simp [droppedAll, dropRecords, markMissed, setJrn, Function.comp_def]

/-- With no hand-off waiting there is nothing to take. -/
theorem takeHandOffs_nil (h : s.jrn.waiting = []) : takeHandOffs s = s := by
  unfold takeHandOffs
  rw [h]
  split <;> rfl

/-- The hand-offs of producers that have left move no producer. -/
theorem tellProducers_left {hs : List HandOff} (hby : ∀ h ∈ hs, h.by' = .none) (s : State) :
    tellProducers (hs.map (·.by')) s = s := by
  induction hs with
  | nil => rfl
  | cons h rest ih =>
    rw [List.map_cons, hby h List.mem_cons_self]
    exact ih fun x hx => hby x (List.mem_cons_of_mem _ hx)

/-- One hand-off that fits is taken, and its producer goes on (R119). -/
theorem takeHandOffs_one {by' : Producer} {recs : List JRecord} (hw : s.jrn.waiting = [⟨by', recs⟩])
    (hcond : s.jrn.cond = .normal) (hne : recs ≠ []) (hlive : s.jrn.live < s.journalLen)
    (hfit : s.jrn.openBuf.length + recs.length ≤ 30) :
    takeHandOffs s = produced by' (takenAll [⟨by', recs⟩] s) := by
  have hall := takeWaiting_all hw (by simpa using hne) hlive (by simpa using hfit)
  unfold takeHandOffs
  rw [if_neg (by rw [hcond]; simp), hw]
  dsimp only
  rw [hall]
  rfl

/-- A record that has just been taken is in the open buffer (R119). -/
theorem fate_takenAll {by' : Producer} {recs : List JRecord} {id : Nat} (hold : ∀ f ∈ s.jrn.fates, f.1 ≠ id)
    (hnew : ∃ x ∈ recs, x.id = id) : (takenAll [⟨by', recs⟩] s).jrn.fate? id = some .inBuffer := by
  have hnone : s.jrn.fates.find? (fun f => f.1 == id) = none := List.find?_eq_none.2 (by simpa using hold)
  obtain ⟨y, hy⟩ := Option.isSome_iff_exists.1 (List.find?_isSome.2 (by simpa using hnew) :
    (recs.find? fun x => x.id == id).isSome = true)
  unfold takenAll JournalUnit.fate?
  simp only [List.flatMap_cons, List.flatMap_nil, List.append_nil, List.find?_append, hnone, Option.none_or, List.find?_map,
    Function.comp_def, hy]
  rfl

/-! ## A WRITE whose records are taken (R75, R76) -/

/-- A WRITE whose pieces are all DONE waits for its latest record, which is in the open buffer (R76). -/
theorem endCheck_journalWait {id : Nat} (hr : s.rec? c = some r) (ho : r.op = .write) (hs : r.state = .active)
    (hw : r.winding = false) (hne : r.plan ≠ []) (hdone : ∀ x ∈ r.plan, x.state = .done)
    (hflush : s.hasWork (Owner.ofFlush c) = false) (hwait : s.jrn.waiting = []) (hdep : s.isDependant c = false)
    (hlatest : r.latest = some id) (hfate : s.jrn.fate? id = some .inBuffer) :
    endCheck c s = setJrn (fun j => { j with waiters := j.waiters ++ [c] })
      (mapRec c (fun x => { x with state := .journalWait }) s) := by
  have hidle : s.workPending r = false := by
    have hplan : r.plan.any Piece.isUnended = false := by
      rw [List.any_eq_false]
      intro x hx
      simp [Piece.isUnended, Piece.isPending, hdone x hx]
    have hhand : s.handOffWaits (.piece c) = false := by
      unfold State.handOffWaits
      rw [hwait]
      rfl
    unfold State.workPending
    rw [rec?_id hr, hplan, hflush, hhand, hdep]
    rfl
  have hall : (decide (r.op = .write) && !r.plan.isEmpty && r.plan.all fun p => decide (p.state = .done)) = true := by
    simpa [ho, hne] using hdone
  unfold endCheck
  rw [hr]
  dsimp only
  rw [hidle, hs, hw, hall]
  simp only [Bool.false_eq_true, if_false, if_true]
  unfold finishWrite
  rw [hlatest]
  dsimp only
  rw [hfate, rec?_id hr]

/-! ## A discard whose records are taken (R114) -/

/-- A placed discard whose DISCARD record is in the open buffer loses its claim alone (R114). -/
theorem discardTaken_stands {d : Discard} {id : Nat} (hd : s.mrg.discard = some d) (hp : d.placed = true)
    (hrec : d.record = some id) (hfate : s.jrn.fate? id = some .inBuffer) :
    discardTaken s = setOrder (List.filter fun x => !x.isDiscard) s := by
  unfold discardTaken
  dsimp only
  rw [show (setOrder (List.filter fun x => !x.isDiscard) s).mrg.discard = some d from hd]
  dsimp only
  rw [hp, if_neg (by simp), hrec]
  dsimp only
  rw [show (setOrder (List.filter fun x => !x.isDiscard) s).jrn.fate? id = some .inBuffer from hfate, if_neg (by simp)]

theorem not_discard_of_not_isDiscard {y : Placed} (h : y.isDiscard = false) (i a n : Nat) : y.ref ≠ .discard i a n := by
  intro e
  unfold Placed.isDiscard at h
  rw [e] at h
  cases h

/-! ## A merge grain whose records are taken (R108, R111) -/

/-- Answers to HALT_MERGE requests change the Management Unit alone. -/
theorem answers_frame (ports : List Port) (s : State) :
    (ports.foldl (fun u p => answerPlain (some p) .doneOk u) s).mrg = s.mrg ∧
      (ports.foldl (fun u p => answerPlain (some p) .doneOk u) s).jrn = s.jrn ∧
      (ports.foldl (fun u p => answerPlain (some p) .doneOk u) s).adm = s.adm :=
  foldl_rel (fun s t => t.mrg = s.mrg ∧ t.jrn = s.jrn ∧ t.adm = s.adm) (fun _ => ⟨rfl, rfl, rfl⟩)
    (fun _ _ _ a b => ⟨b.1.trans a.1, b.2.1.trans a.2.1, b.2.2.trans a.2.2⟩) (fun _ _ => by simp [answerPlain]) ports s

/-- A run that is HALTING ends with the grain, and no claim of the grain stands (R108, R111). -/
theorem mergeEnding_halting (hwait : s.jrn.waiting = []) (hst : s.mrg.state = .halting) :
    (mergeEnding s).jrn = s.jrn ∧ (mergeEnding s).mrg.state = .none ∧ (mergeEnding s).mrg.cause = some .halted ∧
      (mergeEnding s).mrg.grain = none ∧ ∀ y ∈ (mergeEnding s).adm.order, y.ref ≠ .merge s.mrg.cursor := by
  have hhand : s.handOffWaits .merge = false := by
    unfold State.handOffWaits
    rw [hwait]
    rfl
  have hsearch : mergeEnding s = mergeEnd (some .halted)
      (setMrg (fun m => { m with grain := none, cursor := m.cursor + 1 }) (unplace (.merge s.mrg.cursor) s)) := by
    unfold mergeEnding mergeNextGrain mergeSearch
    rw [hhand]
    exact if_pos hst
  rw [hsearch]
  unfold mergeEnd
  dsimp only
  simp only [answers_frame]
  refine ⟨by simp, by simp [setMrg], by simp [setMrg], by simp [setMrg], fun y hy => ?_⟩
  have hy : y ∈ s.adm.order ∧ ¬ y.ref = .merge s.mrg.cursor := by simpa [unplace, setOrder] using hy
  exact hy.2

/-! ## A relocation whose records are taken (R95) -/

/-- A grain is clear of its relocation: none stands on it, no claim of it is placed, no piece waits HANDED for it, and no
hand-off waits. -/
structure State.clearOf (s : State) (g : Nat) : Prop where
  relocs : ∀ x ∈ s.te.relocs, x.grain ≠ g
  order : ∀ x ∈ s.adm.order, x.ref ≠ .reloc g
  pieces : ∀ r ∈ s.adm.records, ∀ p ∈ r.plan, ¬ (p.state = .handed ∧ grainOf p.first = g)
  waiting : s.jrn.waiting = []

/-- No piece waits HANDED on a grain exactly when none of any record's plan does. -/
theorem strandedOn_eq_nil {g : Nat} : s.strandedOn g = [] ↔
    ∀ r ∈ s.adm.records, ∀ p ∈ r.plan, ¬ (p.state = .handed ∧ grainOf p.first = g) := by
  unfold State.strandedOn
  rw [List.flatMap_eq_nil_iff]
  refine forall_congr' fun r => imp_congr_right fun _ => ?_
  rw [List.filterMap_eq_nil_iff]
  refine ⟨fun h p hp hh => ?_, fun h i hi => ?_⟩
  · obtain ⟨i, hi, rfl⟩ := List.getElem_of_mem hp
    have := h i (List.mem_range.2 hi)
    rw [List.getElem?_eq_getElem hi] at this
    dsimp only at this
    rw [if_pos hh] at this
    cases this
  · have hi := List.mem_range.1 hi
    rw [List.getElem?_eq_getElem hi]
    dsimp only
    rw [if_neg (h _ (List.getElem_mem hi))]

/-- Clearness depends on the relocations, the order, the records and the hand-offs alone. -/
theorem clearOf_congr {t : State} {g : Nat} (h : s.clearOf g) (ht : t.te = s.te) (ha : t.adm = s.adm) (hj : t.jrn = s.jrn) :
    t.clearOf g := by
  obtain ⟨relocs, order, pieces, waiting⟩ := h
  exact ⟨by rw [ht]; exact relocs, by rw [ha]; exact order, by rw [ha]; exact pieces, by rw [hj]; exact waiting⟩

/-- A record that leaves changes only the dependants of relocations (R53, R89). -/
theorem departed_relocs (r : Record) (s : State) :
    ∀ x ∈ (departed r s).te.relocs, ∃ y ∈ s.te.relocs, y.grain = x.grain := by
  have hlet : ∀ u : State, (letGo r u).te.relocs =
      u.te.relocs.map fun y => { y with dependants := y.dependants.filter fun d => decide (d.cmd ≠ r.id) } := fun _ => rfl
  have hall : (departed r s).te.relocs =
      s.te.relocs.map fun y => { y with dependants := y.dependants.filter fun d => decide (d.cmd ≠ r.id) } := by
    unfold departed
    split <;> simp [hlet]
  intro x hx
  rw [hall] at hx
  obtain ⟨y, hy, rfl⟩ := List.mem_map.1 hx
  exact ⟨y, hy, rfl⟩

/-- A record that leaves takes its own place out of the admitted order, and no other (R53). -/
theorem departed_order (r : Record) (s : State) :
    (departed r s).adm.order = s.adm.order.filter fun x => decide (x.ref ≠ .cmd r.id) := by
  have hremove : ∀ u : State, (removeRecord r.id u).adm.order = u.adm.order.filter fun x => decide (x.ref ≠ .cmd r.id) := by
    intro u
    unfold removeRecord unplace setOrder unqueue
    cases r.id.port <;> rfl
  unfold departed
  split <;> simp [hremove]

/-- No hand-off comes to wait as a record leaves. -/
theorem departed_waiting (r : Record) (h : s.jrn.waiting = []) : (departed r s).jrn.waiting = [] := by
  have hlet : ∀ u : State, u.jrn.waiting = [] → (letGo r u).jrn.waiting = [] := by
    intro u hu
    unfold letGo orphanHandOffs
    simp [hu]
  unfold departed
  split <;> simp [hlet, h]

/-- A record that leaves brings nothing to a grain (R53). -/
theorem clearOf_departed {g : Nat} (r : Record) (h : s.clearOf g) : (departed r s).clearOf g := by
  obtain ⟨relocs, order, pieces, waiting⟩ := h
  refine ⟨fun x hx => ?_, fun x hx => ?_, fun x hx => ?_, departed_waiting r waiting⟩
  · obtain ⟨y, hy, e⟩ := departed_relocs r s x hx
    exact e ▸ relocs y hy
  · rw [departed_order] at hx
    exact order x (List.mem_filter.1 hx).1
  · rw [departed_records] at hx
    exact pieces x (List.mem_filter.1 hx).1

/-- Nor does a deferred arrival that becomes a record, which has no piece (R40). -/
theorem clearOf_lateCreation {g : Nat} (c : CmdId) (h : s.clearOf g) : (lateCreation c s).clearOf g := by
  obtain ⟨relocs, order, pieces, waiting⟩ := h
  unfold lateCreation
  split
  case h_2 => exact ⟨relocs, order, pieces, waiting⟩
  case h_1 a _ =>
    split
    case isFalse => exact ⟨relocs, order, pieces, waiting⟩
    case isTrue =>
      have horder : (arrive a (dropDeferred c s)).adm.order = s.adm.order := by
        rw [arrive_eq]
        cases a.id.port <;> rfl
      have hrecords : (arrive a (dropDeferred c s)).adm.records =
          s.adm.records ++ [waitingRecord a.id a.op a.first a.count a.durable] := by
        rw [arrive_eq, setQueue_records]
        rfl
      refine ⟨by simpa using relocs, by rw [horder]; exact order, fun r hr => ?_, by simpa using waiting⟩
      rw [hrecords] at hr
      obtain hr | hr := List.mem_append.1 hr
      · exact pieces r hr
      · obtain rfl := List.mem_singleton.1 hr
        exact fun p hp => nomatch (hp : p ∈ ([] : List Piece))

theorem clearOf_leave {g : Nat} (c : CmdId) (h : s.clearOf g) : (leave c s).clearOf g := by
  cases hr : s.rec? c with
  | none =>
    unfold leave
    rw [hr]
    exact h
  | some r =>
    rw [leave_departed hr]
    exact clearOf_congr (clearOf_lateCreation c (clearOf_departed r h)) (by simp) (by simp) (by simp)

theorem clearOf_endRecord {g : Nat} (c : CmdId) (res : Result) (done : Nat) (d : Option Nat) (v : Nat) (h : s.clearOf g) :
    (endRecord c res done d v s).clearOf g :=
  clearOf_leave c (clearOf_congr h (by simp) (by simp) (by simp))

/-- The end test of a record brings nothing to a grain: it leaves the record alone, has it wait for the journal, or ends it. -/
theorem clearOf_endCheck {g : Nat} (c : CmdId) (h : s.clearOf g) : (endCheck c s).clearOf g := by
  have hfinish : ∀ r : Record, (finishWrite r s).clearOf g := by
    intro r
    unfold finishWrite
    split
    · exact clearOf_endRecord _ _ _ _ _ h
    · split
      · exact clearOf_endRecord _ _ _ _ _ h
      · exact clearOf_endRecord _ _ _ _ _ h
      · obtain ⟨relocs, order, pieces, waiting⟩ := h
        refine ⟨relocs, order, fun x hx => ?_, waiting⟩
        obtain ⟨y, hy, rfl⟩ := List.mem_map.1 hx
        have := pieces y hy
        split <;> exact this
  unfold endCheck
  split
  · exact h
  · split
    · exact h
    · split
      · exact clearOf_endRecord _ _ _ _ _ h
      · split
        · split
          · exact clearOf_endRecord _ _ _ _ _ h
          · exact h
        · split
          · exact hfinish _
          · exact h
      · exact h

/-- The end tests of a list of dependants bring nothing to a grain, and leave the open buffer alone. -/
theorem endChecks_facts {g : Nat} (deps : List Dependant) (h : s.clearOf g) :
    (deps.foldl (fun v d => endCheck d.cmd v) s).clearOf g ∧
      (deps.foldl (fun v d => endCheck d.cmd v) s).jrn.openBuf = s.jrn.openBuf :=
  ⟨foldl_rel (fun s t => s.clearOf g → t.clearOf g) (fun _ => id) (fun _ _ _ a b => b ∘ a)
      (fun _ d => clearOf_endCheck d.cmd) deps s h,
    foldl_rel (fun s t => t.jrn.openBuf = s.jrn.openBuf) (fun _ => rfl) (fun _ _ _ a b => b.trans a)
      (fun _ _ => by simp) deps s⟩

/-- The placement of another grain's relocation brings nothing to a grain (R52). -/
theorem clearOf_placeQueued {g : Nat} (h : s.clearOf g) : (placeQueued s).clearOf g := by
  obtain ⟨relocs, order, pieces, waiting⟩ := h
  unfold placeQueued
  split
  case isFalse => exact ⟨relocs, order, pieces, waiting⟩
  case isTrue =>
    split
    case h_2 => exact ⟨relocs, order, pieces, waiting⟩
    case h_1 r hr =>
      have hother : r.grain ≠ g := relocs r (List.mem_of_find?_eq_some hr)
      refine ⟨fun x hx => ?_, fun x hx => ?_, pieces, waiting⟩
      · obtain ⟨y, hy, rfl⟩ := List.mem_map.1 hx
        have := relocs y hy
        split <;> exact this
      · obtain hx | hx := List.mem_append.1 hx
        · exact order x (List.mem_of_mem_take hx)
        · obtain rfl | hx := List.mem_cons.1 hx
          · simpa using hother
          · exact order x (List.mem_of_mem_drop hx)

/-- The claim of a relocation leaves, with no piece waiting HANDED for its end: its grain is clear, and the open buffer is as it
was (R95). -/
theorem relocLeave_facts {g : Nat} {r : Reloc} {e : RelocEnd} (hr : s.reloc? g = some r) (he : r.stage = .ending e)
    (hstranded : s.strandedOn g = []) (hwait : s.jrn.waiting = []) :
    (relocLeave g s).clearOf g ∧ (relocLeave g s).jrn.openBuf = s.jrn.openBuf := by
  have hclear : (unplace (.reloc g) (setRelocs (List.filter fun x => decide (x.grain ≠ g)) s)).clearOf g :=
    ⟨fun x hx => of_decide_eq_true (List.mem_filter.1 hx).2, fun x hx => of_decide_eq_true (List.mem_filter.1 hx).2,
      strandedOn_eq_nil.1 hstranded, hwait⟩
  obtain ⟨hend, hbuf⟩ := endChecks_facts r.dependants (clearOf_placeQueued hclear)
  unfold relocLeave
  rw [hr]
  dsimp only
  rw [he]
  dsimp only
  rw [strandedOn_eq_nil.2 hend.pieces]
  exact ⟨hend, hbuf.trans (by simp)⟩

/-! ## The statement -/

/-- Settles O29: none waiting, hand-offs without a producer, and one alone with each producer. -/
theorem handOffsAreTakenOrDropped : Obligations.HandOffsAreTakenOrDropped := by
  refine ⟨fun s hl hw => ?_, fun s hl hne hby => ⟨fun hcond hlive hfit => ?_, fun hcond => ?_⟩,
    fun s by' recs hl hw hcond hne hlive hfit => ?_⟩
  · rw [exec_journalHandoffTaken hl, takeHandOffs_nil hw]
  · have hall := takeWaiting_all rfl (fun h hh => (hby h hh).2) hlive hfit
    rw [exec_journalHandoffTaken hl]
    unfold takeHandOffs
    rw [if_neg (by rw [hcond]; simp), hall]
    exact congrArg _ (tellProducers_left (fun h hh => (hby h hh).1) _)
  · rw [exec_journalHandoffTaken hl]
    unfold takeHandOffs
    rw [if_pos hcond]
    exact congrArg _ (dropWaiting_left rfl hne fun h hh => (hby h hh).1)
  have hbuf : (takenAll [⟨by', recs⟩] s).jrn.openBuf = s.jrn.openBuf ++ recs := by simp [takenAll]
  rw [exec_journalHandoffTaken hl, takeHandOffs_one hw hcond hne hlive hfit]
  refine ⟨?_, ?_, ?_, ?_⟩
  · rintro c r id rfl hr ho hs hwind hplan hdone hflush hdep hlatest hold hnew
    refine ⟨_, rfl, ?_⟩
    have hend := endCheck_journalWait (s := takenAll [⟨.piece c, recs⟩] s) hr ho hs hwind hplan hdone hflush rfl hdep hlatest
      (fate_takenAll hold hnew)
    unfold produced
    dsimp only
    rw [hend]
    refine ⟨hbuf, rfl, ?_, rfl⟩
    refine (rec_congr (s := mapRec c (fun x => { x with state := .journalWait }) (takenAll [⟨.piece c, recs⟩] s)) c rfl).trans
      ((rec?_mapRec ?_).trans (congrArg _ hr))
    exact fun _ => rfl
  · rintro g r e rfl hr he hstranded
    obtain ⟨⟨relocs, order, -, waiting⟩, hopen⟩ :=
      relocLeave_facts (s := takenAll [⟨.reloc g, recs⟩] s) hr he hstranded rfl
    exact ⟨_, rfl, hopen.trans hbuf, waiting, List.find?_eq_none.2 fun x hx => by simpa using relocs x hx, order⟩
  · rintro x rfl hx hstage hst
    obtain ⟨hjrn, hstate, hcause, hgrain, horder⟩ := mergeEnding_halting (s := takenAll [⟨.merge, recs⟩] s) rfl hst
    refine ⟨_, rfl, ?_⟩
    unfold produced
    dsimp only
    rw [if_pos (by rw [show (takenAll [⟨.merge, recs⟩] s).mrg.grain = some x from hx]; exact congrArg some hstage), hjrn]
    exact ⟨hbuf, rfl, hstate, hcause, hgrain, horder⟩
  · rintro d id rfl hd hplaced hrec hold hnew
    refine ⟨_, rfl, ?_⟩
    unfold produced
    dsimp only
    rw [discardTaken_stands (s := takenAll [⟨.discard, recs⟩] s) hd hplaced hrec (fate_takenAll hold hnew)]
    refine ⟨hbuf, rfl, hd, fun y hy => not_discard_of_not_isDiscard ?_⟩
    simpa using (List.mem_filter.1 hy).2

end Sys2Proof.Machine
end

section
/-! SUPPORT. GRANT and DATA from the target: what each is to the operation of its tag (R84, R164, R165). -/

namespace Sys2Proof.Machine

variable {s : State} {tag : Nat} {o : TargetOp}

theorem tag_of_op? (ho : s.op? tag = some o) : o.tag = tag := by
  simpa using List.find?_some ho

/-- While the link is UP the operation a frame applies to is the one of its tag, with no STOP sent (R165). -/
theorem openOp_of_up (hl : s.te.link = .up) (ho : s.op? tag = some o) :
    s.openOp tag = if o.stop = none then some o else none := by
  unfold State.openOp
  rw [if_pos hl, ho]
  simp [Option.filter]

theorem openOp_of_none (ho : s.op? tag = none) : s.openOp tag = none := by
  unfold State.openOp
  rw [ho]
  simp

/-- The operation of a tag after a change that keeps tags. -/
theorem op?_mapOp {f : TargetOp → TargetOp} (hf : ∀ x, (f x).tag = x.tag) (ho : s.op? tag = some o) :
    (mapOp tag f s).op? tag = some (f o) := by
  have hkeep : ((fun x : TargetOp => x.tag == tag) ∘ fun x => if x.tag = tag then f x else x) = fun x => x.tag == tag := by
    funext x
    simp only [Function.comp_apply]
    split
    · rw [hf]
    · rfl
  unfold State.op? at ho
  unfold State.op? mapOp
  rw [List.find?_map, hkeep, ho]
  simp [tag_of_op? (s := s) ho]

/-- With all its blocks granted a READ is sent no further GRANT (R164). -/
theorem grantTarget_all_granted (n : Nat) (ho : s.op? tag = some o) (hg : o.granted = o.req.count) :
    grantTarget n tag s = s := by
  cases n with
  | zero => rfl
  | succ n =>
    unfold grantTarget
    rw [ho]
    simp [hg]

/-- Frames sent one after the other join the frames sent in their order. -/
theorem foldl_sendT {α : Type} (f : α → TargetFrame) (l : List α) (s : State) :
    l.foldl (fun t x => t.sendT (f x)) s = { s with outT := s.outT ++ l.map f } := by
  induction l generalizing s with
  | nil => simp
  | cons x xs ih =>
    rw [List.foldl_cons, ih]
    simp [State.sendT]

/-! ## TARGET_GRANT -/

theorem exec_targetGrant_open {k : Nat} (hl : s.te.link = .up) (ho : s.op? tag = some o) (hs : o.stop = none) :
    exec (.targetGrant tag k) s = .next (takeTargetGrant o k s) := by
  show Host.Outcome.next _ = _
  rw [openOp_of_up hl ho, if_pos hs]

/-- A GRANT out of its place is a violation (R165). -/
theorem takeTargetGrant_violation {k : Nat} (h : o.req.op ≠ .write ∨ k = 0 ∨ 16 < k ∨ o.req.count < o.granted + k) :
    takeTargetGrant o k s = stopOp o.tag .violation s := by
  unfold takeTargetGrant
  refine if_pos ?_
  obtain h | h | h | h := h
  · exact .inl h
  · exact .inr (.inl h)
  · exact .inr (.inr (.inl h))
  · exact .inr (.inr (.inr (.inl h)))

/-- A GRANT of a WRITE whose granted blocks have all been sent sends its blocks and counts them (R164, R165). -/
theorem takeTargetGrant_sends {k : Nat} (hw : o.req.op = .write) (h1 : 1 ≤ k) (h16 : k ≤ 16)
    (hc : o.granted + k ≤ o.req.count) (hm : o.moved = o.granted) :
    takeTargetGrant o k s = mapOp o.tag (fun x => { x with granted := o.granted + k, moved := o.granted + k })
      { s with outT := s.outT ++ (List.range k).map fun j =>
        TargetFrame.data o.tag (o.granted + j) (o.req.data.getD (o.granted + j) []) } := by
  have hgood : ¬ (o.req.op ≠ .write ∨ k = 0 ∨ Config.grantMax < k ∨ o.req.count < o.granted + k ∨
      Config.grantWindow < o.granted + k - o.moved) := by
    have hmax : Config.grantMax = 16 := rfl
    have hwin : Config.grantWindow = 64 := rfl
    simp only [hw, ne_eq, not_true_eq_false, false_or]
    omega
  unfold takeTargetGrant sendBlocks
  rw [if_neg hgood, hm, Nat.add_sub_cancel_left, foldl_sendT]

/-! ## TARGET_DATA -/

theorem exec_targetData_open {index : Nat} {block : Block} {check : BitVec 32} (hl : s.te.link = .up)
    (ho : s.op? tag = some o) (hs : o.stop = none) :
    exec (.targetData tag index block check) s = .next (takeTargetData o index block check s) := by
  show Host.Outcome.next _ = _
  rw [openOp_of_up hl ho, if_pos hs]

/-- A DATA frame out of its place is a violation (R165). -/
theorem takeTargetData_violation {index : Nat} {block : Block} {check : BitVec 32}
    (h : o.req.op ≠ .read ∨ index ≠ o.moved ∨ o.granted ≤ index) :
    takeTargetData o index block check s = stopOp o.tag .violation s := if_pos h

/-- The next DATA frame of a READ is judged by its payload check (R84). -/
theorem takeTargetData_next {index : Nat} {block : Block} {check : BitVec 32} (hr : o.req.op = .read)
    (hi : index = o.moved) (hg : index < o.granted) :
    takeTargetData o index block check s = if blockCheck block ≠ check then stopOp o.tag .payload s
      else grantTarget grantRounds o.tag
        (mapOp o.tag (fun x => { x with moved := x.moved + 1, got := x.got ++ [block] }) s) := by
  refine if_neg ?_
  rintro (h | h | h)
  · exact h hr
  · exact h hi
  · exact absurd hg (Nat.not_lt.2 h)

/-! ## The statement -/

/-- Settles O32: GRANT and DATA by the operation of the tag, its STOP, and the place of the frame in it. -/
theorem targetGrantAndDataAreTaken : Obligations.TargetGrantAndDataAreTaken := by
  refine ⟨fun s tag k hl => ⟨fun ho => ?_, fun o ho => ⟨fun hs => ?_, fun hs hw h1 h16 hc hm => ?_, fun hs h => ?_⟩⟩,
    fun s tag index block check o hl ho hs => ⟨fun hr hi hg hall hcheck => ?_, fun hr hi hg hcheck => ?_, fun h => ?_⟩⟩
  · show Host.Outcome.next _ = _
    rw [openOp_of_none ho]
  · show Host.Outcome.next _ = _
    rw [openOp_of_up hl ho, if_neg hs]
  · rw [exec_targetGrant_open hl ho hs, takeTargetGrant_sends hw h1 h16 hc hm, tag_of_op? ho]
    rfl
  · rw [exec_targetGrant_open hl ho hs, takeTargetGrant_violation h, tag_of_op? ho]
    rfl
  · have hop := op?_mapOp (f := fun x => { x with moved := x.moved + 1, got := x.got ++ [block] }) (fun _ => rfl) ho
    rw [exec_targetData_open hl ho hs, takeTargetData_next hr hi hg, if_neg (not_not.2 hcheck), tag_of_op? ho,
      grantTarget_all_granted grantRounds hop hall]
    rfl
  · rw [exec_targetData_open hl ho hs, takeTargetData_next hr hi hg, if_pos hcheck, tag_of_op? ho]
    rfl
  · rw [exec_targetData_open hl ho hs, takeTargetData_violation h, tag_of_op? ho]
    rfl

end Sys2Proof.Machine
end

section
/-! SUPPORT. The target link: the SIZE that RESET_DONE makes due, and how the link comes UP or goes DOWN (R98, R99, R138). -/

namespace Sys2Proof.Machine

variable {s : State} {o : TargetOp}

theorem popQueued_of_empty {te : TransferEngine} (h : te.queued = 0) : te.popQueued = none := by
  unfold TransferEngine.queued at h
  have hj : te.journalQ = [] := List.eq_nil_of_length_eq_zero (by omega)
  have hr : te.recoveryQ = [] := List.eq_nil_of_length_eq_zero (by omega)
  have hA : te.hostAQ = [] := List.eq_nil_of_length_eq_zero (by omega)
  have hB : te.hostBQ = [] := List.eq_nil_of_length_eq_zero (by omega)
  have hb : te.backQ = [] := List.eq_nil_of_length_eq_zero (by omega)
  unfold TransferEngine.popQueued
  rw [hj, hr, hA, hB, hb]

/-- With no request queued nothing fails at the end of an act, whatever the link (R99). -/
theorem settleDown_of_no_request (h : s.te.queued = 0) : settleDown s = s := by
  unfold settleDown downDrain
  rw [popQueued_of_empty h]
  exact ite_self s

/-! ## The ways the link takes -/

/-- The link comes UP for a mount in its link stage, with no capacity recorded: the mount begins at anchor copy 0 (R138). -/
theorem linkUp_mount {value : Nat} (hc : s.te.capacity = none) (hm : s.mnt.stage = .link) :
    linkUp value s = mountAnchor { s with te := { s.te with link := .up, capacity := some value, resetDue := false } } := by
  unfold linkUp State.mountWaits
  simp [hc, hm]

/-- The link comes UP again from RESETTING, with no mount waiting: nothing else changes (R98). -/
theorem linkUp_again {value : Nat} (hc : s.te.capacity = some value) (hl : s.te.link = .resetting)
    (hm : s.mountWaits = false) : linkUp value s = { s with te := { s.te with link := .up, resetDue := false } } := by
  unfold linkUp
  rw [hl, ← hc]
  exact if_neg (by simpa [State.mountWaits] using hm)

/-- The link goes DOWN from RESETTING, with no mount waiting and no LINKRESET held: both notice queues are offered the cause
(R98). -/
theorem linkDown_of_resetting (cause : DownCause) (hl : s.te.link = .resetting) (hm : s.mountWaits = false)
    (hd : s.te.resetDue = false) : linkDown cause s = raise (.targetDown cause) none
      { s with te := { s.te with link := .down, resetWait := false, resetDue := false } } := by
  unfold linkDown
  rw [hl, hd]
  exact if_neg (by simpa [State.mountWaits] using hm)

/-- What a link that has gone DOWN with a cause keeps of `s` and offers to both queues. -/
def State.downFrom (s t : State) (c : Nat) (cause : DownCause) : Prop :=
  t.te.link = .down ∧ t.te.capacity = some c ∧ t.mgA = offer (.targetDown cause) none s.mgA ∧
    t.mgB = offer (.targetDown cause) none s.mgB

/-- The act in which the link goes DOWN from RESETTING, with no mount waiting, no LINKRESET held and no request queued. -/
theorem downFrom_linkDown {c : Nat} (cause : DownCause) (hc : s.te.capacity = some c) (hl : s.te.link = .resetting)
    (hm : s.mountWaits = false) (hq : s.te.queued = 0) (hd : s.te.resetDue = false) :
    s.downFrom (settleDown (linkDown cause s)) c cause := by
  rw [linkDown_of_resetting cause hl hm hd, settleDown_of_no_request (by exact hq)]
  exact ⟨rfl, hc, rfl, rfl⟩

/-! ## The STATUS of the SIZE -/

theorem exec_linkSizeComplete (result value : Nat) :
    exec (.linkSizeComplete result value) s = .next (settleDown (linkSizeStatus result value s)) := rfl

/-- SIZE answers OK with no capacity recorded, or with the one recorded (R98). -/
theorem linkSizeStatus_up {value : Nat} (ho : s.linkSize? = some o) (hc : ∀ c, s.te.capacity = some c → c = value) :
    linkSizeStatus 0 value s = linkUp value (removeOp o.tag s) := by
  unfold linkSizeStatus
  rw [ho]
  cases e : s.te.capacity with
  | none => simp [e]
  | some c => simp [e, hc c e]

/-- SIZE answers OK with another capacity than the one recorded (R98). -/
theorem linkSizeStatus_changed {value c : Nat} (ho : s.linkSize? = some o) (hc : s.te.capacity = some c) (hv : value ≠ c) :
    linkSizeStatus 0 value s = linkDown .capacityChanged (removeOp o.tag s) := by
  unfold linkSizeStatus
  rw [ho]
  simp [hc, hv.symm]

theorem linkSizeStatus_failed {result value : Nat} (ho : s.linkSize? = some o) (hr : result ≠ 0) :
    linkSizeStatus result value s = linkDown .sizeFailed (removeOp o.tag s) := by
  unfold linkSizeStatus
  rw [ho]
  exact if_neg hr

/-! ## The statement -/

/-- Settles O33: RESET_DONE by the link and the SIZE, SIZE OK by the capacity recorded, and the four ways to DOWN. -/
theorem linkComesUpOrGoesDown : Obligations.LinkComesUpOrGoesDown := by
  refine ⟨fun s h => ?_, fun s hl hz => ?_, fun s value o ho => ⟨fun hc hm => ?_, fun hc hl hm => ?_⟩,
    fun s c hc hl hm hq hd => ⟨fun o value ho hv => ?_, fun o result value ho hr => ?_, fun hw => ?_, fun o ho => ?_⟩⟩
  · exact congrArg _ (if_pos h)
  · exact congrArg _ (if_neg (by simp [hl, hz]))
  · rw [exec_linkSizeComplete, linkSizeStatus_up ho (by simp [hc]), linkUp_mount (s := removeOp o.tag s) hc hm,
      settleDown_of_link (by simp [mountAnchor, mountGo])]
    exact ⟨_, rfl, rfl, rfl, rfl, rfl, rfl, rfl, rfl, rfl⟩
  · rw [exec_linkSizeComplete, linkSizeStatus_up ho (by simp [hc]), linkUp_again (s := removeOp o.tag s) hc hl hm,
      settleDown_of_link (by simp)]
    rfl
  · rw [exec_linkSizeComplete, linkSizeStatus_changed ho hc hv]
    exact ⟨_, rfl, downFrom_linkDown (s := removeOp o.tag s) .capacityChanged hc hl hm hq hd⟩
  · rw [exec_linkSizeComplete, linkSizeStatus_failed ho hr]
    exact ⟨_, rfl, downFrom_linkDown (s := removeOp o.tag s) .sizeFailed hc hl hm hq hd⟩
  · exact ⟨_, congrArg Host.Outcome.next (if_pos hw), downFrom_linkDown .noResetDone hc hl hm hq hd⟩
  · refine ⟨settleDown (linkDown .sizeFailed (removeOp o.tag s)), ?_,
      downFrom_linkDown (s := removeOp o.tag s) .sizeFailed hc hl hm hq hd⟩
    show Host.Outcome.next _ = _
    rw [ho]

end Sys2Proof.Machine
end

section
/-! SUPPORT. Final outcomes and the target port: whatever an operation's end brings about, it sends nothing to the target and
records no capacity, so that a link reset sends LINKRESET alone (R97, R100). One lemma per operation, in the order of the
model's files; the operations of the earlier files have theirs in Laws/Frames.lean. -/

namespace Sys2Proof.Machine

@[simp] theorem setQueue_capacity (te : TransferEngine) (c : TClass) (l : List Request) :
    (te.setQueue c l).capacity = te.capacity := by
  cases c with
  | host p => cases p <;> rfl
  | _ => rfl

/-- A fold whose rounds leave the target port alone leaves it alone. -/
theorem foldl_target {α : Type} {f : State → α → State}
    (hf : ∀ t x, (f t x).outT = t.outT ∧ (f t x).te.capacity = t.te.capacity) (l : List α) (s : State) :
    (l.foldl f s).outT = s.outT ∧ (l.foldl f s).te.capacity = s.te.capacity :=
  foldl_rel (fun s t => t.outT = s.outT ∧ t.te.capacity = s.te.capacity) (fun _ => ⟨rfl, rfl⟩)
    (fun _ _ _ a b => ⟨b.1.trans a.1, b.2.trans a.2⟩) hf l s


/-! ## Machine/Journal.lean -/

@[simp] theorem closeBlock_target (s : State) :
    (closeBlock s).outT = s.outT ∧ (closeBlock s).te.capacity = s.te.capacity := by
  unfold closeBlock
  simp

@[simp] theorem takePart_target (recs : List JRecord) (s : State) :
    (takePart recs s).2.outT = s.outT ∧ (takePart recs s).2.te.capacity = s.te.capacity := by
  unfold takePart
  dsimp only
  repeat' split
  all_goals simp

@[simp] theorem takeParts_target (n : Nat) (recs : List JRecord) (s : State) :
    (takeParts n recs s).2.outT = s.outT ∧ (takeParts n recs s).2.te.capacity = s.te.capacity := by
  induction n generalizing recs s with
  | zero => exact ⟨rfl, rfl⟩
  | succ n ih =>
    unfold takeParts
    dsimp only
    repeat' split
    · exact ⟨rfl, rfl⟩
    · simp [ih]
    · simp

@[simp] theorem handOff_target (by' : Producer) (recs : List JRecord) (s : State) :
    (handOff by' recs s).2.outT = s.outT ∧ (handOff by' recs s).2.te.capacity = s.te.capacity := by
  unfold handOff
  dsimp only
  repeat' split
  all_goals simp

@[simp] theorem takeWaiting_target (n : Nat) (s : State) :
    (takeWaiting n s).2.outT = s.outT ∧ (takeWaiting n s).2.te.capacity = s.te.capacity := by
  induction n generalizing s with
  | zero => exact ⟨rfl, rfl⟩
  | succ n ih =>
    unfold takeWaiting
    dsimp only
    repeat' split
    · exact ⟨rfl, rfl⟩
    · simp [ih]
    · simp

/-! ## Machine/Relocation.lean -/

@[simp] theorem issuePiece_target (c : CmdId) (i : Nat) (s : State) :
    (issuePiece c i s).outT = s.outT ∧ (issuePiece c i s).te.capacity = s.te.capacity := by
  unfold issuePiece
  repeat' split
  all_goals simp

@[simp] theorem retireAlone_target (region : Nat) (slots : List Nat) (s : State) :
    (retireAlone region slots s).outT = s.outT ∧ (retireAlone region slots s).te.capacity = s.te.capacity := by
  unfold retireAlone
  split <;> simp

@[simp] theorem handPiece_target (c : CmdId) (i : Nat) (retired : List Nat) (s : State) :
    (handPiece c i retired s).outT = s.outT ∧ (handPiece c i retired s).te.capacity = s.te.capacity := by
  unfold handPiece
  dsimp only
  repeat' split
  all_goals simp

@[simp] theorem handReady_target (slot : Nat) (s : State) :
    (handReady slot s).outT = s.outT ∧ (handReady slot s).te.capacity = s.te.capacity :=
  foldl_target (fun _ _ => by simp) _ _

@[simp] theorem handReadyAll_target (slots : List Nat) (s : State) :
    (handReadyAll slots s).outT = s.outT ∧ (handReadyAll slots s).te.capacity = s.te.capacity :=
  foldl_target (fun _ _ => by simp) _ _

@[simp] theorem relocLeave_target (g : Nat) (s : State) :
    (relocLeave g s).outT = s.outT ∧ (relocLeave g s).te.capacity = s.te.capacity := by
  have checks := foldl_target (f := fun v (d : Dependant) => endCheck d.cmd v) fun _ _ => by simp
  have hands := foldl_target (f := fun v (x : CmdId × Nat) => handPiece x.1 x.2 [] v) fun _ _ => by simp
  unfold relocLeave
  dsimp only
  repeat' split
  · exact ⟨rfl, rfl⟩
  · simp [checks, hands]
  · exact ⟨rfl, rfl⟩

@[simp] theorem relocHand_target (g : Nat) (recs : List JRecord) (s : State) :
    (relocHand g recs s).outT = s.outT ∧ (relocHand g recs s).te.capacity = s.te.capacity := by
  unfold relocHand
  dsimp only
  split <;> simp

@[simp] theorem foldl_retire_target (l : List Nat) (s : State) :
    (l.foldl (fun t m => retire m t) s).outT = s.outT ∧ (l.foldl (fun t m => retire m t) s).te.capacity = s.te.capacity :=
  foldl_target (f := fun t m => retire m t) (fun _ _ => ⟨rfl, rfl⟩) l s

@[simp] theorem relocMove_target (r : Reloc) (n : Nat) (s : State) :
    (relocMove r n s).outT = s.outT ∧ (relocMove r n s).te.capacity = s.te.capacity := by
  unfold relocMove
  simp [-Option.foldl_toList]

@[simp] theorem relocLost_target (r : Reloc) (s : State) :
    (relocLost r s).outT = s.outT ∧ (relocLost r s).te.capacity = s.te.capacity := by
  unfold relocLost
  dsimp only
  split <;> simp [-Option.foldl_toList]

@[simp] theorem relocCut_target (r : Reloc) (s : State) :
    (relocCut r s).outT = s.outT ∧ (relocCut r s).te.capacity = s.te.capacity := by
  unfold relocCut
  simp

@[simp] theorem startAttempt_target (g : Nat) (s : State) :
    (startAttempt g s).outT = s.outT ∧ (startAttempt g s).te.capacity = s.te.capacity := by
  unfold startAttempt
  dsimp only
  repeat' split
  all_goals simp

theorem allocate_target {g : Nat} {s t : State} (h : allocate g s = some t) :
    t.outT = s.outT ∧ t.te.capacity = s.te.capacity := by
  unfold allocate at h
  split at h
  · cases h
  · obtain rfl := Option.some.inj h
    simp

@[simp] theorem endAttempt_target (r : Reloc) (s : State) :
    (endAttempt r s).outT = s.outT ∧ (endAttempt r s).te.capacity = s.te.capacity := by
  unfold endAttempt
  repeat' split
  case h_1 ht => simp [allocate_target ht]
  all_goals simp

@[simp] theorem relocAdvance_target (g : Nat) (s : State) :
    (relocAdvance g s).outT = s.outT ∧ (relocAdvance g s).te.capacity = s.te.capacity := by
  unfold relocAdvance
  repeat' split
  all_goals simp

@[simp] theorem relocReadEnd_target (g off count : Nat) (got : List Block) (out : TOutcome) (s : State) :
    (relocReadEnd g off count got out s).outT = s.outT ∧
      (relocReadEnd g off count got out s).te.capacity = s.te.capacity := by
  unfold relocReadEnd
  dsimp only
  repeat' split
  all_goals simp

@[simp] theorem relocWriteEnd_target (g : Nat) (out : TOutcome) (s : State) :
    (relocWriteEnd g out s).outT = s.outT ∧ (relocWriteEnd g out s).te.capacity = s.te.capacity := by
  unfold relocWriteEnd
  repeat' split
  all_goals simp

@[simp] theorem readFaultReloc_target (g region : Nat) (m : Mask) (s : State) :
    (readFaultReloc g region m s).outT = s.outT ∧ (readFaultReloc g region m s).te.capacity = s.te.capacity := by
  unfold readFaultReloc
  repeat' split
  all_goals simp

/-! ## Machine/MergeDiscard.lean -/

@[simp] theorem mergeEnd_target (cause : Option MergeCause) (s : State) :
    (mergeEnd cause s).outT = s.outT ∧ (mergeEnd cause s).te.capacity = s.te.capacity :=
  foldl_target (fun _ _ => by simp [answerPlain]) _ _

@[simp] theorem mergeSearch_target (s : State) :
    (mergeSearch s).outT = s.outT ∧ (mergeSearch s).te.capacity = s.te.capacity := by
  unfold mergeSearch
  dsimp only
  repeat' split
  all_goals simp

@[simp] theorem mergeNextGrain_target (s : State) :
    (mergeNextGrain s).outT = s.outT ∧ (mergeNextGrain s).te.capacity = s.te.capacity := by
  unfold mergeNextGrain
  simp

@[simp] theorem mergeEndHere_target (cause : MergeCause) (s : State) :
    (mergeEndHere cause s).outT = s.outT ∧ (mergeEndHere cause s).te.capacity = s.te.capacity := by
  unfold mergeEndHere
  simp

@[simp] theorem mergeReads_target (slot : Nat) (m : Mask) (s : State) :
    (mergeReads slot m s).outT = s.outT ∧ (mergeReads slot m s).te.capacity = s.te.capacity :=
  foldl_target (fun _ _ => by simp) _ _

@[simp] theorem mergeWrites_target (mg : MergeGrain) (s : State) :
    (mergeWrites mg s).outT = s.outT ∧ (mergeWrites mg s).te.capacity = s.te.capacity :=
  foldl_target (fun _ _ => by simp) _ _

@[simp] theorem clearGrain_target (mg : MergeGrain) (s : State) :
    (clearGrain mg s).outT = s.outT ∧ (clearGrain mg s).te.capacity = s.te.capacity := by
  unfold clearGrain
  simp

@[simp] theorem mergeStop_target (mg : MergeGrain) (cause : MergeCause) (s : State) :
    (mergeStop mg cause s).outT = s.outT ∧ (mergeStop mg cause s).te.capacity = s.te.capacity := by
  unfold mergeStop
  simp

@[simp] theorem mergeEnding_target (s : State) :
    (mergeEnding s).outT = s.outT ∧ (mergeEnding s).te.capacity = s.te.capacity := by
  unfold mergeEnding
  split <;> simp

@[simp] theorem mergeGrainEnd_target (mg : MergeGrain) (s : State) :
    (mergeGrainEnd mg s).outT = s.outT ∧ (mergeGrainEnd mg s).te.capacity = s.te.capacity := by
  unfold mergeGrainEnd
  dsimp only
  repeat' split
  all_goals simp

@[simp] theorem mergeAdvance_target (s : State) :
    (mergeAdvance s).outT = s.outT ∧ (mergeAdvance s).te.capacity = s.te.capacity := by
  unfold mergeAdvance
  repeat' split
  all_goals simp

@[simp] theorem mergeLost_target (m : Mask) (s : State) :
    (mergeLost m s).outT = s.outT ∧ (mergeLost m s).te.capacity = s.te.capacity := by
  unfold mergeLost
  dsimp only
  repeat' split
  all_goals simp

@[simp] theorem mergeReadEnd_target (off count : Nat) (got : List Block) (out : TOutcome) (s : State) :
    (mergeReadEnd off count got out s).outT = s.outT ∧
      (mergeReadEnd off count got out s).te.capacity = s.te.capacity := by
  unfold mergeReadEnd
  dsimp only
  repeat' split
  all_goals simp [setCause]

@[simp] theorem mergeWriteEnd_target (out : TOutcome) (s : State) :
    (mergeWriteEnd out s).outT = s.outT ∧ (mergeWriteEnd out s).te.capacity = s.te.capacity := by
  unfold mergeWriteEnd
  split <;> simp [setCause]

@[simp] theorem discardAnswer_target (s : State) :
    (discardAnswer s).outT = s.outT ∧ (discardAnswer s).te.capacity = s.te.capacity := by
  unfold discardAnswer
  split <;> simp

@[simp] theorem discardTaken_target (s : State) :
    (discardTaken s).outT = s.outT ∧ (discardTaken s).te.capacity = s.te.capacity := by
  unfold discardTaken discardPlace
  dsimp only
  repeat' split
  all_goals simp

/-! ## Machine/Checkpoint.lean -/

@[simp] theorem produced_target (by' : Producer) (s : State) :
    (produced by' s).outT = s.outT ∧ (produced by' s).te.capacity = s.te.capacity := by
  cases by' with
  | merge =>
    unfold produced
    dsimp only
    split <;> simp
  | _ => simp [produced]

@[simp] theorem dropWaiting_target (n : Nat) (s : State) :
    (dropWaiting n s).outT = s.outT ∧ (dropWaiting n s).te.capacity = s.te.capacity := by
  induction n generalizing s with
  | zero => exact ⟨rfl, rfl⟩
  | succ n ih =>
    unfold dropWaiting
    split
    · exact ⟨rfl, rfl⟩
    · simp [ih]

@[simp] theorem enterFault_target (notice : NoticeBody) (failed : List JRecord) (s : State) :
    (enterFault notice failed s).outT = s.outT ∧ (enterFault notice failed s).te.capacity = s.te.capacity := by
  have ends := foldl_target (f := fun t (r : Record) => endRecord r.id .journalFault r.count none 0 t)
    fun _ _ => by simp
  unfold enterFault
  dsimp only
  repeat' split
  all_goals simp [ends]

@[simp] theorem tellProducers_target (ps : List Producer) (s : State) :
    (tellProducers ps s).outT = s.outT ∧ (tellProducers ps s).te.capacity = s.te.capacity :=
  foldl_target (fun _ _ => by simp) _ _

@[simp] theorem takeHandOffs_target (s : State) :
    (takeHandOffs s).outT = s.outT ∧ (takeHandOffs s).te.capacity = s.te.capacity := by
  unfold takeHandOffs
  dsimp only
  split <;> simp

@[simp] theorem closeAndTake_target (s : State) :
    (closeAndTake s).outT = s.outT ∧ (closeAndTake s).te.capacity = s.te.capacity := by
  unfold closeAndTake
  simp

@[simp] theorem closeTest_target (s : State) :
    (closeTest s).outT = s.outT ∧ (closeTest s).te.capacity = s.te.capacity := by
  unfold closeTest
  split <;> simp

@[simp] theorem journalGoesOn_target (s : State) :
    (journalGoesOn s).outT = s.outT ∧ (journalGoesOn s).te.capacity = s.te.capacity := by
  unfold journalGoesOn
  split <;> simp

@[simp] theorem journalBlockEnd_target (out : TOutcome) (s : State) :
    (journalBlockEnd out s).outT = s.outT ∧ (journalBlockEnd out s).te.capacity = s.te.capacity := by
  have ends := foldl_target
    (f := fun t (r : Record) => endRecord r.id (if r.stopNoted then .stopped else .ok) r.count none 0 t)
    fun _ _ => by simp
  unfold journalBlockEnd
  dsimp only
  repeat' split
  all_goals simp [ends]

@[simp] theorem removeRun_target (r : CkRun) (s : State) :
    (removeRun r s).outT = s.outT ∧ (removeRun r s).te.capacity = s.te.capacity := by
  unfold removeRun withdrawBodies
  simp

@[simp] theorem runFails_target (r : CkRun) (s : State) :
    (runFails r s).outT = s.outT ∧ (runFails r s).te.capacity = s.te.capacity := by
  unfold runFails answerPlain
  simp

@[simp] theorem runCompletes_target (r : CkRun) (s : State) :
    (runCompletes r s).outT = s.outT ∧ (runCompletes r s).te.capacity = s.te.capacity := by
  unfold runCompletes runAnswer faultClear
  dsimp only
  repeat' split
  all_goals simp

@[simp] theorem runAdvance_target (s : State) :
    (runAdvance s).outT = s.outT ∧ (runAdvance s).te.capacity = s.te.capacity := by
  unfold runAdvance
  repeat' split
  all_goals simp

@[simp] theorem ckBodyEnd_target (serial : Nat) (out : TOutcome) (s : State) :
    (ckBodyEnd serial out s).outT = s.outT ∧ (ckBodyEnd serial out s).te.capacity = s.te.capacity := by
  unfold ckBodyEnd
  dsimp only
  repeat' split
  all_goals simp

@[simp] theorem ckHeaderEnd_target (serial : Nat) (out : TOutcome) (s : State) :
    (ckHeaderEnd serial out s).outT = s.outT ∧ (ckHeaderEnd serial out s).te.capacity = s.te.capacity := by
  unfold ckHeaderEnd
  dsimp only
  repeat' split
  all_goals simp

/-! ## Machine/Region.lean and Machine/LayoutFormat.lean -/

@[simp] theorem leaveBlank_target (s : State) :
    (leaveBlank s).outT = s.outT ∧ (leaveBlank s).te.capacity = s.te.capacity := by
  unfold leaveBlank
  split <;> exact ⟨rfl, rfl⟩

@[simp] theorem anchorEnd_target (out : TOutcome) (s : State) :
    (anchorEnd out s).outT = s.outT ∧ (anchorEnd out s).te.capacity = s.te.capacity := by
  unfold anchorEnd activationSucceeds activationFails
  dsimp only
  repeat' split
  all_goals simp

@[simp] theorem formatSucceeds_target (f : Formatting) (s : State) :
    (formatSucceeds f s).outT = s.outT ∧ (formatSucceeds f s).te.capacity = s.te.capacity := by
  unfold formatSucceeds dropNewSlots
  simp

@[simp] theorem formatEnd_target (out : TOutcome) (s : State) :
    (formatEnd out s).outT = s.outT ∧ (formatEnd out s).te.capacity = s.te.capacity := by
  unfold formatEnd formatClaim answerPlain
  dsimp only
  repeat' split
  all_goals simp

/-! ## Machine/Mount.lean -/

@[simp] theorem mountGo_target (stage : MountStage) (n : Nat) (s : State) :
    (mountGo stage n s).outT = s.outT ∧ (mountGo stage n s).te.capacity = s.te.capacity :=
  ⟨rfl, rfl⟩

@[simp] theorem mountFinish_target (s : State) :
    (mountFinish s).outT = s.outT ∧ (mountFinish s).te.capacity = s.te.capacity := by
  have notices := foldl_target (f := fun t q => raise (.journalFaultBlock q) none t) fun _ _ => by simp
  unfold mountFinish dropNewSlots
  dsimp only
  repeat' split
  all_goals simp [notices]

@[simp] theorem scanFrom_target (k : Nat) (s : State) :
    (scanFrom k s).outT = s.outT ∧ (scanFrom k s).te.capacity = s.te.capacity := by
  unfold scanFrom
  dsimp only
  repeat' split
  all_goals simp

@[simp] theorem replayNext_target (s : State) :
    (replayNext s).outT = s.outT ∧ (replayNext s).te.capacity = s.te.capacity := by
  unfold replayNext
  dsimp only
  repeat' split
  all_goals simp

@[simp] theorem tryCandidate_target (s : State) :
    (tryCandidate s).outT = s.outT ∧ (tryCandidate s).te.capacity = s.te.capacity := by
  unfold tryCandidate
  split <;> simp

@[simp] theorem mountRead_target (bytes : Option (List Byte)) (s : State) :
    (mountRead bytes s).outT = s.outT ∧ (mountRead bytes s).te.capacity = s.te.capacity := by
  unfold mountRead dropCandidate
  dsimp only
  repeat' split
  all_goals simp

@[simp] theorem mountCleared_target (ok : Bool) (s : State) :
    (mountCleared ok s).outT = s.outT ∧ (mountCleared ok s).te.capacity = s.te.capacity := by
  unfold mountCleared
  dsimp only
  repeat' split
  all_goals simp

@[simp] theorem mountEnd_target (got : List Block) (out : TOutcome) (s : State) :
    (mountEnd got out s).outT = s.outT ∧ (mountEnd got out s).te.capacity = s.te.capacity := by
  unfold mountEnd mountAbandon
  dsimp only
  repeat' split
  all_goals simp

/-! ## Machine/Pieces.lean -/

@[simp] theorem readDone_target (c : CmdId) (i : Nat) (r : Record) (p : Piece) (got : List Block) (s : State) :
    (readDone c i r p got s).outT = s.outT ∧ (readDone c i r p got s).te.capacity = s.te.capacity := by
  unfold readDone
  split <;> simp

@[simp] theorem readFailed_target (c : CmdId) (i n : Nat) (r : Record) (p : Piece) (got : List Block) (s : State) :
    (readFailed c i n r p got s).outT = s.outT ∧ (readFailed c i n r p got s).te.capacity = s.te.capacity := by
  unfold readFailed
  split <;> simp

@[simp] theorem readLost_target (x : Nat) (s : State) :
    (readLost x s).outT = s.outT ∧ (readLost x s).te.capacity = s.te.capacity := by
  unfold readLost
  dsimp only
  split <;> simp

@[simp] theorem leadingBlocks_target (n : Nat) (got : List Block) (s : State) :
    (leadingBlocks n got s).2.outT = s.outT ∧ (leadingBlocks n got s).2.te.capacity = s.te.capacity := by
  unfold leadingBlocks
  split <;> exact ⟨rfl, rfl⟩

@[simp] theorem readPieceEnd_target (c : CmdId) (i : Nat) (r : Record) (p : Piece) (got : List Block)
    (out : TOutcome) (s : State) :
    (readPieceEnd c i r p got out s).outT = s.outT ∧
      (readPieceEnd c i r p got out s).te.capacity = s.te.capacity := by
  unfold readPieceEnd readGoesOn
  dsimp only
  repeat' split
  all_goals simp

@[simp] theorem slotWritten_target (c : CmdId) (slot region : Nat) (p : Piece) (s : State) :
    (slotWritten c slot region p s).outT = s.outT ∧ (slotWritten c slot region p s).te.capacity = s.te.capacity := by
  unfold slotWritten
  dsimp only
  repeat' split
  all_goals simp

@[simp] theorem writePieceEnd_target (c : CmdId) (i : Nat) (r : Record) (p : Piece) (out : TOutcome) (s : State) :
    (writePieceEnd c i r p out s).outT = s.outT ∧ (writePieceEnd c i r p out s).te.capacity = s.te.capacity := by
  unfold writePieceEnd writeFailed
  dsimp only
  repeat' split
  all_goals simp

@[simp] theorem pieceEnd_target (c : CmdId) (i : Nat) (got : List Block) (out : TOutcome) (s : State) :
    (pieceEnd c i got out s).outT = s.outT ∧ (pieceEnd c i got out s).te.capacity = s.te.capacity := by
  unfold pieceEnd
  repeat' split
  all_goals simp

@[simp] theorem flushEnd_target (c : CmdId) (out : TOutcome) (s : State) :
    (flushEnd c out s).outT = s.outT ∧ (flushEnd c out s).te.capacity = s.te.capacity := by
  unfold flushEnd
  repeat' split
  all_goals simp

/-! ## Machine/Target.lean -/

@[simp] theorem strayEnd_target (slot : Option Nat) (first : Nat) (out : TOutcome) (s : State) :
    (strayEnd slot first out s).outT = s.outT ∧ (strayEnd slot first out s).te.capacity = s.te.capacity := by
  unfold strayEnd
  repeat' split
  all_goals simp

/-- No final outcome sends a frame to the target or changes the capacity recorded (R73, R100). -/
@[simp] theorem finalOutcome_target (r : Request) (got : List Block) (out : TOutcome) (s : State) :
    (finalOutcome r got out s).outT = s.outT ∧ (finalOutcome r got out s).te.capacity = s.te.capacity := by
  unfold finalOutcome
  split <;> simp

end Sys2Proof.Machine
end

section
/-! SUPPORT. The expiries of the target port: STOP, the reset of the link, the retry that is requested, and LINKRESET repeated
(R84, R96, R97, R99). -/

namespace Sys2Proof.Machine

variable {s : State} {tag : Nat} {o : TargetOp}

/-! ## The reset of the link (R97) -/

/-- The end of one operation by the reset sends nothing to the target. -/
theorem endReset_target (tag : Nat) (s : State) :
    (endReset tag s).outT = s.outT ∧ (endReset tag s).te.capacity = s.te.capacity := by
  unfold endReset
  split <;> simp

/-- The state in which the reset of the link ends the operations: RESETTING, with LINKRESET sent. -/
def State.linkResetting (s : State) : State :=
  ({ s with te := { s.te with link := .resetting, resetWait := true } } : State).sendT .linkreset

theorem resetLink_eq (s : State) :
    resetLink s = (s.te.ops.map (·.tag)).foldl (fun u tag => endReset tag u) s.linkResetting := rfl

/-- The reset of the link sends LINKRESET, ends every operation and starts the wait for RESET_DONE; the capacity stays. -/
theorem resetLink_facts (s : State) : (resetLink s).te.link = .resetting ∧ (resetLink s).te.ops = [] ∧
    (resetLink s).te.resetWait = true ∧ (resetLink s).te.capacity = s.te.capacity ∧
    (resetLink s).outT = s.outT ++ [.linkreset] := by
  obtain ⟨kept, -⟩ := keepsBut_endResets (s := s.linkResetting) (s.te.ops.map (·.tag))
  obtain ⟨hout, hcap⟩ := foldl_target (fun u tag => endReset_target tag u) (s.te.ops.map (·.tag)) s.linkResetting
  refine ⟨?_, resetLink_ops, ?_, ?_, ?_⟩
  all_goals rw [resetLink_eq]
  · exact kept.link
  · exact kept.wait
  · exact hcap
  · exact hout

/-! ## The expiries -/

/-- The timer of an operation with no STOP sent expires: STOP is sent for its tag (R96). -/
theorem exec_targetOperationTimeout (hl : s.te.link = .up) (ho : s.op? tag = some o) (hs : o.stop = none) :
    exec (.targetOperationTimeout tag) s = .next (stopOp tag .timeout s) := by
  show Host.Outcome.next _ = _
  rw [openOp_of_up hl ho, if_pos hs]

/-- The wait that follows a STOP expires: the link is reset (R97). -/
theorem exec_stopWaitExpiry (hl : s.te.link = .up) (ho : s.op? tag = some o) (hs : o.stop ≠ none) :
    exec (.stopWaitExpiry tag) s = .next (resetLink s) := by
  show Host.Outcome.next _ = _
  rw [ho]
  exact congrArg _ (if_pos ⟨hl, hs⟩)

/-- The oldest not-ready interval ends: its retry is requested, and fails at the end of the act on a DOWN link (R84, R99). -/
theorem exec_notReadyRetryInterval {r : Request} {rest : List Request} (h : s.te.intervals = r :: rest) :
    exec .notReadyRetryInterval s =
      .next (settleDown (enqueue r { s with te := { s.te with intervals := rest } })) := by
  show Host.Outcome.next _ = _
  rw [h]

/-- A request enters its class's queue whatever intervals run. -/
theorem enqueue_of_intervals (r : Request) (rest : List Request) (s : State) :
    enqueue r { s with te := { s.te with intervals := rest } } = { s with
      te := TransferEngine.setQueue { s.te with intervals := rest } r.cls (s.te.queue r.cls ++ [r]) } := by
  have hq := teQueue_congr (a := { s.te with intervals := rest }) (b := s.te) r.cls rfl rfl rfl rfl rfl
  exact congrArg (fun q => ({ s with
    te := TransferEngine.setQueue { s.te with intervals := rest } r.cls (q ++ [r]) } : State)) hq

/-! ## The statement -/

/-- Settles O34: each expiry by its condition, and the reset of the link by what the end of every operation keeps. -/
theorem targetTimeoutsRetriesAndRepeats : Obligations.TargetTimeoutsRetriesAndRepeats := by
  refine ⟨fun s tag o hl ho => ⟨fun hs => ?_, fun hs => ?_⟩, fun s h => ?_, fun s r rest hl h => ?_,
    fun s => ⟨fun hl => ?_, fun hl hz => ?_, fun hl hz => ?_⟩⟩
  · exact exec_targetOperationTimeout hl ho hs
  · exact ⟨resetLink s, exec_stopWaitExpiry hl ho hs, resetLink_facts s⟩
  · show Host.Outcome.next _ = _
    rw [h]
  · rw [exec_notReadyRetryInterval h, settleDown_of_link (by rwa [enqueue_te_link]), enqueue_of_intervals]
  · exact congrArg Host.Outcome.next (if_neg hl)
  · exact congrArg Host.Outcome.next ((if_pos hl).trans (if_neg (by simp [hz])))
  · exact congrArg Host.Outcome.next ((if_pos hl).trans (if_pos hz))

end Sys2Proof.Machine
end

section
/-! SUPPORT. The requests of the Merge Unit and SET_LAYOUT: the refusals in their order, the start of a merge run and of the
formatting writes, the halt, the place of a discard, and the grant of a grain claim (R103 to R105, R110, R113, R146). -/

namespace Sys2Proof.Machine

variable {s : State} {p : Port} {q : BitVec 16} {index : Nat}

/-! ## What a request in progress leaves to read (R170) -/

@[simp] theorem policyOf_inProgressFor (s : State) (p : Port) (q : BitVec 16) (code : Nat) :
    (s.inProgressFor p q code).policyOf = s.policyOf := by
  funext i
  unfold State.policyOf
  simp

@[simp] theorem journaled_inProgressFor (s : State) (p : Port) (q : BitVec 16) (code : Nat) :
    (s.inProgressFor p q code).journaled = s.journaled := by
  funext i
  unfold State.journaled
  simp

@[simp] theorem mergeSelection_inProgressFor (s : State) (p : Port) (q : BitVec 16) (code index : Nat) :
    (s.inProgressFor p q code).mergeSelection index = s.mergeSelection index := by
  unfold State.mergeSelection State.mergeable
  simp

@[simp] theorem layoutInUse_inProgressFor (s : State) (p p' : Port) (q : BitVec 16) (code : Nat) :
    (s.inProgressFor p q code).layoutInUse p' = s.layoutInUse p' := by
  unfold State.layoutInUse State.mapBusy
  simp

@[simp] theorem claimGranted_inProgressFor (s : State) (p : Port) (q : BitVec 16) (code : Nat) (ref : ClaimRef) :
    (s.inProgressFor p q code).claimGranted ref = s.claimGranted ref := by
  unfold State.claimGranted
  simp

/-- A claim is placed at the end of the admitted order, granted or not, and nothing else changes (R51). -/
theorem placeAtEnd_eq (ref : ClaimRef) (s : State) : ∃ g, placeAtEnd ref s =
    { s with adm := { s.adm with order := s.adm.order ++ [⟨ref, g⟩] } } := ⟨_, rfl⟩

/-! ## The refusals that MERGE and DISCARD share (R103, R113) -/

/-- The refusal of a request on the overlay store under the hold state, without a layout, or while the store is busy, in this
order. -/
def State.storeRefusal (s : State) : Option Reply :=
  if s.map.hold then some .held else if !s.layoutSet then some .noLayout else if s.storeBusy then some .busy else none

@[simp] theorem storeRefusal_inProgressFor (s : State) (p : Port) (q : BitVec 16) (code : Nat) :
    (s.inProgressFor p q code).storeRefusal = s.storeRefusal := by
  unfold State.storeRefusal State.layoutSet
  simp

theorem storeRefusal_held (hh : s.map.hold = true) : s.storeRefusal = some .held := if_pos hh

theorem storeRefusal_noLayout (hh : s.map.hold = false) (hl : s.map.layout = none) : s.storeRefusal = some .noLayout := by
  simp [State.storeRefusal, State.layoutSet, hh, hl]

theorem storeRefusal_busy (hh : s.map.hold = false) (hl : s.map.layout.isSome = true) (hb : s.storeBusy = true) :
    s.storeRefusal = some .busy := by
  simp [State.storeRefusal, State.layoutSet, hh, hl, hb]

theorem storeRefusal_none (hh : s.map.hold = false) (hl : s.map.layout.isSome = true) (hb : s.storeBusy = false) :
    s.storeRefusal = none := by
  simp [State.storeRefusal, State.layoutSet, hh, hl, hb]

/-- Without such a refusal the three conditions fail. -/
theorem of_storeRefusal_none (h : s.storeRefusal = none) :
    s.map.hold = false ∧ s.layoutSet = true ∧ s.storeBusy = false := by
  unfold State.storeRefusal at h
  split_ifs at h with hh hl hb
  exact ⟨by simpa using hh, by simpa using hl, by simpa using hb⟩

/-! ## MERGE (R103) -/

/-- A MERGE whose parameter is neither an index nor ALL. -/
theorem reqMerge_badIndex (h : 31 < index) (ha : index ≠ mergeAll) :
    reqMerge p index s = answerPlain (some p) .badParameter s := if_pos ⟨h, ha⟩

/-- A MERGE of an index or of ALL that the store refuses. -/
theorem reqMerge_refused {res : Reply} (hi : index ≤ 31 ∨ index = mergeAll) (h : s.storeRefusal = some res) :
    reqMerge p index s = answerPlain (some p) res s := by
  have hn : ¬ (31 < index ∧ index ≠ mergeAll) := by omega
  unfold State.storeRefusal at h
  unfold reqMerge
  rw [if_neg hn]
  split_ifs at h ⊢ with hh hl hb
  all_goals cases h; rfl

/-- A MERGE that the store does not refuse depends on its selection alone. -/
theorem reqMerge_judged (hi : index ≤ 31 ∨ index = mergeAll) (h : s.storeRefusal = none) :
    (s.mergeSelection index = none → reqMerge p index s = answerPlain (some p) .badParameter s) ∧
    ∀ sel, s.mergeSelection index = some sel → reqMerge p index s =
      if sel.any s.journaled && decide (s.jrn.cond = .fault) then answerPlain (some p) .journalFault s
      else startMerge p sel (decide (index = mergeAll)) s := by
  obtain ⟨hh, hl, hb⟩ := of_storeRefusal_none h
  have hn : ¬ (31 < index ∧ index ≠ mergeAll) := by omega
  unfold reqMerge
  rw [if_neg hn, hh, hl, hb]
  refine ⟨fun hs => ?_, fun sel hs => ?_⟩
  · rw [hs]
    rfl
  · rw [hs]
    rfl

/-! ## The start of a run (R103, R104) -/

/-- The state in which the first search of a run is made: the run is RUNNING from grain 0, and its request is answered. -/
def State.mergeStarted (s : State) (p : Port) (sel : List Nat) (all : Bool) : State :=
  answer (some p) .doneOk 0 0 sel.length 0 [] (setMrg (fun m => { m with
    state := .running, selection := sel, all := all, cursor := 0, grain := none, cause := none, merged := 0, left := 0,
    haltOwed := [] }) s)

theorem startMerge_eq (sel : List Nat) (all : Bool) : startMerge p sel all s = mergeSearch (s.mergeStarted p sel all) := rfl

theorem mergeStarted_mrg (sel : List Nat) (all : Bool) : (s.mergeStarted p sel all).mrg = { s.mrg with
    state := .running, selection := sel, all := all, cursor := 0, grain := none, cause := none, merged := 0, left := 0,
    haltOwed := [] } := by
  simp [State.mergeStarted]

theorem mergeStarted_units (sel : List Nat) (all : Bool) : (s.mergeStarted p sel all).ov = s.ov ∧
    (s.mergeStarted p sel all).adm = s.adm ∧ (s.mergeStarted p sel all).jrn = s.jrn ∧
    (s.mergeStarted p sel all).map = s.map := by
  simp [State.mergeStarted]

theorem mergeStarted_response (sel : List Nat) (all : Bool) :
    ((s.mergeStarted p sel all).mg p).response.result = some .doneOk ∧
      ((s.mergeStarted p sel all).mg p).response.n3 = sel.length := by
  simp [State.mergeStarted]

/-- The first search looks for the lowest entry with a slot in the selection (R104). -/
theorem mergeNext_mergeStarted (sel : List Nat) (all : Bool) : (s.mergeStarted p sel all).mergeNext =
    s.ov.table.find? fun e => sel.contains e.region && e.slot.isSome := by
  unfold State.mergeNext
  simp only [mergeStarted_mrg, (mergeStarted_units sel all).1, Nat.zero_le, decide_true, Bool.true_and]

/-! ## A search, and the end of a run (R104, R111) -/

/-- A search of a RUNNING run that finds no entry ends the run (R104). -/
theorem mergeSearch_ends (hr : s.mrg.state = .running) (hn : s.mergeNext = none) : mergeSearch s = mergeEnd none s := by
  unfold mergeSearch
  rw [hr, hn]
  rfl

/-- A search of a RUNNING run moves to the entry it finds and places the grain claim (R104). -/
theorem mergeSearch_places {e : Entry} (hr : s.mrg.state = .running) (hn : s.mergeNext = some e)
    (hj : (s.journaled e.region && decide (s.jrn.cond = .fault)) = false) :
    mergeSearch s = placeAtEnd (.merge e.grain)
      (setMrg (fun m => { m with cursor := e.grain, grain := some (MergeGrain.waitingClaim e) }) s) := by
  unfold mergeSearch
  rw [hr, hn]
  dsimp only
  rw [if_neg (by simp), if_neg (by simp [hj])]
  rfl

/-- The end of a run that no HALT_MERGE waits for: the run and its grain are gone, and a notice is raised (R111). -/
theorem mergeEnd_facts (cause : Option MergeCause) (h : s.mrg.haltOwed = []) :
    (mergeEnd cause s).mrg = { s.mrg with
      state := .none, grain := none, cause := cause, left := s.entriesLeft, haltOwed := [] } ∧
    (mergeEnd cause s).adm = s.adm ∧ (mergeEnd cause s).ov = s.ov ∧
    ∀ p, ((mergeEnd cause s).mg p).response = (s.mg p).response := by
  unfold mergeEnd
  rw [h]
  refine ⟨rfl, rfl, rfl, fun p => ?_⟩
  simp only [List.foldl_nil, mg_raise, (offer_keeps _ _ _).2.2]
  exact congrArg PortMgmt.response (mg_congr p rfl rfl)

/-- A run whose selection has no entry with a slot ends in the act that starts it (R104, R111). -/
theorem startMerge_ends {sel : List Nat} (all : Bool)
    (h : (s.ov.table.find? fun e => sel.contains e.region && e.slot.isSome) = none) :
    let t := startMerge p sel all s
    t.mrg.state = .none ∧ t.mrg.merged = 0 ∧ (t.mg p).response.result = some .doneOk ∧
      (t.mg p).response.n3 = sel.length ∧ t.adm.order = s.adm.order := by
  have hrun : startMerge p sel all s = mergeEnd none (s.mergeStarted p sel all) :=
    (startMerge_eq sel all).trans
      (mergeSearch_ends (by rw [mergeStarted_mrg]) ((mergeNext_mergeStarted sel all).trans h))
  obtain ⟨hmrg, hadm, -, hresp⟩ := mergeEnd_facts (s := s.mergeStarted p sel all) none (by rw [mergeStarted_mrg])
  obtain ⟨hres, hn3⟩ := mergeStarted_response (s := s) (p := p) sel all
  dsimp only
  rw [hrun, hmrg, hadm, hresp p, mergeStarted_mrg, (mergeStarted_units sel all).2.1]
  exact ⟨rfl, rfl, hres, hn3, rfl⟩

/-- A run starts at the lowest entry of its selection with a slot, with its grain claim at the end of the admitted order
(R103, R104). -/
theorem startMerge_places {sel : List Nat} {e : Entry} (all : Bool)
    (h : (s.ov.table.find? fun e => sel.contains e.region && e.slot.isSome) = some e)
    (hj : (sel.any s.journaled && decide (s.jrn.cond = .fault)) = false) :
    ∃ g, (startMerge p sel all s).mrg = { (s.mergeStarted p sel all).mrg with
        cursor := e.grain, grain := some (MergeGrain.waitingClaim e) } ∧
      (startMerge p sel all s).adm.order = s.adm.order ++ [⟨.merge e.grain, g⟩] ∧
      (startMerge p sel all s).mg p = (s.mergeStarted p sel all).mg p ∧ (startMerge p sel all s).ov = s.ov := by
  obtain ⟨hov, hadm, hjrn, hmap⟩ := mergeStarted_units (s := s) (p := p) sel all
  have hsel : e.region ∈ sel := by
    have := List.find?_some h
    simp only [Bool.and_eq_true, List.contains_iff_mem] at this
    exact this.1
  have hfree : ((s.mergeStarted p sel all).journaled e.region &&
      decide ((s.mergeStarted p sel all).jrn.cond = .fault)) = false := by
    unfold State.journaled State.policyOf at hj ⊢
    rw [hjrn, hmap]
    simp only [Bool.and_eq_false_iff, List.any_eq_false] at hj ⊢
    exact hj.imp_left fun x => by simpa using x e.region hsel
  have hrun := mergeSearch_places (s := s.mergeStarted p sel all) (by rw [mergeStarted_mrg])
    ((mergeNext_mergeStarted sel all).trans h) hfree
  obtain ⟨g, hplace⟩ := placeAtEnd_eq (.merge e.grain)
    (setMrg (fun m => { m with cursor := e.grain, grain := some (MergeGrain.waitingClaim e) }) (s.mergeStarted p sel all))
  rw [startMerge_eq, hrun, hplace]
  refine ⟨g, rfl, ?_, mg_congr p rfl rfl, hov⟩
  dsimp only
  rw [setMrg_adm, hadm]

/-- Settles O47: MERGE by its parameter, by what the store refuses, by its selection, and by the first search of its run. -/
theorem mergeStartsOrIsRefused : Obligations.MergeStartsOrIsRefused := by
  intro p q index s h
  have refused {res : Reply} (hi : index ≤ 31 ∨ index = 0xFF) (hr : s.storeRefusal = some res) :
      exec (.merge p q index) s = .next (s.plainly p q 0x20 res) :=
    exec_answered (r := .merge index) h rfl (reqMerge_refused hi (by simpa using hr))
  refine ⟨fun hi ha => exec_answered (r := .merge index) h rfl (reqMerge_badIndex hi ha), fun hi =>
    ⟨fun hh => refused hi (storeRefusal_held hh), fun hh => ⟨fun hl => refused hi (storeRefusal_noLayout hh hl),
      fun hl => ⟨fun hb => refused hi (storeRefusal_busy hh hl hb), fun hb => ?_⟩⟩⟩⟩
  obtain ⟨hnone, hsome⟩ := reqMerge_judged (p := p) (s := s.inProgressFor p q 0x20) hi
    (by simpa using storeRefusal_none hh hl hb)
  simp only [mergeSelection_inProgressFor, journaled_inProgressFor, inProgressFor_units] at hnone hsome
  refine ⟨fun hs => exec_answered (r := .merge index) h rfl (hnone hs), fun sel hs => ⟨fun hk hf => ?_, fun hj => ?_⟩⟩
  · exact exec_answered (r := .merge index) h rfl ((hsome sel hs).trans (if_pos (by simp [hk, hf])))
  · have hexec := exec_taken (i := .merge p q index) (r := .merge index) h rfl ((hsome sel hs).trans (if_neg (by simp [hj])))
    refine ⟨fun hnx => ?_, fun e hnx => ?_⟩
    · have := startMerge_ends (p := p) (s := s.inProgressFor p q 0x20) (decide (index = mergeAll)) (by simpa using hnx)
      obtain ⟨hst, hm, hres, hn3, ho⟩ := this
      exact ⟨_, hexec, hst, hm, hres, hn3, by simpa using ho⟩
    · obtain ⟨g, hmrg, ho, hmg, hov⟩ := startMerge_places (p := p) (s := s.inProgressFor p q 0x20)
        (decide (index = mergeAll)) (by simpa using hnx) (by simpa using hj)
      rw [mergeStarted_mrg] at hmrg
      obtain ⟨hres, hn3⟩ := mergeStarted_response (s := s.inProgressFor p q 0x20) (p := p) sel (decide (index = mergeAll))
      refine ⟨_, g, hexec, ?_⟩
      rw [hmrg, hmg, ho, hov]
      refine ⟨rfl, rfl, rfl, rfl, rfl, rfl, ?_, hres, hn3, ?_⟩ <;> simp

/-! ## HALT_MERGE (R110) -/

/-- A HALT_MERGE without a run. -/
theorem reqHaltMerge_none (h : s.mrg.state = .none) : reqHaltMerge p s = answerPlain (some p) .doneOk s := by
  unfold reqHaltMerge
  rw [h]

/-- A HALT_MERGE of a RUNNING run whose grain claim waits and is not granted. -/
theorem reqHaltMerge_waiting {x : MergeGrain} (h : s.mrg.state = .running) (hx : s.mrg.grain = some x)
    (hw : x.stage = .waiting) (hg : s.claimGranted (.merge s.mrg.cursor) = false) :
    reqHaltMerge p s = answerPlain (some p) .doneOk (mergeEndHere .halted s) := by
  unfold reqHaltMerge
  rw [h, hx]
  exact if_pos ⟨hw, hg⟩

/-- A HALT_MERGE of a RUNNING run whose grain is past its waiting stage. -/
theorem reqHaltMerge_later {x : MergeGrain} (h : s.mrg.state = .running) (hx : s.mrg.grain = some x)
    (hw : x.stage ≠ .waiting) : reqHaltMerge p s = haltLater p s := by
  unfold reqHaltMerge
  rw [h, hx]
  exact if_neg fun hn => hw hn.1

/-- A run that ends at a grain that no HALT_MERGE waits for leaves no claim of the grain (R111). -/
theorem mergeEndHere_facts (cause : MergeCause) (h : s.mrg.haltOwed = []) :
    (mergeEndHere cause s).mrg.state = .none ∧ (mergeEndHere cause s).mrg.cause = some cause ∧
    (mergeEndHere cause s).mrg.grain = none ∧ (mergeEndHere cause s).ov = s.ov ∧
    ∀ y ∈ (mergeEndHere cause s).adm.order, y.ref ≠ .merge s.mrg.cursor := by
  obtain ⟨hmrg, hadm, hov, -⟩ := mergeEnd_facts (s := unplace (.merge s.mrg.cursor) s) (some cause) h
  unfold mergeEndHere
  rw [hmrg, hadm, hov]
  refine ⟨rfl, rfl, rfl, rfl, fun y hy => ?_⟩
  have hy : y ∈ s.adm.order ∧ ¬ y.ref = .merge s.mrg.cursor := by simpa [unplace, setOrder] using hy
  exact hy.2

/-- Settles O48: HALT_MERGE by the state of the run and the stage of its grain. -/
theorem haltMergeEndsOrWaits : Obligations.HaltMergeEndsOrWaits := by
  intro p q s h
  refine ⟨fun hn => ?_, fun x hr hx => ⟨fun hw hg ho => ?_, fun hw => ?_⟩⟩
  · exact exec_answered (r := .haltMerge) h rfl (reqHaltMerge_none (by simpa using hn))
  · have hreq := reqHaltMerge_waiting (p := p) (s := s.inProgressFor p q 0x21) (by simpa using hr) (by simpa using hx) hw
      (by simpa using hg)
    obtain ⟨hst, hc, hgr, hov, hord⟩ := mergeEndHere_facts (s := s.inProgressFor p q 0x21) .halted (by simpa using ho)
    refine ⟨_, exec_taken (r := .haltMerge) h rfl hreq, ?_⟩
    simp only [answerPlain, answer_frame, mg_answer, true_and]
    exact ⟨hst, hc, hgr, by simpa using hord, by simpa using hov⟩
  · refine exec_taken (r := .haltMerge) h rfl
      ((reqHaltMerge_later (by simpa using hr) (by simpa using hx) hw).trans ?_)
    unfold haltLater setMrg
    simp only [inProgressFor_units]
    rfl

/-! ## DISCARD (R113) -/

/-- A DISCARD whose parameter is no index. -/
theorem reqDiscard_badIndex (h : 31 < index) : reqDiscard p index s = answerPlain (some p) .badParameter s := if_pos h

/-- A DISCARD of an index that the store refuses. -/
theorem reqDiscard_refused {res : Reply} (hi : index ≤ 31) (h : s.storeRefusal = some res) :
    reqDiscard p index s = answerPlain (some p) res s := by
  unfold State.storeRefusal at h
  unfold reqDiscard
  rw [if_neg (Nat.not_lt.2 hi)]
  split_ifs at h ⊢ with hh hl hb
  all_goals cases h; rfl

/-- A DISCARD that the store does not refuse depends on its region alone. -/
theorem reqDiscard_judged (hi : index ≤ 31) (h : s.storeRefusal = none) : reqDiscard p index s =
    if (s.map.active.region index).inUse && (s.policyOf index).isOverlay then
      discardPlace (setMrg (fun m => { m with discard := some ⟨index, false, some p, none, 0⟩ }) s)
    else answerPlain (some p) .badParameter s := by
  obtain ⟨hh, hl, hb⟩ := of_storeRefusal_none h
  unfold reqDiscard
  rw [if_neg (Nat.not_lt.2 hi), hh, hl, hb]
  show (if !((s.map.active.region index).inUse && (s.policyOf index).isOverlay) then _ else _) = _
  cases (s.map.active.region index).inUse && (s.policyOf index).isOverlay <;> rfl

theorem isDiscard_iff {x : Placed} : x.isDiscard = true ↔ ∃ i a n, x.ref = .discard i a n := by
  refine ⟨fun h => ?_, fun ⟨i, a, n, h⟩ => by unfold Placed.isDiscard; rw [h]⟩
  unfold Placed.isDiscard at h
  split at h
  · exact ⟨_, _, _, by assumption⟩
  · cases h

/-- While the claim of an earlier discard stands, a discard waits for its place (R113; log entry 26). -/
theorem discardPlace_waits (h : ∃ x ∈ s.adm.order, ∃ i a n, x.ref = .discard i a n) : discardPlace s = s := by
  obtain ⟨x, hx, hd⟩ := h
  unfold discardPlace
  split
  · rfl
  · exact if_pos (List.any_eq_true.2 ⟨x, hx, isDiscard_iff.2 hd⟩)

/-- With no claim of a discard in the admitted order, a discard is placed over its region (R113). -/
theorem discardPlace_places {d : Discard} (hd : s.mrg.discard = some d)
    (h : ∀ x ∈ s.adm.order, ∀ i a n, x.ref ≠ .discard i a n) : discardPlace s =
      placeAtEnd (.discard d.region (s.map.active.region d.region).first (s.map.active.region d.region).count)
        (setMrg (fun m => { m with discard := some { d with placed := true } }) s) := by
  have hn : ¬ s.adm.order.any Placed.isDiscard = true := by
    rw [List.any_eq_true]
    rintro ⟨x, hx, hp⟩
    obtain ⟨i, a, n, e⟩ := isDiscard_iff.1 hp
    exact h x hx i a n e
  unfold discardPlace
  rw [hd]
  exact if_neg hn

/-- Settles O49: DISCARD by its parameter, by what the store refuses, by its region, and by the claims of discards that stand. -/
theorem discardIsPlacedOrRefused : Obligations.DiscardIsPlacedOrRefused := by
  intro p q index s h
  have refused {res : Reply} (hi : index ≤ 31) (hr : s.storeRefusal = some res) :
      exec (.discard p q index) s = .next (s.plainly p q 0x22 res) :=
    exec_answered (r := .discard index) h rfl (reqDiscard_refused hi (by simpa using hr))
  refine ⟨fun hi => exec_answered (r := .discard index) h rfl (reqDiscard_badIndex hi), fun hi =>
    ⟨fun hh => refused hi (storeRefusal_held hh), fun hh => ⟨fun hl => refused hi (storeRefusal_noLayout hh hl),
      fun hl => ⟨fun hb => refused hi (storeRefusal_busy hh hl hb), fun hb => ?_⟩⟩⟩⟩
  have hreq := reqDiscard_judged (p := p) (s := s.inProgressFor p q 0x22) hi (by simpa using storeRefusal_none hh hl hb)
  simp only [policyOf_inProgressFor, inProgressFor_units] at hreq
  refine ⟨fun hr => ?_, fun hr => ⟨fun hno => ?_, fun hold => ?_⟩⟩
  · exact exec_answered (r := .discard index) h rfl (hreq.trans (if_neg (by simp [hr])))
  · have hplace := discardPlace_places (s := setMrg (fun m => { m with discard := some ⟨index, false, some p, none, 0⟩ })
      (s.inProgressFor p q 0x22)) rfl (by simpa using hno)
    obtain ⟨g, hg⟩ := placeAtEnd_eq (.discard index (s.map.active.region index).first (s.map.active.region index).count)
      (setMrg (fun m => { m with discard := some ⟨index, true, some p, none, 0⟩ }) (s.inProgressFor p q 0x22))
    refine ⟨g, exec_taken (r := .discard index) h rfl ((hreq.trans (if_pos hr)).trans ?_)⟩
    rw [hplace]
    simp only [setMrg_map, inProgressFor_units]
    refine Eq.trans hg ?_
    simp only [setMrg, inProgressFor_units]
  · refine exec_taken (r := .discard index) h rfl ((hreq.trans (if_pos hr)).trans ((discardPlace_waits ?_).trans ?_))
    · simpa using hold
    · simp only [setMrg, inProgressFor_units]

/-! ## SET_LAYOUT (R146) -/

theorem anyRegion_iff {m : RegionMap} {test : Region → Bool} :
    m.anyRegion test = true ↔ ∃ i, i < 32 ∧ (m.region i).inUse = true ∧ test (m.region i) = true := by
  simp [RegionMap.anyRegion]

/-- A SET_LAYOUT under the hold state. -/
theorem reqSetLayout_held {l : Layout} (hh : s.map.hold = true) :
    reqSetLayout p l s = answerPlain (some p) .held s := if_pos hh

/-- A layout that is not valid, or one that an in-use region of the active map does not fit (R136, R146). -/
theorem reqSetLayout_badParameter {l : Layout} (hh : s.map.hold = false)
    (h : layoutValid l s.capacity = false ∨ (layoutValid l s.capacity = true ∧ ∃ i, i < 32 ∧
      (s.map.active.region i).inUse = true ∧ targetRangeOk (s.map.active.region i) (some l) s.capacity = false)) :
    reqSetLayout p l s = answerPlain (some p) .badParameter s := by
  unfold reqSetLayout
  rw [if_neg (by simp [hh])]
  rcases h with hv | ⟨hv, i, hi, hu, ht⟩
  · exact if_pos (by simp [hv])
  · rw [if_neg (by simp [hv])]
    exact if_pos (anyRegion_iff.2 ⟨i, hi, hu, by simp [ht]⟩)

/-- A valid layout that every in-use region of the active map fits: the conditions of R146 that remain, and behind them the
BUSY of R103 (log entry 40). -/
theorem reqSetLayout_judged {l : Layout} (hh : s.map.hold = false) (hv : layoutValid l s.capacity = true)
    (hr : ∀ i, i < 32 → (s.map.active.region i).inUse = true →
      targetRangeOk (s.map.active.region i) (some l) s.capacity = true) :
    reqSetLayout p l s = if s.layoutInUse p then answerPlain (some p) .layoutInUse s
      else if s.mrg.state ≠ .none then answerPlain (some p) .busy s
      else formatClaim { layout := l, formatId := s.map.formatId + 1, owed := some p, step := 0 } s := by
  have hfit : ¬ (s.map.active.anyRegion fun r => !targetRangeOk r (some l) s.capacity) = true := by
    rw [anyRegion_iff]
    rintro ⟨i, hi, hu, ht⟩
    simp [hr i hi hu] at ht
  unfold reqSetLayout
  rw [if_neg (by simp [hh]), if_neg (by simp [hv]), if_neg hfit]

/-- Settles O46: SET_LAYOUT by the first condition that refuses it, and the claim of the first formatting write. -/
theorem setLayoutStartsFormattingOrIsRefused : Obligations.SetLayoutStartsFormattingOrIsRefused := by
  intro p q l s h
  refine ⟨fun hh => ?_, fun hh => ⟨fun hb => ?_, fun hv hr => ?_⟩⟩
  · exact exec_answered (r := .setLayout l) h rfl (reqSetLayout_held (by simpa using hh))
  · exact exec_answered (r := .setLayout l) h rfl (reqSetLayout_badParameter (by simpa using hh) (by simpa using hb))
  · have hreq := reqSetLayout_judged (p := p) (s := s.inProgressFor p q 0x10) (by simpa using hh) (by simpa using hv)
      (by simpa using hr)
    simp only [layoutInUse_inProgressFor, inProgressFor_units] at hreq
    refine ⟨fun hu => ?_, fun hu hm => ?_, fun hm hu => ?_⟩
    · exact exec_answered (r := .setLayout l) h rfl (hreq.trans (if_pos hu))
    · exact exec_answered (r := .setLayout l) h rfl (hreq.trans ((if_neg (by simp [hu])).trans (if_pos hm)))
    · refine exec_taken (r := .setLayout l) h rfl
        (hreq.trans ((if_neg (by simp [hu])).trans ((if_neg (by simp [hm])).trans ?_)))
      unfold formatClaim setFormat placeClaim
      simp only [inProgressFor_units]
      rfl

/-! ## MERGE_GRAIN_CLAIM_GRANT (R105) -/

/-- A RUNNING run whose entry has a slot takes its grain, unless the region is a KEEP region under FAULT (R105). -/
theorem mergeTake_reads {e : Entry} {n : Nat} (hr : s.mrg.state = .running) (he : s.entry? s.mrg.cursor = some e)
    (hn : e.slot = some n) (hj : (s.journaled e.region && decide (s.jrn.cond = .fault)) = false) :
    mergeTake s = placeClaim .internal .merge (maskList e.present).length
      (mapGrain (fun x => { x with stage := .reading, region := e.region, slot := n, copySet := e.present, claiming := true })
        (setEntryState e.grain .merging s)) := by
  unfold mergeTake
  rw [he]
  dsimp only
  rw [hn]
  dsimp only
  rw [if_neg (by simp [hj]), if_neg (by simp [hr])]

/-- Settles O27: the grant that stands is taken, and taking it is the change of the entry, the grain and the claims. -/
theorem mergeTakesItsGrain : Obligations.MergeTakesItsGrain := by
  intro s x e n hr hx hw hg he hn hj
  have htake : exec .mergeGrainClaimGrant s = .next (mergeTake s) := by
    show Host.Outcome.next _ = _
    rw [hx]
    exact congrArg _ (if_pos ⟨hw, hg⟩)
  rw [htake, mergeTake_reads hr he hn hj]
  unfold mapGrain setMrg
  simp only [setEntryState_mrg, hx]
  rfl

end Sys2Proof.Machine
end

section
/-! SUPPORT. The closing of the journal's open buffer into the block in flight, and CHECKPOINT (R120, R123, R125, R129). -/

namespace Sys2Proof.Machine

variable {s : State} {p : Port} {q : BitVec 16}

/-! ## The closing conditions (R120) -/

/-- A buffer may be closed under NORMAL, with no block in flight and room in the journal, once it is full or something waits
on a record of it (R120). -/
theorem canClose_iff : s.canClose = true ↔
    s.jrn.cond = .normal ∧ s.jrn.inFlight = none ∧ s.jrn.live < s.journalLen ∧ s.jrn.openBuf ≠ [] ∧
      (s.jrn.openBuf.length = Config.journalRecords ∨ ∃ r ∈ s.jrn.openBuf, s.waitedOn r.id = true) := by
  simp [State.canClose, and_assoc]

theorem canClose_fault (h : s.jrn.cond = .fault) : s.canClose = false := by
  simp [State.canClose, h]

/-! ## The block in flight (R120, R123) -/

/-- What closing the open buffer makes of the Journal Unit, whether or not it starts a run. -/
theorem closeBlock_journal (s : State) :
    (closeBlock s).jrn.inFlight = some ⟨s.jrn.qNext, s.jrn.openBuf⟩ ∧ (closeBlock s).jrn.openBuf = [] ∧
      (closeBlock s).jrn.qNext = s.jrn.qNext + 1 ∧ (closeBlock s).jrn.sCk = s.jrn.sCk ∧
      (closeBlock s).jrn.cond = s.jrn.cond ∧ (closeBlock s).jrn.waiting = s.jrn.waiting := by
  unfold closeBlock
  simp [setFates]

/-- The one request of the closing: the durable write of the block (R120). -/
theorem closeBlock_journalQ (s : State) :
    (closeBlock s).te.journalQ = s.te.journalQ ++ [newRequest .journal .journal .write (s.journalTarget s.jrn.qNext) 1 true
      [journalBlock s.map.formatId s.jrn.qNext (s.jrn.openBuf.map (·.body))]] := by
  unfold closeBlock
  simp only [autoCheckpoint_frame, enqueue_te]
  rfl

/-- With no run, the closing starts one exactly when the live count reaches J - 16 (R123). -/
theorem closeBlock_run (h : s.jrn.run = none) :
    (closeBlock s).jrn.run.isSome = true ↔ s.journalLen ≤ s.jrn.qNext + 1 - s.jrn.sCk + 16 := by
  unfold closeBlock
  exact autoCheckpoint_run h

/-- One hand-off of a producer that has left, which fits an empty buffer, is taken into the new one in the act of the closing
(R120). -/
theorem closeAndTake_one {recs : List JRecord} (hw : s.jrn.waiting = [⟨.none, recs⟩]) (hcond : s.jrn.cond = .normal)
    (hlive : s.jrn.qNext + 1 - s.jrn.sCk < s.journalLen) (hne : recs ≠ []) (hlen : recs.length ≤ 30) :
    closeAndTake s = takenAll [⟨.none, recs⟩] (closeBlock s) := by
  obtain ⟨-, hopen, hq, hck, hcond', hwait⟩ := closeBlock_journal s
  refine takeHandOffs_one (hwait.trans hw) (hcond'.trans hcond) hne ?_ (by simpa [hopen] using hlen)
  simpa [JournalUnit.live, State.journalLen, hq, hck] using hlive

/-! ## JOURNAL_BLOCK_CLOSE (R120) -/

/-- JOURNAL_BLOCK_CLOSE while the buffer is not to be closed. -/
theorem exec_journalBlockClose_stays (h : s.canClose = false) : exec .journalBlockClose s = .next s :=
  congrArg Host.Outcome.next (if_neg (by simp [h]))

/-- JOURNAL_BLOCK_CLOSE of a buffer that is to be closed, while the link is not DOWN. -/
theorem exec_journalBlockClose_closes (hl : s.te.link ≠ .down) (h : s.canClose = true) :
    exec .journalBlockClose s = .next (closeAndTake s) := by
  have hk : (closeAndTake s).te.link = s.te.link := (keeps_closeAndTake (Keeps.refl s)).link
  exact congrArg Host.Outcome.next ((if_pos h).trans (settleDown_of_link (hk ▸ hl)))

/-- Settles O30: nothing to close, a closing alone, and a closing that takes the hand-off that waits. -/
theorem journalBlockIsClosedAndWritten : Obligations.JournalBlockIsClosedAndWritten := by
  refine ⟨fun s h => ?_, fun s l hl hw hlay hcond hfly hlive hne hdue => ?_,
    fun s recs hl hw hcond hfly hlive hck hne hdue hrecs hlen => ?_⟩
  · exact exec_journalBlockClose_stays (h.elim canClose_fault canClose_empty)
  · have hlen : s.journalLen = l.journalLen := by simp [State.journalLen, hlay]
    have htarget : s.journalTarget s.jrn.qNext = l.journalBase + s.jrn.qNext % l.journalLen := by
      simp [State.journalTarget, hlay]
    have hclose : s.canClose = true := canClose_iff.2 ⟨hcond, hfly, hlen ▸ hlive, hne, hdue⟩
    obtain ⟨hin, hopen, hq, hs, -, hwait⟩ := closeBlock_journal s
    refine ⟨closeBlock s, ?_, hin, hopen, hq, hs, htarget ▸ closeBlock_journalQ s, fun hrun => hlen ▸ closeBlock_run hrun⟩
    rw [exec_journalBlockClose_closes hl hclose, closeAndTake, takeHandOffs_nil (hwait.trans hw)]
  · have hroom : s.jrn.qNext + 1 - s.jrn.sCk < s.journalLen := by
      unfold JournalUnit.live at hlive
      omega
    have hclose : s.canClose = true := canClose_iff.2 ⟨hcond, hfly, by omega, hne, hdue⟩
    obtain ⟨hin, hopen, -⟩ := closeBlock_journal s
    refine ⟨_, exec_journalBlockClose_closes hl hclose, ?_⟩
    rw [closeAndTake_one hw hcond hroom hrecs hlen]
    exact ⟨hin, by simp [takenAll, hopen], rfl⟩

/-! ## CHECKPOINT (R125, R129) -/

/-- The area a run writes is A, unless A is the newest (R124, R140). -/
theorem olderArea_eq (j : JournalUnit) : j.olderArea = if j.newest = some .A then .B else .A := by
  unfold JournalUnit.olderArea
  split
  case h_1 h => rw [h, if_pos rfl]
  case h_2 h => rw [if_neg h]

/-- A CHECKPOINT without a layout. -/
theorem reqCheckpoint_noLayout (h : s.map.layout = none) : reqCheckpoint p s = answerPlain (some p) .noLayout s :=
  if_pos (by simp [State.layoutSet, h])

/-- A CHECKPOINT while a run or a SET_LAYOUT is in progress. -/
theorem reqCheckpoint_busy (hl : s.map.layout.isSome = true) (h : s.jrn.run.isSome = true ∨ s.mnt.format.isSome = true) :
    reqCheckpoint p s = answerPlain (some p) .busy s :=
  (if_neg (by simp [State.layoutSet, hl])).trans (if_pos (by simpa using h))

/-- A CHECKPOINT that nothing refuses. -/
theorem reqCheckpoint_starts (hl : s.map.layout.isSome = true) (hr : s.jrn.run = none) (hf : s.mnt.format = none) :
    reqCheckpoint p s = startRun (.request p) (some p) s :=
  (if_neg (by simp [State.layoutSet, hl])).trans (if_neg (by simp [hr, hf]))

/-- The run at its start, which claims the buffer of its first body block at once (R125). -/
def State.firstRun (s : State) (origin : CkOrigin) (owed : Option Port) : CkRun :=
  { serial := s.jrn.nextRun, origin := origin, owed := owed, area := s.jrn.olderArea, gen := s.jrn.newestGen + 1,
    start := s.jrn.qNext, phase := .bitmap, formedMaps := 0, cursor := none, entryBlocks := 0, entries := 0,
    missed := false, walkEnded := false, unwritten := 0, claiming := true, image := crc32Init }

/-- A run that starts changes the Journal Unit by the run alone, and places the claim of its first block (R125, R126). -/
theorem startRun_eq (origin : CkOrigin) (owed : Option Port) (s : State) : startRun origin owed s =
    { s with
      jrn := { s.jrn with nextRun := s.jrn.nextRun + 1, run := some (s.firstRun origin owed) },
      pool := { s.pool with claimsI := s.pool.claimsI ++ [⟨.ckBody s.jrn.nextRun, 1⟩] } } := rfl

/-- Settles O50: CHECKPOINT by the layout, by a run or a SET_LAYOUT in progress, and the run it starts. -/
theorem checkpointStartsARunOrIsRefused : Obligations.CheckpointStartsARunOrIsRefused := by
  intro p q s h
  refine ⟨fun hl => ?_, fun hl => ⟨fun hb => ?_, fun hr hf => ?_⟩⟩
  · exact exec_answered (r := .checkpoint) h rfl (reqCheckpoint_noLayout (by simpa using hl))
  · exact exec_answered (r := .checkpoint) h rfl (reqCheckpoint_busy (by simpa using hl) (by simpa using hb))
  · refine exec_taken (r := .checkpoint) h rfl
      ((reqCheckpoint_starts (by simpa using hl) (by simpa using hr) (by simpa using hf)).trans ?_)
    rw [startRun_eq]
    unfold State.firstRun
    simp only [inProgressFor_units, olderArea_eq]
    rfl

end Sys2Proof.Machine
end

section
/-! SUPPORT. Start-up, mount and layout: the state after reset, the reads of the mount by its stage, and the formatting
writes. -/

namespace Sys2Proof.Machine

variable {s : State} {tag : Nat} {o : TargetOp}

/-! ## The state after reset (R134) -/

/-- No slot has a place after reset (R25, R37). -/
theorem placesOf_reset (n : Nat) : State.reset.placesOf n = 0 := rfl

/-- The overlay store after reset: no entry, no slot, no relocation, nothing rebuilt and no reservation. -/
theorem storeOk_reset : State.reset.storeOk :=
  ⟨⟨List.Pairwise.nil, fun _ h => nomatch h⟩, fun n => placesOf_reset n, ⟨List.nodup_nil, fun _ h => nomatch h⟩,
    holding_empty_tableOk, List.nodup_nil, fun _ h => nomatch h⟩

/-- Settles O60: the bounds, the target operation table and the overlay store of the state after reset. -/
theorem resetMeetsTheInvariants : Obligations.ResetMeetsTheInvariants := by
  obtain ⟨notices, quota, ports, table, queues⟩ := bounds_of_reset
  exact ⟨notices, quota, ports, table, queues, storeOk_reset⟩

/-! ## Formatting writes (R147, R148) -/

/-- An operation of the formatting ends with the outcome of its write (R147). -/
theorem finalOutcome_format {r : Request} {got : List Block} {out : TOutcome} (h : r.owner = .format) :
    finalOutcome r got out s = formatEnd out s := by
  unfold finalOutcome
  rw [h]

/-- A write before the anchor ends OK: the claim of the next write (R147). -/
theorem formatEnd_next {f : Formatting} (h : s.mnt.format = some f) (hf : f.step ≠ 6) :
    formatEnd .ok s = formatClaim { f with step := f.step + 1 } (release .internal 1 s) := by
  unfold formatEnd formatBuffers anchorStep
  simp only [h, if_true, if_neg hf]

/-- The anchor write ends OK (R147). -/
theorem formatEnd_anchor {f : Formatting} (h : s.mnt.format = some f) (hf : f.step = 6) :
    formatEnd .ok s = formatSucceeds f (release .internal 3 s) := by
  unfold formatEnd formatBuffers anchorStep
  simp only [h, if_true, if_pos hf]

/-- A formatting write that fails ends the SET_LAYOUT (R148). -/
theorem formatEnd_failed {f : Formatting} {out : TOutcome} (h : s.mnt.format = some f) (hne : out ≠ .ok) :
    formatEnd out s = answerPlain f.owed (if f.step = 6 then .anchorFault else .targetFault)
      (setFormat (fun _ => none) (release .internal (formatBuffers f.step) s)) := by
  unfold formatEnd
  simp only [h, if_neg hne]
  rfl

/-- A SET_LAYOUT that fails leaves the maps, the layout, the store and the journal (R148). -/
theorem formatEnd_failed_facts {f : Formatting} {out : TOutcome} (h : s.mnt.format = some f) (hne : out ≠ .ok) :
    (formatEnd out s).mnt.format = none ∧ (formatEnd out s).map = s.map ∧ (formatEnd out s).ov = s.ov ∧
      (formatEnd out s).jrn = s.jrn ∧
      ∀ p, f.owed = some p →
        (formatEnd out s).respondedWith p (if f.step = 6 then .anchorFault else .targetFault) 0 0 0 0 := by
  rw [formatEnd_failed h hne]
  unfold answerPlain
  refine ⟨by simp, by simp, by simp, by simp, fun p hp => ?_⟩
  rw [hp]
  exact respondedWith_answer ..

@[simp] theorem leaveBlank_jrn (s : State) : (leaveBlank s).jrn = s.jrn := by
  unfold leaveBlank
  split <;> rfl

@[simp] theorem leaveBlank_ov (s : State) : (leaveBlank s).ov = s.ov := by
  unfold leaveBlank
  split <;> rfl

@[simp] theorem leaveBlank_format (s : State) : (leaveBlank s).mnt.format = s.mnt.format := by
  unfold leaveBlank
  split <;> rfl

/-- The Map Unit after a SET_LAYOUT (R147). -/
def layoutMap (f : Formatting) (m : MapUnit) : MapUnit :=
  { m with layout := some f.layout, formatId := f.formatId, anchorGen := m.anchorGen + 1, anchorCopy := some m.olderCopy }

/-- A SET_LAYOUT that succeeds while no hand-off waits: the units it sets, the device state and the response (R147). -/
theorem formatSucceeds_facts {f : Formatting} (hw : s.jrn.waiting = []) :
    (formatSucceeds f s).map = layoutMap f s.map ∧ (formatSucceeds f s).ov = freshPool f.layout.slots ∧
      (formatSucceeds f s).jrn = freshJournal s.jrn ∧ (formatSucceeds f s).mnt.format = none ∧
      (s.mnt.dev = .blank → (formatSucceeds f s).mnt.dev = .ready) ∧
      ∀ p, f.owed = some p → (formatSucceeds f s).respondedWith p .doneOk (s.map.anchorGen + 1) 0 f.formatId 0 := by
  unfold formatSucceeds
  rw [hw, List.length_nil, dropWaiting]
  refine ⟨by simp [dropNewSlots, layoutMap], by simp [dropNewSlots], by simp [dropNewSlots], by simp [dropNewSlots],
    fun hb => ?_, fun p hp => ?_⟩
  · simp only [answer_frame]
    exact leaveBlank_dev hb
  · rw [hp]
    exact respondedWith_answer ..

/-- Settles O40: the writes before the anchor, the anchor write, and either that fails. -/
theorem formattingWritesEnd : Obligations.FormattingWritesEnd := by
  intro s tag done value detail o f h hown hop hf
  obtain ⟨hl, ho, hs, hc⟩ := h
  have htag : o.tag = tag := tag_of_op? ho
  have hok : exec (.targetStatus tag 0x00 done detail value) s = .next (formatEnd .ok (removeOp o.tag s)) :=
    (exec_status_ok hl ho hs hc).trans (congrArg _ (finalOutcome_format hown))
  refine ⟨fun hstep => ?_, fun hstep hw => ?_, ?_⟩
  · rw [hok, formatEnd_next (s := removeOp o.tag s) hf (by omega), htag]
    rfl
  · rw [hok, formatEnd_anchor (s := removeOp o.tag s) hf hstep]
    obtain ⟨hmap, hov, hjrn, hfmt, hdev, hresp⟩ :=
      formatSucceeds_facts (s := release .internal 3 (removeOp o.tag s)) (f := f) hw
    refine ⟨_, rfl, ?_⟩
    rw [hmap, hov, hjrn]
    exact ⟨rfl, rfl, rfl, rfl, rfl, hfmt, rfl, rfl, rfl, rfl, rfl, rfl, rfl, rfl, rfl, rfl, rfl, hdev, hresp⟩
  · obtain ⟨got, out, n, hne, e⟩ := exec_status_media done value detail hl ho hs (by simp [State.slotRead, hop])
    rw [e, finalOutcome_format hown]
    exact ⟨_, rfl, formatEnd_failed_facts (s := { removeOp o.tag s with free := n }) hf hne⟩

/-! ## STATUS of a read of the mount (R73, R83, R137) -/

/-- A media failure of a read of no slot is final at once; a free place may have been drawn for it (R83, R85). -/
theorem mediaEnd_read (done : Nat) (detail : Option Nat) (hop : o.req.op = .read) (h : s.slotRead o.req = false) :
    ∃ k n, mediaEnd o done detail s = finalOutcome o.req o.got (.media k) { s with free := n } := by
  unfold mediaEnd
  rw [if_neg (by simp [hop]), if_neg (by simp [h])]
  unfold failingPlace
  dsimp only
  split
  · exact ⟨_, s.free, rfl⟩
  · exact ⟨_, s.free + 1, rfl⟩

/-- A read of the mount reads no slot. -/
theorem slotRead_of_mount {r : Request} (h : r.owner = .mount) : s.slotRead r = false := by
  simp [State.slotRead, State.pieceSlot, h]

/-- The read of a stage has its final outcome while the link stands: its blocks when it is OK, and none otherwise (R137). -/
theorem finalOutcome_mountRead {r : Request} {got : List Block} {out : TOutcome} (h : r.owner = .mount)
    (hc : s.mnt.stage ≠ .clearing) (hr : out ≠ .reset) (hd : out ≠ .down) :
    finalOutcome r got out s =
      mountRead (if out = .ok then some got.flatten else none) (release .internal (mountBuffers s.mnt.stage) s) := by
  unfold finalOutcome
  rw [h]
  show mountEnd got out s = _
  unfold mountEnd
  cases out with
  | reset => exact absurd rfl hr
  | down => exact absurd rfl hd
  | ok | media k | fault => exact if_neg hc

/-- The state in which an operation of the mount is over: it has left the table and its buffers are given back; `n` names the
next free value. -/
def afterMountOp (o : TargetOp) (n : Nat) (s : State) : State :=
  release .internal (mountBuffers s.mnt.stage) { removeOp o.tag s with free := n }

/-- The pool once an operation of the mount is over and the mount has entered its next stage: the buffers of the one are given
back, and those of the next are claimed (R137). -/
theorem mountGo_pool {u : State} {stage : MountStage} {n : Nat} (h : u.pool = (afterMountOp o n s).pool)
    (hst : s.mnt.stage = stage) (next : MountStage) (k : Nat) : (mountGo next k u).pool = { s.pool with
      chargeI := s.pool.chargeI - mountBuffers stage, claimsI := s.pool.claimsI ++ [⟨.mount, k⟩] } := by
  subst hst
  unfold mountGo placeClaim
  rw [setMnt_pool, h]
  rfl

/-- STATUS OK of a read of the mount. -/
theorem exec_mountRead_ok (done value : Nat) (detail : Option Nat) (h : s.carriedOut tag o) (hown : o.req.owner = .mount)
    (hc : s.mnt.stage ≠ .clearing) : exec (.targetStatus tag 0x00 done detail value) s =
      .next (mountRead (some o.got.flatten) (afterMountOp o s.free s)) := by
  obtain ⟨hl, ho, hs, hcomplete⟩ := h
  rw [exec_status_ok hl ho hs hcomplete]
  exact congrArg _ (finalOutcome_mountRead (s := removeOp o.tag s) hown hc (by simp) (by simp))

/-- STATUS 0x06 or MEDIA_ERROR of a read of the mount: it has no blocks. -/
theorem exec_mountRead_failed {result : Nat} (done value : Nat) (detail : Option Nat) (h : s.carriedOut tag o)
    (hown : o.req.owner = .mount) (hop : o.req.op = .read) (hc : s.mnt.stage ≠ .clearing)
    (hres : result = 0x06 ∨ result = 0x0C) :
    ∃ n, exec (.targetStatus tag result done detail value) s = .next (mountRead none (afterMountOp o n s)) := by
  obtain ⟨hl, ho, hs, -⟩ := h
  have final : ∃ out n, out ≠ .ok ∧ out ≠ .reset ∧ out ≠ .down ∧ takeStatus tag result done detail value s =
      finalOutcome o.req o.got out { removeOp o.tag s with free := n } := by
    unfold takeStatus endOp
    simp only [hl, ho, hs, if_true]
    rcases hres with rfl | rfl
    · exact ⟨.fault, s.free, by simp, by simp, by simp, rfl⟩
    · obtain ⟨k, n, e⟩ := mediaEnd_read (s := removeOp o.tag s) done detail hop (slotRead_of_mount hown)
      exact ⟨.media k, n, by simp, by simp, by simp, e⟩
  obtain ⟨out, n, hne, hr, hd, e⟩ := final
  have hset := settleDown_finalOutcome (s := { removeOp o.tag s with free := n }) (r := o.req) (got := o.got) (out := out) hl
  have hend := finalOutcome_mountRead (s := { removeOp o.tag s with free := n }) (got := o.got) hown hc hr hd
  rw [if_neg hne] at hend
  exact ⟨n, congrArg _ ((congrArg settleDown e).trans (hset.trans hend))⟩

/-! ## The anchor stage (R139) -/

/-- What the read of copy 0 leaves as copy 0: the copy, when it is valid. -/
theorem noteCopy_first (capacity : Nat) (bytes : List Byte) (h : Holding) :
    (noteCopy 0 capacity bytes h).copy0 = (parseAnchor bytes).filter (anchorValid capacity) := by
  rfl

/-- The read of copy 1 leaves copy 0, and has copy 1 when it is valid. -/
theorem noteCopy_second (capacity : Nat) (bytes : List Byte) (h : Holding) :
    (noteCopy 1 capacity bytes h).copy0 = h.copy0 ∧
      (noteCopy 1 capacity bytes h).copy1 = (parseAnchor bytes).filter (anchorValid capacity) := by
  unfold noteCopy
  rw [if_neg Nat.one_ne_zero]
  split <;> exact ⟨rfl, rfl⟩

/-- The read of copy 0 ends: copy 1 is read next. -/
theorem mountRead_copy0 (bytes : List Byte) (h : s.mnt.stage = .anchor 0) :
    mountRead (some bytes) s = mountGo (.anchor 1) 3 (setHolding (noteCopy 0 s.capacity bytes) s) := by
  unfold mountRead
  simp only [h]
  rfl

/-- The choice between the copies after the read of copy 1 (R139). -/
def State.chosenWith (s : State) (bytes : List Byte) : Option (Nat × AnchorImage) :=
  chooseCopy s.mnt.holding.copy0 ((parseAnchor bytes).filter (anchorValid s.capacity))

theorem chooseCopy_noteCopy (bytes : List Byte) (s : State) :
    chooseCopy (noteCopy 1 s.capacity bytes s.mnt.holding).copy0 (noteCopy 1 s.capacity bytes s.mnt.holding).copy1 =
      s.chosenWith bytes := by
  obtain ⟨h0, h1⟩ := noteCopy_second s.capacity bytes s.mnt.holding
  rw [h0, h1, State.chosenWith]

/-- The read of copy 1 ends with no valid copy: the part is BLANK, with its maps as they were. -/
theorem mountRead_noCopy {bytes : List Byte} (h : s.mnt.stage = .anchor 1) (hc : s.chosenWith bytes = none) :
    (mountRead (some bytes) s).mnt.dev = .blank ∧ (mountRead (some bytes) s).mnt.stage = .idle ∧
      (mountRead (some bytes) s).map.active = s.map.active ∧ (mountRead (some bytes) s).map.layout = s.map.layout := by
  unfold mountRead
  simp [h, chooseCopy_noteCopy, hc]

/-- The holding once an anchor copy is chosen: that copy alone (R139). -/
def chosenOnly (c : Nat × AnchorImage) : Holding := { Holding.empty with chosen := some c }

/-- What a mount holds of a copy alone: nothing to tell of the journal, and nothing to repair. -/
@[simp] theorem chosenOnly_fields (c : Nat × AnchorImage) :
    (chosenOnly c).chosen = some c ∧ (chosenOnly c).layout = c.2.layout ∧ (chosenOnly c).lostOnly = 0 ∧
      (chosenOnly c).dropped = 0 ∧ (chosenOnly c).aheadCount = 0 ∧ (chosenOnly c).badClears = [] ∧
      (chosenOnly c).replayed = false := ⟨rfl, rfl, rfl, rfl, rfl, rfl, rfl⟩

/-- The copy chosen is held, and nothing else. -/
def holdCopy (c : Nat × AnchorImage) (s : State) : State := setHolding (fun _ => chosenOnly c) s

/-- The read of copy 1 ends with a copy chosen: the header in area A is read next when it has a layout, and the mount finishes
when it has none. -/
theorem mountRead_copy {bytes : List Byte} {c : Nat × AnchorImage} (h : s.mnt.stage = .anchor 1)
    (hc : s.chosenWith bytes = some c) : mountRead (some bytes) s =
      if c.2.layout.isSome then mountGo (.header .A) 1 (holdCopy c s) else mountFinish (holdCopy c s) := by
  unfold mountRead
  simp only [h, Option.getD_some, Nat.one_ne_zero, if_false, setHolding_mnt, chooseCopy_noteCopy, hc]
  rfl

/-! ## The end without a layout (R143, R144, R145) -/

/-- With nothing rebuilt the repair has nothing to do. -/
theorem repair_chosenOnly (c : Nat × AnchorImage) (m : RegionMap) : repair m (chosenOnly c) = chosenOnly c := rfl

/-- Without a layout no region is UNAVAILABLE at hand-over. -/
theorem handOverFlags_noLayout {h : Holding} (hl : h.layout = none) (m : RegionMap) :
    (handOverFlags h m).any id = false := by
  simp [handOverFlags, hl]

/-- Without a layout, and with nothing repaired, the finish starts no run. -/
theorem finishRun_noLayout {h : Holding} (hl : h.layout = none) (ho : h.lostOnly = 0) (hd : h.dropped = 0) (m : RegionMap) :
    finishRun h m s = false := by
  simp [finishRun, hl, ho, hd]

/-- A mount with no UNAVAILABLE region, nothing repaired and no replay is CLEAN. -/
theorem mountOutcome_clean {h : Holding} {flags : List Bool} (hf : flags.any id = false) (ho : h.lostOnly = 0)
    (hr : h.replayed = false) : mountOutcome h flags = .clean := by
  simp [mountOutcome, hf, ho, hr]

/-- The part once copy `k` of the anchor, which has no layout, is in force: the store, the journal and the maps are handed over
from that copy alone, and the part is READY. -/
def readyWithout (k : Nat) (a : AnchorImage) (s : State) : State :=
  let h := chosenOnly (k, a)
  setMnt (fun m => { m with dev := .ready, stage := .idle, holding := Holding.empty })
    (dropNewSlots { s with
      map := { s.map with active := a.map, layout := a.layout, formatId := a.formatId, anchorGen := a.gen,
                          anchorCopy := some k, unavailable := handOverFlags h a.map },
      ov := handOverPool h s.ov, jrn := handOverJournal h s.jrn })

/-- The mount of a copy without a layout finishes with MOUNT_RESULT CLEAN and no run. -/
theorem mountFinish_noLayout {k : Nat} {a : AnchorImage} (ha : a.layout = none) :
    mountFinish (holdCopy (k, a) s) = raise (.mountResult .clean none 0 0 0) none (readyWithout k a s) := by
  have hl : (chosenOnly (k, a)).layout = none := ha
  have hflags := handOverFlags_noLayout hl a.map
  have hclean := mountOutcome_clean (h := chosenOnly (k, a)) hflags rfl rfl
  unfold mountFinish holdCopy
  simp [repair_chosenOnly, hflags, hclean, ha, finishRun_noLayout hl, readyWithout, dropNewSlots, setMap, setHolding, setMnt]

/-- A copy without a layout in force: its map, generation and number, and an empty store. -/
theorem readyWithout_facts {k : Nat} {a : AnchorImage} (ha : a.layout = none) :
    (readyWithout k a s).mnt.dev = .ready ∧ (readyWithout k a s).mnt.stage = .idle ∧
      (readyWithout k a s).map.active = a.map ∧ (readyWithout k a s).map.layout = none ∧
      (readyWithout k a s).map.anchorGen = a.gen ∧ (readyWithout k a s).map.anchorCopy = some k ∧
      (readyWithout k a s).ov.table = [] ∧ (readyWithout k a s).ov.ring = [] ∧
      (readyWithout k a s).jrn.run = s.jrn.run := by
  have hs : (chosenOnly (k, a)).slots = 0 := by simp [Holding.slots, ha]
  refine ⟨rfl, rfl, rfl, ha, rfl, rfl, rfl, ?_, rfl⟩
  simp [readyWithout, dropNewSlots, handOverPool, hs]

/-! ## The checkpoint stage (R140) -/

/-- A header of area A that could not be read is no candidate: that of area B is read next. -/
theorem mountRead_headerA_failed (h : s.mnt.stage = .header .A) : mountRead none s = mountGo (.header .B) 1 s := by
  unfold mountRead
  simp only [h]
  rfl

/-! ## Replay (R141) -/

/-- A record changes neither the copy chosen nor the candidate loaded. -/
theorem applyRecord_loads (b : RecordBody) (h : Holding) :
    (applyRecord b h).chosen = h.chosen ∧ (applyRecord b h).loaded = h.loaded := by
  cases b <;> exact ⟨rfl, rfl⟩

theorem foldl_applyRecord_loads (recs : List RecordBody) (h : Holding) :
    (recs.foldl (fun x r => applyRecord r x) h).chosen = h.chosen ∧
      (recs.foldl (fun x r => applyRecord r x) h).loaded = h.loaded := by
  induction recs generalizing h with
  | nil => exact ⟨rfl, rfl⟩
  | cons b bs ih =>
    obtain ⟨hc, hl⟩ := applyRecord_loads b h
    obtain ⟨ihc, ihl⟩ := ih (applyRecord b h)
    exact ⟨ihc.trans hc, ihl.trans hl⟩

/-- The journal length of a holding is that of its chosen copy. -/
theorem journalLen_of_chosen {h k : Holding} (hc : k.chosen = h.chosen) : k.journalLen = h.journalLen := by
  unfold Holding.journalLen Holding.layout
  rw [hc]

/-- A block that meets every test of R141 is applied whole. -/
theorem replayBlock_applies {bytes : Block} {h k : Holding} {b : JBlock} (hb : parseJournal bytes = some b)
    (hf : b.formatId = h.formatId) (hq : b.seq = h.expected) (hr : b.recs.all (recordGood h.slots) = true)
    (hk : k = b.recs.foldl (fun x r => applyRecord r x) h) (hn : k.table.length ≤ 16384) :
    replayBlock bytes h = some { k with expected := h.expected + 1 } := by
  subst hk
  unfold replayBlock
  simp only [hb]
  rw [if_pos ⟨hf, hq, hr⟩]
  exact if_pos hn

/-- A block applied in replay: what it leaves is held, and replay goes on. -/
theorem mountRead_replay {bytes : List Byte} {k : Holding} (h : s.mnt.stage = .replay)
    (hk : replayBlock bytes s.mnt.holding = some k) :
    mountRead (some bytes) s = replayNext (setHolding (fun _ => k) s) := by
  unfold mountRead
  simp [h, hk]

/-- A read without a block that may be applied ends replay: the scan begins. -/
theorem mountRead_replay_ends {bytes : Option (List Byte)} (h : s.mnt.stage = .replay)
    (hk : (bytes.bind fun b => replayBlock b s.mnt.holding) = none) : mountRead bytes s = scanFrom 0 s := by
  unfold mountRead
  simp only [h, hk]

/-- While fewer than J blocks were read the next is read. -/
theorem replayNext_goes {c : Candidate} (h : s.mnt.holding.loaded = some c)
    (hj : s.mnt.holding.expected - c.header.start < s.mnt.holding.journalLen) :
    replayNext s = mountGo .replay 1 s := by
  unfold replayNext
  simp only [h]
  exact if_pos hj

/-- The scan begins while a position of it is left (R142). -/
theorem scanFrom_begins (h : 0 < s.mnt.holding.scanCount) : scanFrom 0 s = mountGo (.scan 0) 1 s := if_pos h

/-- Settles O39: the reads of the mount by their stage, the choice between the copies, and the two ends of a replay read. -/
theorem mountReadsEnd : Obligations.MountReadsEnd := by
  refine ⟨fun a b => ⟨rfl, rfl, rfl, rfl⟩, fun s tag done value detail o bytes h hown hop hbytes => ?_⟩
  subst hbytes
  have hok := exec_mountRead_ok done value detail h hown
  refine ⟨fun hst => ?_, fun hst b hb => ?_, fun hst => ?_, ?_⟩
  · rw [hok (by simp [hst]), mountRead_copy0 (s := afterMountOp o s.free s) _ hst]
    exact ⟨_, rfl, rfl, rfl, noteCopy_first .., mountGo_pool rfl hst (.anchor 1) 3⟩
  · subst hb
    rw [hok (by simp [hst])]
    refine ⟨fun hc => ?_, fun k a hc ha => ?_, fun k a hc ha => ?_⟩
    · exact ⟨_, rfl, mountRead_noCopy (s := afterMountOp o s.free s) hst hc⟩
    · rw [mountRead_copy (s := afterMountOp o s.free s) hst hc, if_pos ha]
      exact ⟨_, rfl, rfl, rfl, mountGo_pool rfl hst (.header .A) 1⟩
    · rw [mountRead_copy (s := afterMountOp o s.free s) hst hc, if_neg (by simp [ha]),
        mountFinish_noLayout (s := afterMountOp o s.free s) ha]
      obtain ⟨hdev, hstage, hmap, hlayout, hgen, hcopy, htable, hring, hrun⟩ :=
        readyWithout_facts (s := afterMountOp o s.free s) (k := k) ha
      exact ⟨_, rfl, hdev, hstage, hmap, hlayout, hgen, hcopy, htable, hring, hrun, rfl, rfl⟩
  · obtain ⟨n, e⟩ := exec_mountRead_failed done value detail h hown hop (by simp [hst]) (.inr rfl)
    rw [e, mountRead_headerA_failed (s := afterMountOp o n s) hst]
    exact ⟨_, rfl, rfl, rfl, mountGo_pool rfl hst (.header .B) 1⟩
  · rintro hst _ rfl
    refine ⟨fun b c k hb hf hq hr hk hn hl hj => ?_, fun hk hscan => ?_, fun result hres hscan => ?_⟩
    · obtain ⟨hchosen, hloaded⟩ := foldl_applyRecord_loads b.recs s.mnt.holding
      rw [← hk] at hchosen hloaded
      rw [hok (by simp [hst]), mountRead_replay (s := afterMountOp o s.free s) hst (replayBlock_applies hb hf hq hr hk hn),
        replayNext_goes (hloaded.trans hl) (hj.trans_eq (journalLen_of_chosen hchosen).symm)]
      exact ⟨_, rfl, rfl, rfl⟩
    · rw [hok (by simp [hst]), mountRead_replay_ends (bytes := some o.got.flatten) (s := afterMountOp o s.free s) hst hk,
        scanFrom_begins (s := afterMountOp o s.free s) hscan]
      exact ⟨_, rfl, rfl, rfl⟩
    · obtain ⟨n, e⟩ := exec_mountRead_failed done value detail h hown hop (by simp [hst]) hres
      rw [e, mountRead_replay_ends (s := afterMountOp o n s) hst rfl, scanFrom_begins (s := afterMountOp o n s) hscan]
      exact ⟨_, rfl, rfl, rfl⟩

end Sys2Proof.Machine
end

section
/-! SUPPORT. Frames that change nothing, and what a CMD or a GRANT does to an OPEN tag: it ends with PROTOCOL, or the GRANT is
counted, or a wind-down discards it. -/

namespace Sys2Proof.Machine

variable {s : State} {c : CmdId} {r : Record}

/-! ## Discarded frames (R151, R162) -/

/-- Bytes whose header check fails are a discarded frame, on either link (R151). -/
theorem decode_of_badHeader (p : Port) {bytes : List Byte} (h : headerGood bytes = false) :
    decodeHostFrame p bytes = .discardedFrame (.host p) bytes ∧ decodeTargetFrame bytes = .discardedFrame .target bytes := by
  unfold decodeHostFrame decodeTargetFrame
  simp only [h, Bool.false_eq_true, if_false, and_self]

theorem portUp_of_resetting {p : Port} (h : (s.hp p).condition = .resetting) : s.portUp p = false := by
  unfold State.portUp
  rw [h]
  rfl

/-- A port that is not UP takes no CMD (R162). -/
theorem acceptCmd_portDown {op : HostOp} {first count : Nat} {durable : Bool} (h : s.portUp c.port = false) :
    acceptCmd c op first count durable s = s := by
  unfold acceptCmd
  simp only [h, Bool.not_false, Bool.true_or, if_true]

/-- A port that is not UP takes no GRANT, DATA or STOP, and no further LINKRESET (R162). -/
theorem exec_portDown {p : Port} (h : s.portUp p = false) :
    (∀ tag count, exec (.grant p tag count) s = .next s) ∧
      (∀ tag index block check, exec (.data p tag index block check) s = .next s) ∧
      (∀ tag, exec (.stop p tag) s = .next s) ∧ exec (.linkreset p) s = .next s := by
  refine ⟨fun tag count => ?_, fun tag index block check => ?_, fun tag => ?_, ?_⟩
  all_goals
    show Host.Outcome.next _ = _
    simp only [h, Bool.false_and, Bool.not_false, Bool.true_or, Bool.false_eq_true, if_false, if_true]

/-- Settles O4: a frame already discarded, bytes with a bad header check, and every frame at a port that is not UP. -/
theorem discardedFramesChangeNothing : Obligations.DiscardedFramesChangeNothing := by
  refine ⟨fun _ _ _ => rfl, fun p _ h => decode_of_badHeader p h, fun p s hp => ?_⟩
  have hdown := portUp_of_resetting hp
  refine ⟨fun op tag first count durable => ?_, exec_portDown hdown⟩
  rw [exec_hostCommand, acceptCmd_portDown (c := ⟨p, tag⟩) hdown]

/-! ## A protocol error (R153, R155) -/

/-- A CMD on an OPEN tag of a port that is UP is a protocol error (R153). -/
theorem acceptCmd_open {op : HostOp} {first count : Nat} {durable : Bool} (hp : (s.hp c.port).condition = .up)
    (hc : c.tag < 16) (ho : (s.tag c).isOpen = true) : acceptCmd c op first count durable s = protocolError c s := by
  unfold acceptCmd
  simp only [not_discarded hp hc, ho, Bool.false_eq_true, if_false, if_true]

/-- At a port that is UP a protocol error sends STATUS PROTOCOL, and the tag is FREE (R155). -/
theorem protocolError_answers (hp : (s.hp c.port).condition = .up) :
    ((protocolError c s).tag c).isOpen = false ∧
      (protocolError c s).out c.port = s.out c.port ++ [s.statusFor c .protocol 0 none 0] :=
  protocolError_ends (by rw [hp]; simp)

/-- Without a deferred arrival it is the record of the tag that a protocol error cuts off (R155). -/
theorem protocolError_cutOff (hd : s.deferred? c = none) :
    protocolError c s = cutOff c (sendStatus c .protocol 0 none 0 s) := by
  unfold protocolError
  rw [hd]
  rfl

/-- A record that is WAITING, HELD or in JOURNAL_WAIT is gone after a protocol error (R155). -/
theorem protocolError_rec?_gone (hd : s.deferred? c = none) (hr : s.rec? c = some r)
    (hs : r.state = .waiting ∨ r.state = .held ∨ r.state = .journalWait) : (protocolError c s).rec? c = none := by
  rw [protocolError_cutOff hd, cutOff_leave ((rec?_sendStatus ..).trans hr) hs]
  exact leave_rec? ((deferred_congr c (by simp)).trans hd)

/-- An ACTIVE or STOPPING record with a piece still to reach its outcome is ORPHANED by a protocol error (R155). -/
theorem protocolError_rec?_orphaned (hd : s.deferred? c = none) (hr : s.rec? c = some r)
    (hs : r.state = .active ∨ r.state = .stopping) (hpend : r.plan.any Piece.isPending = true) :
    ∃ r', (protocolError c s).rec? c = some r' ∧ r'.state = .orphaned := by
  have hr' : (sendStatus c .protocol 0 none 0 s).rec? c = some r := (rec?_sendStatus ..).trans hr
  rw [protocolError_cutOff hd, cutOff_orphan hr' hs]
  exact orphanOrLeave_pending hr' hpend

/-- Settles O6: the CMD is a protocol error, which answers for the tag and cuts its record off by the record's state. -/
theorem cmdOnBusyTagEndsItProtocol : Obligations.CmdOnBusyTagEndsItProtocol := by
  intro op p tag first count durable s hp hc ho hd
  obtain ⟨hfree, hout⟩ := protocolError_answers (c := ⟨p, tag⟩) hp
  refine ⟨protocolError ⟨p, tag⟩ s, ?_, hfree, hout,
    fun r hr => ⟨protocolError_rec?_gone hd hr, protocolError_rec?_orphaned hd hr⟩⟩
  rw [exec_hostCommand, acceptCmd_open (c := ⟨p, tag⟩) hp hc ho]

/-! ## GRANT on an OPEN tag (R154) -/

/-- Nothing of a record that is not ACTIVE is delivered (R69). -/
theorem deliver_notActive (hr : s.rec? c = some r) (hs : r.state ≠ .active) : deliver c s = s := by
  have hblocks (n : Nat) : deliverBlocks n c s = s := by
    cases n with
    | zero => rfl
    | succ n =>
      unfold deliverBlocks
      simp only [hr, hs, false_and, and_false, if_false]
  unfold deliver deliveryCheck
  simp only [hblocks, hr, hs, false_and, and_false, if_false]

/-- A GRANT for a READ that is being wound down is discarded (R154). -/
theorem takeGrant_winding {k : Nat} (hd : s.deferred? c = none) (hr : s.rec? c = some r) (ho : r.op = .read)
    (hw : r.winding = true) : takeGrant c k s = s := by
  unfold takeGrant
  rw [named_of_rec? hd hr]
  simp only [windingDown_of_rec? hd hr, ho, hw, and_self, if_true]

/-- A GRANT for a command that is not a READ is a protocol error (R154). -/
theorem takeGrant_notRead {k : Nat} (hd : s.deferred? c = none) (hr : s.rec? c = some r) (ho : r.op ≠ .read) :
    takeGrant c k s = protocolError c s := by
  unfold takeGrant
  rw [named_of_rec? hd hr]
  simp only [ho, false_and, if_false, ne_eq, not_false_eq_true, if_true]

/-- A GRANT for a READ of no block or of more than 16, past the block count, or past the window of 64, is a protocol error
(R154). -/
theorem takeGrant_beyondLimits {k : Nat} (hd : s.deferred? c = none) (hr : s.rec? c = some r) (ho : r.op = .read)
    (hw : r.winding = false) (hk : k = 0 ∨ 16 < k ∨ r.count < (s.tag c).granted + k ∨
      64 < (s.tag c).granted + k - (s.tag c).moved) : takeGrant c k s = protocolError c s := by
  have hout : k = 0 ∨ Config.grantMax < k ∨ r.count < (s.tag c).granted + k ∨
      Config.grantWindow < (s.tag c).granted + k - (s.tag c).moved := hk
  unfold takeGrant
  rw [named_of_rec? hd hr]
  simp only [windingDown_of_rec? hd hr, ho, hw, hout, Bool.false_eq_true, and_false, if_false, ne_eq, not_true_eq_false,
    if_true]

/-- Settles O7: the GRANT is counted and delivers nothing yet, is discarded, or is a protocol error by its command or its
count. -/
theorem grantIsCountedOrEndsTheTag : Obligations.GrantIsCountedOrEndsTheTag := by
  intro p tag k s r hp hopen hd hr hl
  rw [exec_grant hp hopen hl]
  refine ⟨fun ho hw hs h1 h16 hcount hwin => ?_, fun ho hw => ?_, fun hbad => ?_⟩
  · have hidle : r.state ≠ .active := by
      obtain h | h := hs <;> simp [h]
    rw [takeGrant_counted hd hr ho hw h1 h16 hcount hwin, deliver_notActive ((rec?_setTag ..).trans hr) hidle]
  · rw [takeGrant_winding hd hr ho hw]
  · have herror : takeGrant ⟨p, tag⟩ k s = protocolError ⟨p, tag⟩ s := by
      by_cases ho : r.op = .read
      · obtain hne | ⟨hw, hk⟩ := hbad
        · exact absurd ho hne
        · exact takeGrant_beyondLimits hd hr ho hw hk
      · exact takeGrant_notRead hd hr ho
    exact ⟨_, congrArg _ herror, protocolError_answers (c := ⟨p, tag⟩) hp⟩

end Sys2Proof.Machine
end

section
/-! SUPPORT. The management window: a request block and its fields read back from the bytes, the five queries, and
ACK_NOTICES (R172 to R176, R180, R183, R185). -/

namespace Sys2Proof.Machine

variable {s : State} {p : Port} {q : BitVec 16}

/-! ## Numbers and their bytes (R183) -/

@[simp] theorem length_le (n v : Nat) : (le n v).length = n := by simp [le]

@[simp] theorem length_zeros (n : Nat) : (zeros n).length = n := List.length_replicate

theorem le_succ (n v : Nat) : le (n + 1) v = BitVec.ofNat 8 v :: le n (v / 256) := by
  simp [le, List.range_succ_eq_map, Nat.pow_succ', Nat.div_div_eq_div_mul]

/-- The bytes of a number spell it, when it fits them. -/
theorem leVal_le {n v : Nat} (h : v < 256 ^ n) : leVal (le n v) = v := by
  induction n generalizing v with
  | zero => exact (Nat.lt_one_iff.1 h).symm
  | succ n ih =>
    have hrest : v / 256 < 256 ^ n := Nat.div_lt_of_lt_mul (Nat.pow_succ' ▸ h)
    rw [le_succ, leVal, ih hrest, BitVec.toNat_ofNat]
    exact Nat.mod_add_div v 256

/-- A number at the front of some bytes reads back. -/
theorem field_le {n v : Nat} (rest : List Byte) (h : v < 256 ^ n) : field (le n v ++ rest) 0 n = v := by
  rw [field, List.drop_zero, List.take_left' (length_le n v), leVal_le h]

theorem field_byte {v : Nat} (rest : List Byte) (h : isByte v = true) : field (le 1 v ++ rest) 0 1 = v :=
  field_le rest (of_decide_eq_true h)

theorem field_half {v : Nat} (rest : List Byte) (h : isHalf v = true) : field (le 2 v ++ rest) 0 2 = v :=
  field_le rest (of_decide_eq_true h)

theorem field_address {v : Nat} (rest : List Byte) (h : isAddress v = true) : field (le 5 v ++ rest) 0 5 = v :=
  field_le rest (of_decide_eq_true h)

/-- A field behind some bytes is read from what follows them. -/
theorem field_append {a b : List Byte} {i n : Nat} (h : a.length ≤ i) : field (a ++ b) i n = field b (i - a.length) n := by
  rw [field, field, List.drop_append, List.drop_eq_nil_of_le h, List.nil_append]

/-! ## Parameters of more than one number (11.3, 11.5) -/

theorem bitOf_eq {n i : Nat} {b : Bool} (h : n / 2 ^ i % 2 = boolCode b) : bitOf n i = b := by
  rw [bitOf, h]
  cases b <;> rfl

theorem boolCode_le_one (b : Bool) : boolCode b ≤ 1 := by cases b <;> decide

/-- The byte of PUT_REGION that packs a policy code with the ports (11.5). -/
def policyByte (policy : Nat) (rp wp : PortSet) : Nat :=
  policy + 16 * boolCode rp.a + 32 * boolCode rp.b + 64 * boolCode wp.a + 128 * boolCode wp.b

/-- The byte of a policy code below 8 fits its byte and unpacks to that code and those ports. -/
theorem unpack_policyByte {policy : Nat} (rp wp : PortSet) (h : policy < 8) : isByte (policyByte policy rp wp) = true ∧
    policyByte policy rp wp % 8 = policy ∧ imagePorts (policyByte policy rp wp) = (rp, wp) := by
  have ha := boolCode_le_one rp.a
  have hb := boolCode_le_one rp.b
  have hc := boolCode_le_one wp.a
  have hd := boolCode_le_one wp.b
  have bits : bitOf (policyByte policy rp wp) 4 = rp.a ∧ bitOf (policyByte policy rp wp) 5 = rp.b ∧
      bitOf (policyByte policy rp wp) 6 = wp.a ∧ bitOf (policyByte policy rp wp) 7 = wp.b := by
    refine ⟨bitOf_eq ?_, bitOf_eq ?_, bitOf_eq ?_, bitOf_eq ?_⟩ <;> unfold policyByte <;> omega
  obtain ⟨h4, h5, h6, h7⟩ := bits
  refine ⟨?_, ?_, ?_⟩
  · exact decide_eq_true (by unfold policyByte; omega)
  · unfold policyByte
    omega
  · rw [imagePorts, h4, h5, h6, h7]

/-- A layout record reads back (R136). -/
theorem parseLayout_layoutRecord {l : Layout} (h : l.fits = true) : parseLayout (layoutRecord l) = l := by
  simp only [Layout.fits, Bool.and_eq_true] at h
  obtain ⟨⟨⟨⟨⟨⟨hbase, hslots⟩, hjournal⟩, hlen⟩, hckA⟩, hckB⟩, hlow⟩ := h
  simp [parseLayout, layoutRecord, field_append, field_half, field_address, hbase, hslots, hjournal, hlen, hckA, hckB, hlow]

theorem length_layoutRecord (l : Layout) : (layoutRecord l).length = 32 := by simp [layoutRecord]

/-! ## The request block (R169, R185) -/

/-- A request block with a sequence, a request code and the bytes of its parameters (11.5). -/
def requestWith (q : BitVec 16) (code : Nat) (par : List Byte) : Block :=
  padTo 512 (le 2 q.toNat ++ le 1 code ++ zeros 1 ++ par)

/-- The bytes of a request's parameters (11.5). -/
def MReq.parameters : MReq → List Byte
  | .putRegion index policy rp wp first count target =>
      le 1 index ++ (zeros 3 ++ (le 1 (policyByte policy rp wp) ++ (le 5 first ++ (le 5 count ++ le 5 target))))
  | .clearRegion index | .merge index | .discard index => le 1 index
  | .setCapacity n | .queryOverlay n => zeros 4 ++ le 5 n
  | .setLayout l => zeros 4 ++ layoutRecord l
  | .queryRegion index map => le 1 index ++ le 1 map
  | .queryRetired n => zeros 4 ++ le 2 n
  | .ackNotices n => zeros 4 ++ le 4 n.toNat
  | .stage | .unstage | .activate | .haltMerge | .checkpoint | .querySlots | .queryJournal | .unknown _ => []

theorem requestBlock_eq (q : BitVec 16) (r : MReq) : requestBlock q r = requestWith q r.code r.parameters := by
  cases r <;> rfl

theorem requestWith_eq (q : BitVec 16) (code : Nat) (par : List Byte) : requestWith q code par =
    le 2 q.toNat ++ (le 1 code ++ (zeros 1 ++ (par ++ zeros (508 - par.length)))) := by
  have hpad : 512 - (le 2 q.toNat ++ le 1 code ++ zeros 1 ++ par).length = 508 - par.length := by
    simp only [List.length_append, length_le, length_zeros]
    omega
  rw [requestWith, padTo, hpad]
  simp only [List.append_assoc]

@[simp] theorem seq_requestWith (q : BitVec 16) (code : Nat) (par : List Byte) :
    BitVec.ofNat 16 (field (requestWith q code par) 0 2) = q := by
  rw [requestWith_eq, field_le _ q.isLt, BitVec.ofNat_toNat, BitVec.setWidth_eq]

theorem code_requestWith {code : Nat} (q : BitVec 16) (par : List Byte) (h : code < 256) :
    field (requestWith q code par) 2 1 = code := by
  rw [requestWith_eq, field_append (length_le ..).le, length_le]
  exact field_le _ h

@[simp] theorem drop_requestWith (q : BitVec 16) (code : Nat) (par : List Byte) :
    (requestWith q code par).drop 4 = par ++ zeros (508 - par.length) := by
  rw [requestWith_eq, ← List.append_assoc, ← List.append_assoc]
  exact List.drop_left' (by simp)

/-- A code outside the catalogue is that of an unknown request (R170). -/
theorem parseRequest_unknown {b : Block} (h : field b 2 1 ∉ requestCodes) :
    (parseRequest b).2 = .unknown (field b 2 1) := by
  unfold parseRequest
  dsimp only
  generalize field b 2 1 = c at h ⊢
  split
  case h_18 => rfl
  all_goals exact absurd (by decide) h

/-- Settles O56: the sequence and the code read back from every request block, and behind them each request's own fields. -/
theorem requestBlocksReadBackAsWritten : Obligations.RequestBlocksReadBackAsWritten := by
  intro q r hf
  rw [requestBlock_eq]
  cases r with
  | stage | unstage | activate | haltMerge | checkpoint | querySlots | queryJournal =>
    simp [parseRequest, code_requestWith, MReq.code]
  | putRegion index policy rp wp first count target =>
    simp only [MReq.fits, Bool.and_eq_true, decide_eq_true_eq] at hf
    obtain ⟨⟨⟨⟨hindex, hpolicy⟩, hfirst⟩, hcount⟩, htarget⟩ := hf
    obtain ⟨hbyte, hcode, hports⟩ := unpack_policyByte rp wp hpolicy
    simp [parseRequest, code_requestWith, MReq.code, MReq.parameters, field_append, field_byte, field_address, hindex,
      hbyte, hcode, hports, hfirst, hcount, htarget]
  | clearRegion index | merge index | discard index =>
    have hindex : isByte index = true := hf
    simp [parseRequest, code_requestWith, MReq.code, MReq.parameters, field_byte, hindex]
  | setCapacity n | queryOverlay n =>
    have hn : isAddress n = true := hf
    simp [parseRequest, code_requestWith, MReq.code, MReq.parameters, field_append, field_address, hn]
  | setLayout l =>
    have hl : l.fits = true := hf
    have hrecord (rest : List Byte) : (layoutRecord l ++ rest).take 32 = layoutRecord l :=
      List.take_left' (length_layoutRecord l)
    simp [parseRequest, code_requestWith, MReq.code, MReq.parameters, hrecord, parseLayout_layoutRecord hl]
  | queryRegion index map =>
    obtain ⟨hindex, hmap⟩ := Bool.and_eq_true_iff.1 hf
    simp [parseRequest, code_requestWith, MReq.code, MReq.parameters, field_append, field_byte, hindex, hmap]
  | queryRetired n =>
    have hn : isHalf n = true := hf
    simp [parseRequest, code_requestWith, MReq.code, MReq.parameters, field_append, field_half, hn]
  | ackNotices n =>
    have hn (rest : List Byte) : field (le 4 n.toNat ++ rest) 0 4 = n.toNat := field_le rest n.isLt
    simp [parseRequest, code_requestWith, MReq.code, MReq.parameters, field_append, hn]
  | unknown code =>
    obtain ⟨hbyte, hnone⟩ := Bool.and_eq_true_iff.1 hf
    have hcode : field (requestWith q code []) 2 1 = code := code_requestWith q [] (of_decide_eq_true hbyte)
    have hread := parseRequest_unknown (b := requestWith q code []) (hcode.symm ▸ by simpa using hnone)
    exact Prod.ext (seq_requestWith ..) (hread.trans (congrArg MReq.unknown hcode))

/-! ## Queries (R173 to R176) -/

/-- What the queries report of the state is the same while a request is in progress. -/
@[simp] theorem reports_inProgressFor (s : State) (p : Port) (q : BitVec 16) (code : Nat) :
    (s.inProgressFor p q code).holderCode = s.holderCode ∧
    (s.inProgressFor p q code).runtimeItem = s.runtimeItem ∧
    (s.inProgressFor p q code).slotsItem = s.slotsItem ∧
    (s.inProgressFor p q code).journalItem = s.journalItem ∧
    (s.inProgressFor p q code).mergeItem = s.mergeItem ∧
    (s.inProgressFor p q code).layoutSet = s.layoutSet := by
  have hlay : (s.inProgressFor p q code).layoutSet = s.layoutSet := by simp [State.layoutSet]
  have hlow : (s.inProgressFor p q code).lowWater = s.lowWater := by simp [State.lowWater]
  have hlen : (s.inProgressFor p q code).journalLen = s.journalLen := by simp [State.journalLen]
  refine ⟨?_, ?_, ?_, ?_, ?_, hlay⟩
  · simp only [State.holderCode, inProgressFor_units]
  · funext i
    simp only [State.runtimeItem, State.entryCount, State.viewOf, hlay, policyOf_inProgressFor, inProgressFor_units]
  · simp only [State.slotsItem, State.reservedSlots, State.boundSlots, hlay, hlow, inProgressFor_units]
  · simp only [State.journalItem, hlay, hlen, inProgressFor_units]
  · simp only [State.mergeItem, inProgressFor_units]

/-- The map a QUERY_REGION selects: 0 the active one, 1 the staging map of the port (R173). -/
def State.selectedMap (s : State) (p : Port) (map : Nat) : Option RegionMap :=
  if map = 0 then some s.map.active else s.stagedBy p

@[simp] theorem selectedMap_inProgressFor (s : State) (p p' : Port) (q : BitVec 16) (code map : Nat) :
    (s.inProgressFor p q code).selectedMap p' map = s.selectedMap p' map := by
  simp [State.selectedMap]

/-- A QUERY_REGION with an index or a map selector that names nothing. -/
theorem reqQueryRegion_badParameter {index map : Nat} (h : 31 < index ∨ 1 < map) :
    reqQueryRegion p index map s = answerPlain (some p) .badParameter s := if_pos h

/-- A QUERY_REGION of a staged entry without the stage claim. -/
theorem reqQueryRegion_noStage {index map : Nat} (hi : index ≤ 31) (hm : map ≤ 1) (h : s.selectedMap p map = none) :
    reqQueryRegion p index map s = answerPlain (some p) .noStage s := by
  unfold State.selectedMap at h
  unfold reqQueryRegion
  rw [if_neg (by omega), h]

/-- A QUERY_REGION of an entry of the map it selects. -/
theorem reqQueryRegion_entry {index map : Nat} {m : RegionMap} (hi : index ≤ 31) (hm : map ≤ 1)
    (h : s.selectedMap p map = some m) : reqQueryRegion p index map s =
      answer (some p) .doneOk m.cap 0 (boolCode s.map.hold + 2 * boolCode s.map.activation.isSome) s.holderCode
        [regionImage (m.region index), s.runtimeItem index] s := by
  unfold State.selectedMap at h
  unfold reqQueryRegion
  rw [if_neg (by omega), h]

/-- An accepted QUERY_REGION of an entry of the map it selects is answered with the entry and the runtime state. -/
theorem exec_queryRegion_entry {index map : Nat} {m : RegionMap} (h : s.accepts p q) (hi : index ≤ 31) (hm : map ≤ 1)
    (hsel : s.selectedMap p map = some m) : exec (.queryRegion p q index map) s = .next (s.answered p q 0x30 .doneOk m.cap 0
      (boolCode s.map.hold + 2 * boolCode s.map.activation.isSome) s.holderCode
      [regionImage (m.region index), s.runtimeItem index]) := by
  have hreq := reqQueryRegion_entry (p := p) (s := s.inProgressFor p q 0x30) hi hm (by simpa using hsel)
  simp only [reports_inProgressFor, inProgressFor_units] at hreq
  exact exec_answered (r := .queryRegion index map) h rfl hreq

/-- A QUERY_OVERLAY from a grain of the grain space: the entries found, in the order of the table (R174). -/
theorem reqQueryOverlay_found {grain : Nat} (h : grain < 2 ^ 37) : ∃ n1, reqQueryOverlay p grain s =
    answer (some p) .doneOk n1 0 s.ov.table.length
      (boolCode (decide (30 < (s.ov.table.filter fun e => decide (grain ≤ e.grain)).length)))
      (((s.ov.table.filter fun e => decide (grain ≤ e.grain)).take 30).map fun e =>
        entryImage e.state.code e.region e.grain e.present e.lost e.slot) s :=
  ⟨_, if_neg (Nat.not_le.2 h)⟩

/-- A QUERY_RETIRED from an index of the slot space: the slots retired from there on (R175). -/
theorem reqQueryRetired_found {start : Nat} (h : start ≤ 16384) : ∃ n1, reqQueryRetired p start s =
    answer (some p) .doneOk n1 0 s.ov.retired.length (boolCode (decide (start + 30 < s.ov.retired.length)))
      (((s.ov.retired.drop start).take 30).map fun n => padTo 16 (le 2 n)) s := by
  have hmore : (30 < (s.ov.retired.drop start).length) = (start + 30 < s.ov.retired.length) := by
    rw [List.length_drop, Nat.lt_sub_iff_add_lt']
  simp only [← hmore]
  exact ⟨_, if_neg (Nat.not_lt.2 h)⟩

/-- Settles O51: each query by its parameter, from what it reports of the state. -/
theorem queriesAnswerAndChangeNothingElse : Obligations.QueriesAnswerAndChangeNothingElse := by
  intro p q s h
  refine ⟨fun index map hb => ?_, fun index hi => ?_, fun index hi hs => ?_, fun index m hi hs => ?_, fun grain hg => ?_,
    fun grain hg => ?_, ?_, fun start hb => ?_, fun start hb => ?_, ?_⟩
  · exact exec_answered (r := .queryRegion index map) h rfl (reqQueryRegion_badParameter hb)
  · exact exec_queryRegion_entry h hi (Nat.zero_le 1) rfl
  · exact exec_answered (r := .queryRegion index 1) h rfl
      (reqQueryRegion_noStage hi le_rfl ((selectedMap_inProgressFor ..).trans (stagedBy_none hs)))
  · exact exec_queryRegion_entry h hi le_rfl (stagedBy_some hs)
  · exact exec_answered (r := .queryOverlay grain) h rfl (if_pos hg)
  · obtain ⟨n1, hreq⟩ := reqQueryOverlay_found (p := p) (s := s.inProgressFor p q 0x31) hg
    simp only [inProgressFor_units] at hreq
    exact ⟨n1, exec_answered (r := .queryOverlay grain) h rfl hreq⟩
  · have hreq : reqQuerySlots p (s.inProgressFor p q 0x32) =
        answer (some p) .doneOk 0 0 0 0 [s.slotsItem] (s.inProgressFor p q 0x32) := by
      simp only [reqQuerySlots, reports_inProgressFor]
    exact exec_answered (r := .querySlots) h rfl hreq
  · exact exec_answered (r := .queryRetired start) h rfl (if_pos hb)
  · obtain ⟨n1, hreq⟩ := reqQueryRetired_found (p := p) (s := s.inProgressFor p q 0x33) hb
    simp only [inProgressFor_units] at hreq
    exact ⟨n1, exec_answered (r := .queryRetired start) h rfl hreq⟩
  · have hreq : reqQueryJournal p (s.inProgressFor p q 0x34) = answer (some p) .doneOk
        (if s.layoutSet then s.jrn.sCk else ones 8) (if s.layoutSet then s.jrn.newestGen else ones 8)
        (boolCode (decide (s.jrn.cond = .fault))) s.mrg.state.code [s.journalItem, s.mergeItem]
        (s.inProgressFor p q 0x34) := by
      simp only [reqQueryJournal, reports_inProgressFor, inProgressFor_units]
    exact ⟨_, _, exec_answered (r := .queryJournal) h rfl hreq⟩

/-! ## ACK_NOTICES (R180) -/

/-- The entries an ACK_NOTICES leaves: those whose number is not at or before its own, modulo 2^32 (R180). -/
theorem ackQueue_notices (n : BitVec 32) (m : PortMgmt) :
    (ackQueue n m).notices = m.notices.filter fun e => decide (¬ (n - e.number).toNat < 2 ^ 31) :=
  List.filter_congr fun _ _ => decide_not.symm

/-- ACK_NOTICES changes its port's queue and incomplete flag alone. -/
theorem ackQueue_eq (n : BitVec 32) (m : PortMgmt) : ackQueue n m =
    { m with notices := (ackQueue n m).notices, incomplete := m.incomplete && !(ackQueue n m).notices.isEmpty } := rfl

/-- An ACK_NOTICES in progress is answered with the entries removed and left, on the queue of its port (R180). -/
theorem reqAckNotices_inProgressFor (n : BitVec 32) (s : State) (p : Port) (q : BitVec 16) (code : Nat) :
    reqAckNotices p n (s.inProgressFor p q code) = State.answered (s.setMg p (ackQueue n (s.mg p))) p q code .doneOk 0 0
      ((s.mg p).notices.length - (ackQueue n (s.mg p)).notices.length) (ackQueue n (s.mg p)).notices.length [] := by
  unfold reqAckNotices answer State.inProgressFor State.answered ackQueue
  simp

/-- Settles O52: the queue left by ACK_NOTICES, and the answer that counts it. -/
theorem ackNoticesTrimsOneQueue : Obligations.AckNoticesTrimsOneQueue := by
  intro p q n s h
  rw [exec_taken (r := .ackNotices n) h rfl (reqAckNotices_inProgressFor n s p q _), ackQueue_eq, ackQueue_notices]
  rfl

end Sys2Proof.Machine
end

section
/-! SUPPORT. Frames read back from their bytes: the header that every frame begins with, the fields of each kind behind it, and
what either port decodes it to (11.1, R150, R183, R184). -/

namespace Sys2Proof.Machine

/-! ## The bytes of a frame behind its kind and tag (11.1) -/

/-- A frame of a kind and tag: the rest of its header, closed by the header check, and the payload that follows (11.1). -/
def framed (kind tag : Nat) (body payload : List Byte) : List Byte :=
  closeFrame (le 1 kind ++ (le 1 tag ++ body)) ++ payload

theorem cmdFrame_eq (tag code first count : Nat) (durable : Bool) : cmdFrame tag code first count durable =
    framed kindCmd tag (le 1 code ++ (le 1 (if durable then 1 else 0) ++ (le 5 first ++ (le 2 count ++ zeros 3)))) [] := by
  simp only [cmdFrame, framed, List.append_assoc, List.append_nil]

theorem grantFrame_eq (tag count : Nat) : grantFrame tag count = framed kindGrant tag (le 1 count ++ zeros 3) [] := by
  simp only [grantFrame, framed, List.append_assoc, List.append_nil]

theorem dataFrame_eq (tag index : Nat) (block : Block) (check : BitVec 32) : dataFrame tag index block check =
    framed kindData tag (le 2 index ++ zeros 2) (block ++ le 4 check.toNat) := by
  simp only [dataFrame, framed, List.append_assoc]

theorem statusFrame_eq (tag result done : Nat) (detail : Option Nat) (value : Nat) (attention : Bool) :
    statusFrame tag result done detail value attention = framed kindStatus tag (le 1 result ++
      (le 1 ((if attention then 1 else 0) + (if detail.isSome then 2 else 0)) ++ (le 2 done ++
        (le 5 (detail.getD 0) ++ (le 5 value ++ zeros 2))))) [] := by
  simp only [statusFrame, framed, List.append_assoc, List.append_nil]

theorem shortFrame_eq (kind tag : Nat) : shortFrame kind tag = framed kind tag [] [] := by
  simp only [shortFrame, framed, List.append_nil]

/-! ## What every frame holds (R183, R184) -/

section
variable {kind tag : Nat} {body payload : List Byte}

@[simp] theorem length_headerCheckBytes (bytes : List Byte) : (headerCheckBytes bytes).length = 2 := length_le ..

theorem framed_append : framed kind tag body payload = le 1 kind ++ (le 1 tag ++
    (body ++ (headerCheckBytes (le 1 kind ++ (le 1 tag ++ body)) ++ payload))) := by
  simp only [framed, closeFrame, List.append_assoc]

theorem kind_framed (h : kind < 256) : field (framed kind tag body payload) 0 1 = kind := by
  rw [framed_append, field_le _ h]

theorem tag_framed (h : isByte tag = true) : field (framed kind tag body payload) 1 1 = tag := by
  rw [framed_append, field_append (length_le ..).le, length_le]
  exact field_byte _ h

/-- A field behind the tag is read from the rest of the frame. -/
theorem field_framed {i n : Nat} (h : 2 ≤ i) : field (framed kind tag body payload) i n =
    field (body ++ (headerCheckBytes (le 1 kind ++ (le 1 tag ++ body)) ++ payload)) (i - 2) n := by
  rw [framed_append, ← List.append_assoc, field_append (by simpa using h)]
  simp

/-- The payload stands behind the header and its check. -/
theorem drop_framed : (framed kind tag body payload).drop (body.length + 4) = payload :=
  List.drop_left' (by simp only [closeFrame, List.length_append, length_le, length_headerCheckBytes]; omega)

/-- A frame of the length of its kind, its header check where the kind has it, passes the check (R184). -/
theorem headerGood_framed (hk : kind < 256)
    (hshape : frameShape kind = some (body.length + payload.length + 4, body.length + 2)) :
    headerGood (framed kind tag body payload) = true := by
  have hlen : (framed kind tag body payload).length = body.length + payload.length + 4 := by
    simp only [framed_append, List.length_append, length_le, length_headerCheckBytes]
    omega
  have hchecked : (framed kind tag body payload).take (body.length + 2) = le 1 kind ++ (le 1 tag ++ body) := by
    rw [framed, closeFrame, List.append_assoc]
    exact List.take_left' (by simp only [List.length_append, length_le]; omega)
  have hcheck : field (framed kind tag body payload) (body.length + 2) 2 =
      (headerCheck (le 1 kind ++ (le 1 tag ++ body))).toNat := by
    rw [field_framed (Nat.le_add_left ..), Nat.add_sub_cancel, field_append le_rfl, Nat.sub_self]
    exact field_le _ (headerCheck _).isLt
  simp only [headerGood, kind_framed hk, hshape, hlen, hchecked, hcheck, decide_true, Bool.and_self]

end

/-! ## DATA, which either link carries -/

section
variable {tag index : Nat} {block : Block} {check : BitVec 32}

/-- A DATA frame of one block passes the header check. -/
theorem headerGood_dataFrame (hblock : block.length = 512) : headerGood (dataFrame tag index block check) = true := by
  rw [dataFrame_eq]
  exact headerGood_framed (by decide) (by simp [frameShape, kindData, hblock])

theorem kind_dataFrame : field (dataFrame tag index block check) 0 1 = 3 := by
  rw [dataFrame_eq]
  exact kind_framed (by decide)

theorem tag_dataFrame (htag : isByte tag = true) : field (dataFrame tag index block check) 1 1 = tag := by
  rw [dataFrame_eq, tag_framed htag]

theorem index_dataFrame (hindex : isHalf index = true) : field (dataFrame tag index block check) 2 2 = index := by
  rw [dataFrame_eq, field_framed le_rfl, List.append_assoc]
  exact field_half _ hindex

theorem drop_dataFrame : (dataFrame tag index block check).drop 8 = block ++ le 4 check.toNat := by
  have hbody : (le 2 index ++ zeros 2).length + 4 = 8 := by simp
  rw [dataFrame_eq, ← hbody, drop_framed]

theorem block_dataFrame (hblock : block.length = 512) : ((dataFrame tag index block check).drop 8).take 512 = block := by
  rw [drop_dataFrame, List.take_left' hblock]

theorem check_dataFrame (hblock : block.length = 512) :
    BitVec.ofNat 32 (field (dataFrame tag index block check) 520 4) = check := by
  have hfield : field (dataFrame tag index block check) 520 4 = field (le 4 check.toNat ++ []) 0 4 := by
    rw [field, show 520 = 8 + block.length by rw [hblock], ← List.drop_drop, drop_dataFrame, List.drop_left,
      List.append_nil, field, List.drop_zero]
  rw [hfield, field_le _ check.isLt, BitVec.ofNat_toNat, BitVec.setWidth_eq]

end

/-! ## What a host port reads (R151, R154, R158, R162) -/

theorem isByte_of_hostTag {tag : Nat} (h : tag < Config.hostTags) : isByte tag = true :=
  decide_eq_true (h.trans (by decide))

/-- A CMD frame is read by its operation code, with its tag, range and durable flag (11.1). -/
theorem decodeHostFrame_cmdFrame {tag code first count : Nat} (p : Port) (durable : Bool)
    (hfits : cmdFits tag first count = true) (hcode : isByte code = true) :
    decodeHostFrame p (cmdFrame tag code first count durable) = cmdOf p tag code first count durable := by
  simp only [cmdFits, Bool.and_eq_true, decide_eq_true_eq] at hfits
  obtain ⟨⟨htag, hfirst⟩, hcount⟩ := hfits
  have hflag : isByte (if durable then 1 else 0) = true := by cases durable <;> rfl
  have hdurable : decide ((if durable then 1 else 0) % 2 = 1) = durable := by cases durable <;> rfl
  rw [cmdFrame_eq]
  simp [decodeHostFrame, headerGood_framed, kind_framed, tag_framed, field_framed, field_append, field_byte, field_half,
    field_address, isByte_of_hostTag, frameShape, kindCmd, htag, hfirst, hcount, hcode, hflag, hdurable]

theorem decodeHostFrame_grantFrame {tag count : Nat} (p : Port) (htag : tag < Config.hostTags)
    (hcount : isByte count = true) : decodeHostFrame p (grantFrame tag count) = .grant p tag count := by
  rw [grantFrame_eq]
  simp [decodeHostFrame, headerGood_framed, kind_framed, tag_framed, field_framed, field_byte, isByte_of_hostTag, frameShape,
    kindGrant, htag, hcount]

theorem decodeHostFrame_dataFrame {tag index : Nat} {block : Block} (p : Port) (check : BitVec 32)
    (htag : tag < Config.hostTags) (hindex : isHalf index = true) (hblock : block.length = 512) :
    decodeHostFrame p (dataFrame tag index block check) = .data p tag index block check := by
  simp only [decodeHostFrame, headerGood_dataFrame hblock, kind_dataFrame, tag_dataFrame (isByte_of_hostTag htag), htag,
    index_dataFrame hindex, block_dataFrame hblock, check_dataFrame hblock, if_true]

theorem decodeHostFrame_stop {tag : Nat} (p : Port) (htag : tag < Config.hostTags) :
    decodeHostFrame p (shortFrame kindStop tag) = .stop p tag := by
  rw [shortFrame_eq]
  simp [decodeHostFrame, headerGood_framed, kind_framed, tag_framed, isByte_of_hostTag, frameShape, kindStop, htag]

theorem decodeHostFrame_linkreset (p : Port) (tag : Nat) :
    decodeHostFrame p (shortFrame kindLinkreset tag) = .linkreset p := by
  rw [shortFrame_eq]
  simp [decodeHostFrame, headerGood_framed, kind_framed, frameShape, kindLinkreset]

/-- A code outside the four operations is an unknown operation (R44). -/
theorem cmdOf_unknown {tag code first count : Nat} {durable : Bool} (p : Port) (h : knownOperation code = false) :
    cmdOf p tag code first count durable = .unknownOperation p tag code first count durable := by
  unfold cmdOf
  split
  case h_5 => rfl
  all_goals exact absurd h (by decide)

/-! ## What the target port reads (R165) -/

theorem decodeTargetFrame_grantFrame {tag count : Nat} (htag : isByte tag = true) (hcount : isByte count = true) :
    decodeTargetFrame (grantFrame tag count) = .targetGrant tag count := by
  rw [grantFrame_eq]
  simp [decodeTargetFrame, headerGood_framed, kind_framed, tag_framed, field_framed, field_byte, frameShape, kindGrant, htag,
    hcount]

theorem decodeTargetFrame_dataFrame {tag index : Nat} {block : Block} (check : BitVec 32) (htag : isByte tag = true)
    (hindex : isHalf index = true) (hblock : block.length = 512) :
    decodeTargetFrame (dataFrame tag index block check) = .targetData tag index block check := by
  simp only [decodeTargetFrame, headerGood_dataFrame hblock, kind_dataFrame, tag_dataFrame htag, index_dataFrame hindex,
    block_dataFrame hblock, check_dataFrame hblock, if_true]

theorem decodeTargetFrame_resetDone (tag : Nat) : decodeTargetFrame (shortFrame kindResetDone tag) = .targetResetDone := by
  rw [shortFrame_eq]
  simp [decodeTargetFrame, headerGood_framed, kind_framed, frameShape, kindResetDone]

/-- A STATUS frame is read with its detail address where bit 1 of its flags says there is one (11.1). -/
theorem decodeTargetFrame_statusFrame {tag result done value : Nat} {detail : Option Nat} (htag : isByte tag = true)
    (hresult : isByte result = true) (hdone : isHalf done = true) (hdetail : detail.all isAddress = true)
    (hvalue : isAddress value = true) : decodeTargetFrame (statusFrame tag result done detail value false) =
      .targetStatus tag result done detail value := by
  have hflags : isByte (if detail.isSome then 2 else 0) = true := by cases detail <;> rfl
  have haddress : isAddress (detail.getD 0) = true := by
    cases detail with
    | none => rfl
    | some a => exact hdetail
  have hread : (if (if detail.isSome then 2 else 0) / 2 % 2 = 1 then some (detail.getD 0) else none) = detail := by
    cases detail with
    | none => rfl
    | some a => simp
  rw [statusFrame_eq]
  simp [decodeTargetFrame, headerGood_framed, kind_framed, tag_framed, field_framed, field_append, field_byte, field_half,
    field_address, frameShape, kindStatus, htag, hresult, hdone, hflags, haddress, hvalue, hread]

/-! ## The statement -/

/-- Every frame of a host reads back at its port (R150, R183). -/
theorem decodeHostFrame_encodeHostFrame {i : Instr} {p : Port} {bytes : List Byte} (hfits : i.wellFormed = true)
    (hp : i.hostPort? = some p) (hbytes : encodeHostFrame i = some bytes) : decodeHostFrame p bytes = i := by
  cases i with
  | read | write | flush | size =>
    cases hp
    cases hbytes
    exact decodeHostFrame_cmdFrame _ _ hfits rfl
  | unknownOperation =>
    cases hp
    cases hbytes
    simp only [Instr.wellFormed, Bool.and_eq_true, Bool.not_eq_true'] at hfits
    obtain ⟨⟨hcmd, hcode⟩, hunknown⟩ := hfits
    rw [decodeHostFrame_cmdFrame _ _ hcmd hcode, cmdOf_unknown _ hunknown]
  | grant =>
    cases hp
    cases hbytes
    simp only [Instr.wellFormed, Bool.and_eq_true, decide_eq_true_eq] at hfits
    obtain ⟨htag, hcount⟩ := hfits
    exact decodeHostFrame_grantFrame _ htag hcount
  | data =>
    cases hp
    cases hbytes
    simp only [Instr.wellFormed, Bool.and_eq_true, decide_eq_true_eq] at hfits
    obtain ⟨⟨htag, hindex⟩, hblock⟩ := hfits
    exact decodeHostFrame_dataFrame _ _ htag hindex hblock
  | stop =>
    cases hp
    cases hbytes
    exact decodeHostFrame_stop _ (of_decide_eq_true hfits)
  | linkreset =>
    cases hp
    cases hbytes
    exact decodeHostFrame_linkreset _ 0
  | _ => cases hbytes

/-- Every frame of the target reads back at the target port (R165, R183). -/
theorem decodeTargetFrame_encodeTargetFrame {i : Instr} {bytes : List Byte} (hfits : i.wellFormed = true)
    (hbytes : encodeTargetFrame i = some bytes) : decodeTargetFrame bytes = i := by
  cases i with
  | targetStatus =>
    cases hbytes
    simp only [Instr.wellFormed, Bool.and_eq_true] at hfits
    obtain ⟨⟨⟨⟨htag, hresult⟩, hdone⟩, hdetail⟩, hvalue⟩ := hfits
    exact decodeTargetFrame_statusFrame htag hresult hdone hdetail hvalue
  | targetGrant =>
    cases hbytes
    obtain ⟨htag, hcount⟩ := Bool.and_eq_true_iff.1 hfits
    exact decodeTargetFrame_grantFrame htag hcount
  | targetData =>
    cases hbytes
    simp only [Instr.wellFormed, Bool.and_eq_true, decide_eq_true_eq] at hfits
    obtain ⟨⟨htag, hindex⟩, hblock⟩ := hfits
    exact decodeTargetFrame_dataFrame _ htag hindex hblock
  | targetResetDone =>
    cases hbytes
    exact decodeTargetFrame_resetDone 0
  | _ => cases hbytes

/-- Settles O55: the frames of a host at its port, and those of the target at the target port. -/
theorem hostFramesReadBackAsSent : Obligations.HostFramesReadBackAsSent :=
  ⟨fun _ _ _ hfits hp hbytes => decodeHostFrame_encodeHostFrame hfits hp hbytes,
    fun _ _ hfits hbytes => decodeTargetFrame_encodeTargetFrame hfits hbytes⟩

end Sys2Proof.Machine
end

section
/-! SUPPORT. One step by the queue of waiting commands: idle when none waits, else the command at its front. -/

namespace Sys2Proof.Machine

variable {s : State}

/-- With no command waiting the part idles (log entry 2). -/
theorem step_of_pending_nil (h : s.pending = []) : step s = .next s := by
  unfold step
  rw [h]

/-- A waiting command leaves the queue before it is carried out, so it acts on the state that holds the rest. -/
theorem step_of_pending_cons {c : Instr} {rest : List Instr} (h : s.pending = c :: rest) :
    step s = exec c { s with pending := rest } := by
  unfold step
  rw [h]

/-- Settles O1: a step by whether a command waits. -/
theorem stepRunsTheFrontCommand : Obligations.StepRunsTheFrontCommand :=
  ⟨fun _ _ _ h => step_of_pending_cons h, fun _ h => step_of_pending_nil h⟩

end Sys2Proof.Machine
end

section
/-! SUPPORT. What one step keeps of the overlay store (R20, R21, R25, R27, R88, R140, R141). -/

namespace Sys2Proof.Machine

/-- Settles O59: DEVICE_RESET empties the store, and every other command keeps it well formed. -/
theorem overlayStoreStaysWellFormed : Obligations.OverlayStoreStaysWellFormed := by
  intro s t hs h
  rcases step_cases h with rfl | ⟨hold, pending, rfl⟩ | ⟨rest, k⟩
  · exact hs
  · exact storeOk_reset
  · exact k.store hs

end Sys2Proof.Machine
end

section
/-! SUPPORT. The checks of admission one after the other, and the refusal each ends a record with (R42 to R47). -/

namespace Sys2Proof.Machine

variable {s : State} {r : Record}

/-! ## The checks (R43 to R47) -/

/-- Check 1 fails (R43). -/
theorem admitRecord_notReady (ha : stateAllows s.mnt.dev r = false) :
    admitRecord r s = endRecord r.id .notReady 0 none 0 s := by
  unfold admitRecord
  simp [ha]

/-- Check 2 fails (R44). -/
theorem admitRecord_invalid (ha : stateAllows s.mnt.dev r = true) (hs : shapeGood r = false) :
    admitRecord r s = endRecord r.id .invalid 0 none 0 s := by
  unfold admitRecord
  simp [ha, hs]

/-- A READ or WRITE that passes checks 1 and 2 comes to check 3 (R42). -/
theorem admitRecord_transfer (ha : stateAllows s.mnt.dev r = true) (hs : shapeGood r = true)
    (ht : r.op.isTransfer = true) : admitRecord r s = admitTransfer r s := by
  unfold admitRecord
  rw [ha, hs]
  cases ho : r.op with
  | read => rfl
  | write => rfl
  | _ =>
    rw [ho] at ht
    cases ht

/-- Check 3 fails (R45). -/
theorem admitTransfer_misuse (hw : rangeTouchesWindow r.first r.count = true)
    (hsh : (rangeInWindow r.first r.count && windowShape r.op r.first r.count) = false) :
    admitTransfer r s = endRecord r.id .windowMisuse 0 none 0 s := by
  unfold admitTransfer
  simp [hw, hsh]

/-- A range outside the window comes to check 4 (R45). -/
theorem admitTransfer_region (hw : rangeTouchesWindow r.first r.count = false) : admitTransfer r s = admitRegion r s := by
  unfold admitTransfer
  simp [hw]

/-- Check 4 fails (R46). -/
theorem admitRegion_address {b : Nat} (h : offending s.map.active r.first r.count = some b) :
    admitRegion r s = endRecord r.id .address 0 (some b) 0 s := by
  unfold admitRegion
  rw [h]

/-- Check 5 fails (R46). -/
theorem admitRegion_refused {i : Nat} {res : Result} (h : offending s.map.active r.first r.count = none)
    (hi : s.map.active.lookup r.first = some i)
    (hd : accessDecision (s.viewOf i).policy (decide (r.op = .write)) r.id.port (s.map.active.region i)
      (s.map.unavailable.getD i false) s.jrn.cond = some res) :
    admitRegion r s = endRecord r.id res 0 none 0 s := by
  unfold admitRegion
  simp only [h, hi, hd]

/-- The record has passed checks 1 to 5: it has its path and its region (R46). -/
def decided (r : Record) (i : Nat) (s : State) : State :=
  mapRec r.id (fun x => { x with path := some .region, region := some (s.viewOf i) }) s

/-- Check 6 is the reservation of a WRITE to an OVERLAY or KEEP effective policy (R47). -/
theorem admitRegion_passes {i : Nat} (h : offending s.map.active r.first r.count = none)
    (hi : s.map.active.lookup r.first = some i)
    (hd : accessDecision (s.viewOf i).policy (decide (r.op = .write)) r.id.port (s.map.active.region i)
      (s.map.unavailable.getD i false) s.jrn.cond = none) :
    admitRegion r s = if decide (r.op = .write) && (s.viewOf i).policy.isOverlay then
      match reserve r.id (grainsOf r.first r.count) (decided r i s) with
      | some u => placeRegion r.id u
      | none => endRecord r.id .overlayFull 0 none 0 (decided r i s)
    else placeRegion r.id (decided r i s) := by
  unfold admitRegion
  simp only [h, hi, hd]
  rfl

/-- The reservation succeeds when there is room (R27). -/
theorem canReserve_iff {needed : List Nat} : s.canReserve needed = true ↔ s.roomFor s.ov.ring.length needed := by
  unfold State.canReserve State.roomFor
  simp only [Bool.or_eq_true, List.isEmpty_iff, Bool.and_eq_true, decide_eq_true_eq]
  rfl

/-- A reservation of grains without room fails (R27). -/
theorem reserve_none {c : CmdId} {grains : List Nat}
    (h : ¬ s.roomFor s.ov.ring.length (grains.filter s.needsSlot)) : reserve c grains s = none := by
  unfold reserve
  simp [canReserve_iff, h]

/-- A reservation of grains with room takes their slots (R27). -/
theorem reserve_some {c : CmdId} {grains : List Nat}
    (h : s.roomFor s.ov.ring.length (grains.filter s.needsSlot)) :
    reserve c grains s = some (takeReservations c grains (grains.filter s.needsSlot) s) := by
  unfold reserve
  simp [canReserve_iff, h]

/-- A record that reaches a region is of a good shape and is allowed by the device state (R43, R44). -/
theorem reachesRegion_admitted {i : Nat} (h : s.reachesRegion r i) (ht : r.op = .read ∨ r.op = .write) :
    exec .admission s = .next (admitRegion r (servePort r.id.port s)) := by
  obtain ⟨hnext, hl, hdev, h1, h256, hwin, -⟩ := h
  have hallow : stateAllows (servePort r.id.port s).mnt.dev r = true := by
    unfold stateAllows
    simp [hdev]
  have hshape : shapeGood r = true := by
    unfold shapeGood
    rcases ht with e | e <;> rw [e] <;> exact decide_eq_true ⟨h1, h256⟩
  have htrans : r.op.isTransfer = true := by
    rcases ht with e | e <;> rw [e] <;> rfl
  rw [exec_admission hnext hl, admitRecord_transfer hallow hshape htrans, admitTransfer_region hwin]

/-! ## Refusals (R42) -/

/-- A record that ADMISSION refuses ends with its result in a STATUS of blocks done 0, and the turn passes to the other port
(R41, R42). What has been done to the record before does not show. -/
theorem admission_refuses {u : State} (hr : s.nextAdmission = some r) (hl : s.te.link ≠ .down) (ha : s.answerable r.id)
    (res : Result) (d : Option Nat)
    (e : admitRecord r (servePort r.id.port s) = endRecord r.id res 0 d 0 u) (hn : u.adm.next = r.id.port.other)
    (hp : ∀ q, u.out q = s.out q ∧ u.hp q = s.hp q ∧ u.mg q = s.mg q) (hd : u.adm.deferred = s.adm.deferred) :
    ∃ t, exec .admission s = .next t ∧ t.adm.next = r.id.port.other ∧
      t.endedWith s r.id [s.statusFor r.id res 0 d 0] := by
  obtain ⟨hup, hdef⟩ := ha
  obtain ⟨ho, hh, hm⟩ := hp r.id.port
  refine ⟨_, exec_admission hr hl, ?_, ?_⟩
  · rw [e, endRecord_next, hn]
  · rw [e]
    exact endRecord_ends_of res 0 d 0 ho hm (by rw [hh, hup]; simp) ((deferred_congr _ hd).trans hdef)

/-- A refusal before the record has got its region. -/
theorem admission_refuses_served (hr : s.nextAdmission = some r) (hl : s.te.link ≠ .down) (ha : s.answerable r.id)
    (res : Result) (d : Option Nat)
    (e : admitRecord r (servePort r.id.port s) = endRecord r.id res 0 d 0 (servePort r.id.port s)) :
    ∃ t, exec .admission s = .next t ∧ t.adm.next = r.id.port.other ∧
      t.endedWith s r.id [s.statusFor r.id res 0 d 0] :=
  admission_refuses hr hl ha res d e rfl (fun q => by cases q <;> exact ⟨rfl, rfl, rfl⟩) rfl

/-- Settles O14: the checks one after the other, each by the refusal it ends the record with. -/
theorem admissionRefusesByTheFirstFailingCheck : Obligations.AdmissionRefusesByTheFirstFailingCheck := by
  intro s r hr hl ha
  refine ⟨fun hno => ?_, fun hok hsh => ?_, fun hok hsh ht => ⟨fun hw hwin => ?_, fun hw => ⟨fun b hb => ?_, ?_⟩⟩, ?_⟩
  · exact admission_refuses_served hr hl ha _ _ (admitRecord_notReady hno)
  · exact admission_refuses_served hr hl ha _ _ (admitRecord_invalid hok hsh)
  · refine admission_refuses_served hr hl ha _ _ ?_
    rw [admitRecord_transfer (s := servePort r.id.port s) hok hsh ht, admitTransfer_misuse hw hwin]
  · refine admission_refuses_served hr hl ha _ _ ?_
    rw [admitRecord_transfer (s := servePort r.id.port s) hok hsh ht, admitTransfer_region hw,
      admitRegion_address (s := servePort r.id.port s) hb]
  · intro i res hoff hi hdec
    refine admission_refuses_served hr hl ha _ _ ?_
    rw [admitRecord_transfer (s := servePort r.id.port s) hok hsh ht, admitTransfer_region hw,
      admitRegion_refused (s := servePort r.id.port s) hoff hi hdec]
  · intro i hreach hwr hov hroom
    have hadmit := reachesRegion_admitted hreach (.inr hwr)
    obtain ⟨-, -, -, -, -, -, hoff, hi, hdec, -⟩ := hreach
    have e : admitRegion r (servePort r.id.port s) =
        endRecord r.id .overlayFull 0 none 0 (decided r i (servePort r.id.port s)) := by
      rw [admitRegion_passes (s := servePort r.id.port s) hoff hi hdec, if_pos (by rw [hwr]; exact hov),
        reserve_none (s := decided r i (servePort r.id.port s)) hroom]
    rw [exec_admission hr hl] at hadmit
    injection hadmit with hadmit
    exact admission_refuses hr hl ha _ _ (hadmit.trans e) rfl
      (fun q => by cases q <;> exact ⟨rfl, rfl, rfl⟩) rfl

end Sys2Proof.Machine
end

section
/-! SUPPORT. Reservations given up and taken (R27, R28, R29): the reservations that stand afterwards, read grain by grain, and
the slots that leave the ring head and come back to its tail. -/

namespace Sys2Proof.Machine

variable {s t : State} {c : CmdId}

/-! ## The reservation of a grain (R27) -/

/-- Reservations and entries are read from the overlay store alone. -/
theorem reservation?_congr (g : Nat) (h : t.ov.reservations = s.ov.reservations) : t.reservation? g = s.reservation? g := by
  unfold State.reservation?
  rw [h]

theorem entry?_congr (g : Nat) (h : t.ov.table = s.ov.table) : t.entry? g = s.entry? g := by
  unfold State.entry?
  rw [h]

theorem slotOf_congr (g : Nat) (h : t.ov.table = s.ov.table) : t.slotOf g = s.slotOf g := by
  unfold State.slotOf
  rw [entry?_congr g h]

/-- A standing reservation is the one of its grain. -/
theorem reservation?_of_mem (hn : (s.ov.reservations.map (·.grain)).Nodup) {x : Reservation} (hx : x ∈ s.ov.reservations) :
    s.reservation? x.grain = some x := by
  unfold State.reservation?
  cases h : s.ov.reservations.find? fun y => y.grain == x.grain with
  | none => exact absurd (List.find?_eq_none.1 h x hx) (by simp)
  | some y =>
    have hy : y.grain = x.grain := by simpa using List.find?_some h
    rw [List.inj_on_of_nodup_map hn (List.mem_of_find?_eq_some h) hx hy]

theorem reservation?_mem {g : Nat} {x : Reservation} (h : s.reservation? g = some x) :
    x ∈ s.ov.reservations ∧ x.grain = g :=
  ⟨List.mem_of_find?_eq_some h, by simpa using List.find?_some h⟩

/-- The reservations once some of them have been changed or ended, each by itself and none to another grain. -/
theorem reservation?_filterMap {f : Reservation → Option Reservation} (hf : ∀ x y, f x = some y → y.grain = x.grain)
    (hn : (s.ov.reservations.map (·.grain)).Nodup) (ht : t.ov.reservations = s.ov.reservations.filterMap f) (g : Nat) :
    t.reservation? g = (s.reservation? g).bind f := by
  unfold State.reservation?
  rw [ht]
  generalize s.ov.reservations = l at hn ⊢
  clear ht
  induction l with
  | nil => rfl
  | cons x xs ih =>
    obtain ⟨hx, hxs⟩ := List.nodup_cons.1 hn
    have hlater : ∀ y ∈ xs, y.grain ≠ x.grain := fun y hy e => hx (List.mem_map.2 ⟨y, hy, e⟩)
    by_cases hg : x.grain = g
    · have hnone : (xs.filterMap f).find? (fun y => y.grain == g) = none := by
        refine List.find?_eq_none.2 fun y hy => ?_
        obtain ⟨z, hz, hzy⟩ := List.mem_filterMap.1 hy
        simpa [hf z y hzy, ← hg] using hlater z hz
      cases hfx : f x with
      | none => simp [hfx, hg, hnone]
      | some y => simp [hfx, hg, hf x y hfx]
    · cases hfx : f x with
      | none => simpa [hfx, hg] using ih hxs
      | some y => simpa [hfx, hg, hf x y hfx] using ih hxs

/-- A change of each reservation that keeps its grain. -/
theorem find?_map_reservation {f : Reservation → Reservation} (hf : ∀ x, (f x).grain = x.grain) (g : Nat)
    (l : List Reservation) : (l.map f).find? (fun x => x.grain == g) = (l.find? fun x => x.grain == g).map f := by
  rw [List.find?_map]
  congr 2
  funext x
  simp [hf]

/-! ## Giving up (R28) -/

theorem without_grain {x y : Reservation} (h : x.without c = some y) : y.grain = x.grain := by
  unfold Reservation.without at h
  split at h
  · split at h
    · cases h
    · cases h
      rfl
  · cases h
    rfl

/-- One who has given a reservation up is no party to it any more. -/
theorem holder_without {x y : Reservation} (hn : (x.holder :: x.sharers).Nodup) (h : x.without c = some y) :
    y.holder ≠ c := by
  unfold Reservation.without at h
  split at h
  case isTrue hc =>
    cases hs : x.sharers with
    | nil =>
      rw [hs] at h
      cases h
    | cons z zs =>
      rw [hs] at h hn
      cases h
      rintro rfl
      exact (List.nodup_cons.1 hn).1 (hc ▸ List.mem_cons_self ..)
  case isFalse hc =>
    cases h
    exact hc

/-- A reservation as giving up one grain leaves it. -/
def Reservation.givenUpIf (c : CmdId) (grains : List Nat) (x : Reservation) : Option Reservation :=
  if x.grain ∈ grains then x.without c else some x

theorem givenUpIf_grain {grains : List Nat} {x y : Reservation} (h : x.givenUpIf c grains = some y) : y.grain = x.grain := by
  unfold Reservation.givenUpIf at h
  split at h
  · exact without_grain h
  · cases h
    rfl

/-- With one reservation per grain, the one of a grain that ends is all that leaves. -/
theorem eraseP_grain_eq_filter {g : Nat} {l : List Reservation} (hn : (l.map (·.grain)).Nodup) :
    l.eraseP (fun x => x.grain == g) = l.filter fun x => !(x.grain == g) := by
  induction l with
  | nil => rfl
  | cons x xs ih =>
    obtain ⟨hx, hxs⟩ := List.nodup_cons.1 hn
    by_cases hg : x.grain = g
    · have : xs.filter (fun y => !(y.grain == g)) = xs :=
        List.filter_eq_self.2 fun y hy => by
          have : y.grain ≠ x.grain := fun e => hx (List.mem_map.2 ⟨y, hy, e⟩)
          simpa [hg] using this
      simp [hg, this]
    · simp [hg, ih hxs]

/-- A record gives up the reservation of one grain, and the others stay (R28). -/
theorem giveUp_reservations (g : Nat) (hn : (s.ov.reservations.map (·.grain)).Nodup) :
    (giveUp c g s).ov.reservations = s.ov.reservations.filterMap (Reservation.givenUpIf c [g]) := by
  have other : ∀ x ∈ s.ov.reservations, x.grain ≠ g → x.givenUpIf c [g] = some x := by
    intro x _ hx
    simp [Reservation.givenUpIf, hx]
  unfold giveUp
  cases hr : s.reservation? g with
  | none =>
    dsimp only
    conv_lhs => rw [← List.filterMap_some (l := s.ov.reservations)]
    refine List.filterMap_congr fun x hx => (other x hx ?_).symm
    simpa using List.find?_eq_none.1 hr x hx
  | some r =>
    have hgr : r.grain = g := (reservation?_mem hr).2
    have one : ∀ x ∈ s.ov.reservations, x.grain = g → x = r := fun x hx hxg =>
      List.inj_on_of_nodup_map hn hx (reservation?_mem hr).1 (hxg.trans hgr.symm)
    have changed (f : Reservation → Reservation) (hf : r.without c = some (f r)) :
        (setReservations (List.map fun y => if y.grain = g then f y else y) s).ov.reservations =
          s.ov.reservations.filterMap (Reservation.givenUpIf c [g]) := by
      show s.ov.reservations.map _ = _
      rw [← List.filterMap_eq_map]
      refine List.filterMap_congr fun x hx => ?_
      by_cases hxg : x.grain = g
      · simp [one x hx hxg, Reservation.givenUpIf, hgr, hf]
      · rw [other x hx hxg]
        simp [hxg]
    dsimp only
    split
    case isTrue hc =>
      split
      case h_1 y ys hs =>
        exact changed (fun z => { z with holder := y, sharers := ys }) (by simp [Reservation.without, hc, hs])
      case h_2 hs =>
        show (s.ov.reservations.eraseP fun x => x.grain == g) = _
        rw [eraseP_grain_eq_filter hn, ← List.filterMap_eq_filter]
        refine List.filterMap_congr fun x hx => ?_
        by_cases hxg : x.grain = g
        · simp [one x hx hxg, Reservation.givenUpIf, hgr, Reservation.without, hc, hs]
        · rw [other x hx hxg]
          simp [Option.guard, hxg]
    case isFalse hc =>
      exact changed (fun z => { z with sharers := z.sharers.filter fun d => decide (d ≠ c) })
        (by simp [Reservation.without, hc])

/-- The slot a record alone holds by a reservation. -/
def Reservation.alone (c : CmdId) (x : Reservation) : Option Nat :=
  if x.holder = c ∧ x.sharers = [] then some x.slot else none

/-- The slots that come back are those held alone. -/
theorem comeBack_eq (s : State) (c : CmdId) (grains : List Nat) :
    s.comeBack c grains = grains.filterMap fun g => (s.reservation? g).bind (Reservation.alone c) := by
  unfold State.comeBack
  refine List.filterMap_congr fun g _ => ?_
  cases s.reservation? g <;> rfl

/-- A slot held alone joins the ring tail when its reservation is given up (R28). -/
theorem giveUp_ring (c : CmdId) (g : Nat) (s : State) : (giveUp c g s).ov.ring = s.ov.ring ++ s.comeBack c [g] := by
  rw [comeBack_eq]
  unfold giveUp
  cases hr : s.reservation? g with
  | none => simp [hr]
  | some r =>
    dsimp only
    split
    case isTrue hc =>
      split
      case h_1 hs => simp [hr, Reservation.alone, hs]
      case h_2 hs => simp [hr, Reservation.alone, hs, hc, joinRing]
    case isFalse hc => simp [hr, Reservation.alone, hc]

/-- Some grains are given up one after the other. -/
def giveUps (c : CmdId) (grains : List Nat) (s : State) : State := grains.foldl (fun t g => giveUp c g t) s

/-- Giving up touches the reservations, the ring and its low-water flag. -/
theorem giveUps_frame (c : CmdId) (grains : List Nat) (s : State) : giveUps c grains s =
    { s with ov := { s.ov with
        reservations := (giveUps c grains s).ov.reservations, ring := (giveUps c grains s).ov.ring,
        armed := (giveUps c grains s).ov.armed } } := by
  have one (t : State) (g : Nat) : ∃ rs ring armed, giveUp c g t =
      { t with ov := { t.ov with reservations := rs, ring := ring, armed := armed } } := by
    unfold giveUp
    repeat' split
    all_goals exact ⟨_, _, _, rfl⟩
  have all : ∃ rs ring armed, giveUps c grains s =
      { s with ov := { s.ov with reservations := rs, ring := ring, armed := armed } } := by
    refine foldl_rel (fun a b => ∃ rs ring armed,
      b = { a with ov := { a.ov with reservations := rs, ring := ring, armed := armed } }) (fun a => ⟨_, _, _, rfl⟩)
      ?_ one grains s
    rintro a b d ⟨_, _, _, rfl⟩ ⟨_, _, _, rfl⟩
    exact ⟨_, _, _, rfl⟩
  obtain ⟨rs, ring, armed, e⟩ := all
  rw [e]

theorem givenUp_nodup {grains : List Nat} (hn : (s.ov.reservations.map (·.grain)).Nodup)
    (ht : t.ov.reservations = s.ov.reservations.filterMap (Reservation.givenUpIf c grains)) :
    (t.ov.reservations.map (·.grain)).Nodup := by
  rw [ht, List.map_filterMap]
  refine hn.sublist ?_
  clear hn ht
  induction s.ov.reservations with
  | nil => exact List.Sublist.slnil
  | cons x xs ih =>
    cases h : x.givenUpIf c grains with
    | none => simpa [h] using ih.cons x.grain
    | some y => simpa [h, givenUpIf_grain h] using ih

/-- The reservations once some grains have been given up (R28). -/
theorem giveUps_reservations {grains : List Nat} (hg : grains.Nodup) (hn : (s.ov.reservations.map (·.grain)).Nodup) :
    (giveUps c grains s).ov.reservations = s.ov.reservations.filterMap (Reservation.givenUpIf c grains) := by
  induction grains generalizing s with
  | nil =>
    show s.ov.reservations = _
    conv_lhs => rw [← List.filterMap_some (l := s.ov.reservations)]
    rfl
  | cons g gs ih =>
    obtain ⟨hnot, hgs⟩ := List.nodup_cons.1 hg
    have h1 := giveUp_reservations (c := c) g hn
    show (giveUps c gs (giveUp c g s)).ov.reservations = _
    rw [ih hgs (givenUp_nodup hn h1), h1, List.filterMap_filterMap]
    refine List.filterMap_congr fun x _ => ?_
    by_cases hxg : x.grain = g
    · have hx : x.givenUpIf c [g] = x.without c := by simp [Reservation.givenUpIf, hxg]
      rw [hx]
      cases hw : x.without c with
      | none => simp [Reservation.givenUpIf, hxg, hw]
      | some y => simp [Reservation.givenUpIf, hxg, hw, without_grain hw, hnot]
    · simp [Reservation.givenUpIf, hxg]

/-- The slots that come back as some grains are given up (R28). -/
theorem giveUps_ring {grains : List Nat} (hg : grains.Nodup) (hn : (s.ov.reservations.map (·.grain)).Nodup) :
    (giveUps c grains s).ov.ring = s.ov.ring ++ s.comeBack c grains := by
  induction grains generalizing s with
  | nil => simp [giveUps, State.comeBack]
  | cons g gs ih =>
    obtain ⟨hnot, hgs⟩ := List.nodup_cons.1 hg
    have h1 := giveUp_reservations (c := c) g hn
    have later : (giveUp c g s).comeBack c gs = s.comeBack c gs := by
      rw [comeBack_eq, comeBack_eq]
      refine List.filterMap_congr fun h hh => ?_
      have hne : h ≠ g := fun e => hnot (e ▸ hh)
      rw [reservation?_filterMap (fun _ _ => givenUpIf_grain) hn h1]
      cases hr : s.reservation? h with
      | none => rfl
      | some x => simp [Reservation.givenUpIf, (reservation?_mem hr).2, hne]
    show (giveUps c gs (giveUp c g s)).ov.ring = _
    rw [ih hgs (givenUp_nodup hn h1), giveUp_ring, later, List.append_assoc]
    simp [State.comeBack, List.filterMap_cons]
    split <;> simp

/-- A grain's reservation once some grains have been given up (R28). -/
theorem giveUps_reservation? {grains : List Nat} (hg : grains.Nodup) (hn : (s.ov.reservations.map (·.grain)).Nodup)
    (g : Nat) : (giveUps c grains s).reservation? g =
      if g ∈ grains then (s.reservation? g).bind (Reservation.without c) else s.reservation? g := by
  rw [reservation?_filterMap (fun _ _ => givenUpIf_grain) hn (giveUps_reservations hg hn)]
  cases hr : s.reservation? g with
  | none => simp
  | some x =>
    have := (reservation?_mem hr).2
    simp only [Option.bind_some, Reservation.givenUpIf, this]

/-- A record gives up all it holds and shares (R28). -/
theorem giveUpAll_reservation? (hn : (s.ov.reservations.map (·.grain)).Nodup) (g : Nat) :
    (giveUpAll c s).reservation? g = (s.reservation? g).bind (Reservation.without c) := by
  refine (giveUps_reservation? hn hn g).trans ?_
  split
  · rfl
  · rename_i h
    cases hr : s.reservation? g with
    | none => rfl
    | some x => exact absurd (List.mem_map.2 ⟨x, reservation?_mem hr⟩) h

theorem giveUpAll_ring (hn : (s.ov.reservations.map (·.grain)).Nodup) :
    (giveUpAll c s).ov.ring = s.ov.ring ++ s.comeBack c (s.ov.reservations.map (·.grain)) := giveUps_ring hn hn

/-! ## The record that leaves (R53) -/

/-- A record that leaves has given up its reservations, and nothing else of the overlay store changes (R28, R53). -/
theorem leave_ov {r : Record} (h : s.rec? c = some r) : (leave c s).ov = (giveUpAll c s).ov := by
  unfold leave
  rw [h]
  dsimp only
  split <;> simp

/-- The overlay store after a record has ended. -/
theorem endRecord_store {r : Record} (h : s.rec? c = some r) (hn : (s.ov.reservations.map (·.grain)).Nodup) (res : Result)
    (done : Nat) (d : Option Nat) (v : Nat) :
    (∀ g, (endRecord c res done d v s).reservation? g = (s.reservation? g).bind (Reservation.without c)) ∧
      (endRecord c res done d v s).ov.ring = s.ov.ring ++ s.comeBack c (s.ov.reservations.map (·.grain)) := by
  have hov : (sendStatus c res done d v s).ov = s.ov := sendStatus_ov ..
  have hr : (sendStatus c res done d v s).rec? c = some r := (rec?_sendStatus ..).trans h
  have hl : (endRecord c res done d v s).ov = (giveUpAll c (sendStatus c res done d v s)).ov := leave_ov hr
  have hn' : ((sendStatus c res done d v s).ov.reservations.map (·.grain)).Nodup := by rwa [hov]
  have hres (g : Nat) : (sendStatus c res done d v s).reservation? g = s.reservation? g :=
    reservation?_congr g (by rw [hov])
  refine ⟨fun g => ?_, ?_⟩
  · rw [reservation?_congr g (congrArg _ hl), giveUpAll_reservation? hn', hres]
  · rw [hl, giveUpAll_ring hn', hov]
    simp only [State.comeBack, hres]

/-- Settles O18: the record ends, and leaves what it held and shared. -/
theorem reservationsAreGivenUpWithTheRecord : Obligations.ReservationsAreGivenUpWithTheRecord := by
  intro p tag s r ha htag hl hopen hr hst ho
  obtain ⟨hup, hd⟩ := ha
  have hstop : takeStop ⟨p, tag⟩ s = endRecord ⟨p, tag⟩ .stopped 0 none 0 s :=
    (takeStop_record hd hr).1 (.inr hst)
  obtain ⟨hres, hring⟩ := endRecord_store hr ho.1 .stopped 0 none 0
  refine ⟨_, exec_stop_open hup htag hl hopen, ?_⟩
  rw [hstop]
  exact ⟨hres, hring, by simp⟩

end Sys2Proof.Machine
end

section
/-! SUPPORT. The slots a record takes from the ring head, and its settlement: what it gives up, takes and shares (R27, R29). -/

namespace Sys2Proof.Machine

variable {s t : State} {c : CmdId} {r : Record}

/-! ## Taking (R27) -/

/-- A reservation put in its place, on a grain that has none. -/
theorem find?_insertReservation {x : Reservation} {l : List Reservation}
    (h : l.find? (fun y => y.grain == x.grain) = none) (g : Nat) :
    (insertReservation x l).find? (fun y => y.grain == g) =
      if x.grain = g then some x else l.find? fun y => y.grain == g := by
  induction l with
  | nil => by_cases hg : x.grain = g <;> simp [insertReservation, hg]
  | cons y ys ih =>
    have hy : y.grain ≠ x.grain := by simpa using List.find?_eq_none.1 h y (List.mem_cons_self ..)
    have hys : ys.find? (fun z => z.grain == x.grain) = none := by simpa [List.find?_cons, hy] using h
    unfold insertReservation
    split
    · by_cases hyg : y.grain = g
      · have : x.grain ≠ g := fun e => hy (hyg.trans e.symm)
        simp [hyg, this]
      · simpa [hyg] using ih hys
    · by_cases hg : x.grain = g <;> simp [hg]

/-- Reservations put in their places, each on a grain of its own that has none. -/
theorem find?_foldl_insertReservation {fresh l : List Reservation} (hn : (fresh.map (·.grain)).Nodup)
    (hd : ∀ x ∈ fresh, l.find? (fun y => y.grain == x.grain) = none) (g : Nat) :
    (fresh.foldl (fun acc x => insertReservation x acc) l).find? (fun y => y.grain == g) =
      (fresh.find? fun y => y.grain == g).or (l.find? fun y => y.grain == g) := by
  induction fresh generalizing l with
  | nil => rfl
  | cons x xs ih =>
    obtain ⟨hx, hxs⟩ := List.nodup_cons.1 hn
    have hxl := hd x (List.mem_cons_self ..)
    have hne : ∀ y ∈ xs, x.grain ≠ y.grain := fun y hy e => hx (List.mem_map.2 ⟨y, hy, e.symm⟩)
    have rest := ih (l := insertReservation x l) hxs fun y hy => by
      rw [find?_insertReservation hxl, if_neg (hne y hy)]
      exact hd y (List.mem_cons_of_mem _ hy)
    rw [List.foldl_cons, rest, find?_insertReservation hxl]
    by_cases hg : x.grain = g
    · have : xs.find? (fun y => y.grain == g) = none :=
        List.find?_eq_none.2 fun y hy => by simpa [← hg] using (hne y hy).symm
      simp [hg, this]
    · simp [hg]

/-- The reservations made by a taking: the slots at the ring head, the first to the first needed grain. -/
def freshReservations (c : CmdId) (needed ring : List Nat) : List Reservation :=
  (needed.zip (ring.take needed.length)).map fun x =>
    ({ grain := x.1, slot := x.2, holder := c, sharers := [] } : Reservation)

theorem freshReservations_grains {needed ring : List Nat} (h : needed.length ≤ ring.length) :
    (freshReservations c needed ring).map (·.grain) = needed := by
  unfold freshReservations
  rw [List.map_map]
  show (needed.zip (ring.take needed.length)).map Prod.fst = needed
  rw [List.map_fst_zip]
  simpa using h

theorem freshReservations_getElem? {needed ring : List Nat} {j g n : Nat} (hg : needed[j]? = some g)
    (hr : ring[j]? = some n) : (freshReservations c needed ring)[j]? = some ⟨g, n, c, []⟩ := by
  have hlt : j < needed.length := (List.getElem?_eq_some_iff.1 hg).1
  unfold freshReservations
  rw [List.getElem?_map, (List.getElem?_zip_eq_some (z := (g, n))).2 ⟨hg, by simpa [List.getElem?_take, hlt] using hr⟩]
  rfl

/-- A reservation as a record that touches some grains leaves it: it shares those on the grains it touches. -/
def Reservation.joinIf (c : CmdId) (grains : List Nat) (x : Reservation) : Reservation :=
  if grains.contains x.grain then x.join c else x

theorem join_grain (c : CmdId) (x : Reservation) : (x.join c).grain = x.grain := by
  unfold Reservation.join
  split <;> rfl

theorem joinIf_grain (c : CmdId) (grains : List Nat) (x : Reservation) : (x.joinIf c grains).grain = x.grain := by
  unfold Reservation.joinIf
  split
  · exact join_grain c x
  · rfl

/-- A taking leaves the ring its tail and puts the new reservations beside those it joins. -/
theorem takeReservations_ov (c : CmdId) (grains needed : List Nat) (s : State) :
    (takeReservations c grains needed s).ov.ring = s.ov.ring.drop needed.length ∧
      (takeReservations c grains needed s).ov.reservations = (freshReservations c needed s.ov.ring).foldl
        (fun acc x => insertReservation x acc) (s.ov.reservations.map (Reservation.joinIf c grains)) := by
  have hring : (takeRing needed.length s).ov.ring = s.ov.ring.drop needed.length := by rw [takeRing_ov]
  have hres : (takeRing needed.length s).ov.reservations = s.ov.reservations := by simp
  refine ⟨hring, ?_⟩
  unfold takeReservations setReservations freshReservations
  dsimp only
  rw [hres]
  rfl

/-- Each needed grain has the next slot of the ring, and the others keep their reservation, shared where they are touched
(R27). -/
theorem takeReservations_reservedFor {grains needed : List Nat} (hd : needed.Nodup)
    (hlen : needed.length ≤ s.ov.ring.length) (hfree : ∀ g ∈ needed, s.reservation? g = none) :
    (takeReservations c grains needed s).reservedFor s s.ov.ring c grains needed := by
  have hgr : ((freshReservations c needed s.ov.ring).map (·.grain)).Nodup := by
    rw [freshReservations_grains hlen]
    exact hd
  have hread (g : Nat) : (takeReservations c grains needed s).reservation? g =
      ((freshReservations c needed s.ov.ring).find? fun y => y.grain == g).or
        ((s.reservation? g).map (Reservation.joinIf c grains)) := by
    unfold State.reservation?
    rw [(takeReservations_ov c grains needed s).2, find?_foldl_insertReservation hgr,
      find?_map_reservation (joinIf_grain c grains)]
    intro x hx
    have hm : x.grain ∈ needed := by
      rw [← freshReservations_grains (c := c) hlen]
      exact List.mem_map_of_mem hx
    rw [find?_map_reservation (joinIf_grain c grains)]
    exact congrArg _ (hfree _ hm)
  refine ⟨fun j g hj => ?_, fun g hg => ?_⟩
  · have hlt : j < s.ov.ring.length := Nat.lt_of_lt_of_le (List.getElem?_eq_some_iff.1 hj).1 hlen
    have hring : s.ov.ring[j]? = some s.ov.ring[j] := List.getElem?_eq_getElem hlt
    have hx := freshReservations_getElem? (c := c) hj hring
    refine ⟨_, hring, ?_⟩
    rw [hread]
    cases hf : (freshReservations c needed s.ov.ring).find? fun y => y.grain == g with
    | none => exact absurd (List.find?_eq_none.1 hf _ (List.mem_of_getElem? hx)) (by simp)
    | some y =>
      have hy : y.grain = g := by simpa using List.find?_some hf
      have := List.inj_on_of_nodup_map hgr (List.mem_of_find?_eq_some hf) (List.mem_of_getElem? hx) hy
      rw [this]
      rfl
  · have hf : (freshReservations c needed s.ov.ring).find? (fun y => y.grain == g) = none := by
      refine List.find?_eq_none.2 fun y hy => ?_
      have hm : y.grain ∈ needed := by
        rw [← freshReservations_grains (c := c) hlen]
        exact List.mem_map_of_mem hy
      simpa using fun e : y.grain = g => hg (e ▸ hm)
    rw [hread, hf]
    cases hr : s.reservation? g with
    | none => rfl
    | some x =>
      have := (reservation?_mem hr).2
      simp only [Option.none_or, Option.map_some, Reservation.joinIf, this, List.contains_iff_mem]

/-- A taking leaves one reservation per grain (R27). -/
theorem takeReservations_nodup {grains needed : List Nat} (hd : needed.Nodup)
    (hlen : needed.length ≤ s.ov.ring.length) (hfree : ∀ g ∈ needed, s.reservation? g = none)
    (hn : (s.ov.reservations.map (·.grain)).Nodup) :
    ((takeReservations c grains needed s).ov.reservations.map (·.grain)).Nodup := by
  rw [(takeReservations_ov c grains needed s).2]
  refine ((foldl_insertReservation_perm _ _).map _).nodup_iff.2 ?_
  have hj : (s.ov.reservations.map (Reservation.joinIf c grains)).map (·.grain) = s.ov.reservations.map (·.grain) := by
    rw [List.map_map]
    exact List.map_congr_left fun x _ => joinIf_grain c grains x
  rw [List.map_append, freshReservations_grains hlen, hj]
  refine List.nodup_append.2 ⟨hd, hn, ?_⟩
  rintro g hg _ hm rfl
  obtain ⟨x, hx, hxg⟩ := List.mem_map.1 hm
  have := hfree g hg
  rw [← hxg, reservation?_of_mem hn hx] at this
  cases this

/-- Grains that need a slot have no reservation (R27). -/
theorem reservation?_of_needed {grains : List Nat} {g : Nat} (h : g ∈ grains.filter s.needsSlot) :
    s.reservation? g = none := by
  have h := (List.mem_filter.1 h).2
  unfold State.needsSlot at h
  simp only [Bool.and_eq_true, Option.isNone_iff_eq_none] at h
  exact h.1.2

/-- Room for some grains is room in the ring (R27). -/
theorem length_of_roomFor {n : Nat} {needed : List Nat} (h : s.roomFor n needed) : needed.length ≤ n := by
  rcases h with h | h
  · simp [h]
  · omega

/-! ## Settlement (R29) -/

/-- What a record gives up as it settles: the reservations of its grains whose entry has a slot (R29). -/
def settledDown (r : Record) (s : State) : State := giveUps r.id (s.boundGrains r) s

@[simp] theorem settledDown_frame (r : Record) (s : State) : (settledDown r s).ov.table = s.ov.table ∧
    (settledDown r s).adm = s.adm ∧ (settledDown r s).te = s.te ∧ (settledDown r s).map = s.map ∧
    (settledDown r s).pool = s.pool ∧ (settledDown r s).jrn = s.jrn ∧ (settledDown r s).hpA = s.hpA ∧
    (settledDown r s).hpB = s.hpB ∧ (settledDown r s).mgA = s.mgA ∧ (settledDown r s).mgB = s.mgB ∧
    (settledDown r s).outA = s.outA ∧ (settledDown r s).outB = s.outB ∧ (settledDown r s).outT = s.outT := by
  unfold settledDown
  rw [giveUps_frame]
  exact ⟨rfl, rfl, rfl, rfl, rfl, rfl, rfl, rfl, rfl, rfl, rfl, rfl, rfl⟩

theorem boundGrains_nodup (r : Record) (s : State) : (s.boundGrains r).Nodup := (nodup_grainsOf _ _).filter _

theorem neededBy_nodup (r : Record) (s : State) : (s.neededBy r).Nodup := (nodup_grainsOf _ _).filter _

theorem settledDown_ring (hn : (s.ov.reservations.map (·.grain)).Nodup) :
    (settledDown r s).ov.ring = s.ov.ring ++ s.comeBack r.id (s.boundGrains r) :=
  giveUps_ring (boundGrains_nodup r s) hn

theorem settledDown_reservation? (hn : (s.ov.reservations.map (·.grain)).Nodup) (g : Nat) :
    (settledDown r s).reservation? g =
      if g ∈ s.boundGrains r then (s.reservation? g).bind (Reservation.without r.id) else s.reservation? g :=
  giveUps_reservation? (boundGrains_nodup r s) hn g

/-- Grains whose entry has no slot keep their reservation. -/
theorem settledDown_unbound (hn : (s.ov.reservations.map (·.grain)).Nodup) {g : Nat} (hg : s.slotOf g = none) :
    (settledDown r s).reservation? g = s.reservation? g := by
  rw [settledDown_reservation? hn, if_neg]
  intro h
  simpa [hg] using (List.mem_filter.1 h).2

/-- Settlement needs a slot for the grains that needed one before it. -/
theorem settledDown_needed (hn : (s.ov.reservations.map (·.grain)).Nodup) :
    ((grainsOf r.first r.count).filter fun g => ((settledDown r s).slotOf g).isNone).filter (settledDown r s).needsSlot =
      s.neededBy r := by
  unfold State.neededBy
  rw [List.filter_filter]
  refine List.filter_congr fun g _ => ?_
  have hs : (settledDown r s).slotOf g = s.slotOf g := slotOf_congr g (by simp)
  unfold State.needsSlot
  rw [hs]
  cases hslot : s.slotOf g with
  | some n => rfl
  | none => simp [settledDown_unbound hn hslot]

/-- The entry places in use are the same: what has been given up stood on grains with an entry (R27). -/
theorem settledDown_entryPlaces (hn : (s.ov.reservations.map (·.grain)).Nodup) :
    (settledDown r s).entryPlaces = s.entryPlaces := by
  have he (g : Nat) : (settledDown r s).entry? g = s.entry? g := entry?_congr g (by simp)
  have hres : (settledDown r s).ov.reservations =
      s.ov.reservations.filterMap (Reservation.givenUpIf r.id (s.boundGrains r)) :=
    giveUps_reservations (boundGrains_nodup r s) hn
  have unbound {g : Nat} (h : s.entry? g = none) : g ∉ s.boundGrains r := by
    intro hm
    simpa [State.slotOf, h] using (List.mem_filter.1 hm).2
  have hfilter (l : List Reservation) :
      (l.filterMap (Reservation.givenUpIf r.id (s.boundGrains r))).filter (fun x => (s.entry? x.grain).isNone) =
        l.filter fun x => (s.entry? x.grain).isNone := by
    induction l with
    | nil => rfl
    | cons x xs ih =>
      cases hx : s.entry? x.grain with
      | none =>
        have hkeep : x.givenUpIf r.id (s.boundGrains r) = some x := by simp [Reservation.givenUpIf, unbound hx]
        simp [hkeep, hx, ih]
      | some e =>
        cases hg : x.givenUpIf r.id (s.boundGrains r) with
        | none => simp [hg, hx, ih]
        | some y => simp [hg, givenUpIf_grain hg, hx, ih]
  unfold State.entryPlaces
  simp only [he, hres, hfilter, settledDown_frame]
  congr 2
  refine List.filter_congr fun x _ => ?_
  cases hx : s.entry? x.grain with
  | some e => rfl
  | none => rw [settledDown_unbound hn (by simp [State.slotOf, hx])]

/-- Settlement succeeds when there is room for the needed grains in the ring and what came back to it (R29). -/
theorem settledDown_room (hn : (s.ov.reservations.map (·.grain)).Nodup) {needed : List Nat} :
    (settledDown r s).roomFor (settledDown r s).ov.ring.length needed ↔
      s.roomFor (s.ov.ring.length + (s.comeBack r.id (s.boundGrains r)).length) needed := by
  have he (g : Nat) : (settledDown r s).entry? g = s.entry? g := entry?_congr g (by simp)
  unfold State.roomFor
  rw [settledDown_ring hn, settledDown_entryPlaces hn, List.length_append]
  simp only [he]

/-- The grains of a record whose entry has no slot. -/
def State.unboundGrains (s : State) (r : Record) : List Nat :=
  (grainsOf r.first r.count).filter fun g => (s.slotOf g).isNone

/-- The state after a settlement that succeeds. -/
def settledState (r : Record) (s : State) : State :=
  takeReservations r.id (s.unboundGrains r) (s.neededBy r) (settledDown r s)

theorem settledDown_unboundGrains : (grainsOf r.first r.count).filter (fun g => ((settledDown r s).slotOf g).isNone) =
    s.unboundGrains r :=
  List.filter_congr fun g _ => by rw [slotOf_congr g (t := settledDown r s) (s := s) (by simp)]

theorem settle_room (hn : (s.ov.reservations.map (·.grain)).Nodup)
    (h : s.roomFor (s.ov.ring.length + (s.comeBack r.id (s.boundGrains r)).length) (s.neededBy r)) :
    settle r.id (grainsOf r.first r.count) s = (true, settledState r s) := by
  have hneed := settledDown_needed (r := r) hn
  have hsome := reserve_some (c := r.id) (s := settledDown r s)
    (grains := (grainsOf r.first r.count).filter fun g => ((settledDown r s).slotOf g).isNone)
    (by rw [hneed]; exact (settledDown_room hn).2 h)
  rw [hneed, settledDown_unboundGrains] at hsome
  unfold settle
  show (match reserve r.id (s.unboundGrains r) (settledDown r s) with
    | some u => (true, u)
    | none => (false, settledDown r s)) = _
  rw [hsome]
  rfl

theorem settle_full (hn : (s.ov.reservations.map (·.grain)).Nodup)
    (h : ¬ s.roomFor (s.ov.ring.length + (s.comeBack r.id (s.boundGrains r)).length) (s.neededBy r)) :
    settle r.id (grainsOf r.first r.count) s = (false, settledDown r s) := by
  have hneed := settledDown_needed (r := r) hn
  have hnone := reserve_none (c := r.id) (s := settledDown r s)
    (grains := (grainsOf r.first r.count).filter fun g => ((settledDown r s).slotOf g).isNone)
    (by rw [hneed]; exact fun e => h ((settledDown_room hn).1 e))
  rw [settledDown_unboundGrains] at hnone
  unfold settle
  show (match reserve r.id (s.unboundGrains r) (settledDown r s) with
    | some u => (true, u)
    | none => (false, settledDown r s)) = _
  rw [hnone]

/-- What settlement does to the overlay store (R29). -/
theorem settledState_facts (hn : (s.ov.reservations.map (·.grain)).Nodup)
    (h : s.roomFor (s.ov.ring.length + (s.comeBack r.id (s.boundGrains r)).length) (s.neededBy r)) :
    (settledState r s).ov.table = s.ov.table ∧
      (settledState r s).ov.ring = (s.ov.ring ++ s.comeBack r.id (s.boundGrains r)).drop (s.neededBy r).length ∧
      (settledState r s).settledFor s (s.ov.ring ++ s.comeBack r.id (s.boundGrains r)) r := by
  have hring := settledDown_ring (r := r) hn
  have hfree : ∀ g ∈ s.neededBy r, (settledDown r s).reservation? g = none := by
    rw [← settledDown_needed hn]
    exact fun g hg => reservation?_of_needed hg
  have hlen : (s.neededBy r).length ≤ (settledDown r s).ov.ring.length :=
    length_of_roomFor ((settledDown_room hn).2 h)
  have hnotNeeded {g n : Nat} (hg : s.slotOf g = some n) : g ∉ s.neededBy r := by
    intro hm
    have := (List.mem_filter.1 hm).2
    unfold State.needsSlot at this
    simp [hg] at this
  obtain ⟨hneeded, hothers⟩ := takeReservations_reservedFor (c := r.id) (grains := s.unboundGrains r)
    (neededBy_nodup r s) hlen hfree
  refine ⟨by simp [settledState], ?_, ?_, fun g hg => ?_, fun g hg hs hnot => ?_, fun g hg => ?_⟩
  · rw [← hring]
    exact (takeReservations_ov _ _ _ _).1
  · rw [← hring]
    exact hneeded
  · obtain ⟨n, hslot⟩ := Option.isSome_iff_exists.1 (List.mem_filter.1 hg).2
    have hout : g ∉ s.unboundGrains r := fun hm => by simpa [hslot] using (List.mem_filter.1 hm).2
    unfold settledState
    rw [hothers g (hnotNeeded hslot), settledDown_reservation? hn, if_pos hg]
    simp [hout]
  · have hin : g ∈ s.unboundGrains r := List.mem_filter.2 ⟨hg, by simp [hs]⟩
    unfold settledState
    rw [hothers g hnot, settledDown_unbound hn hs]
    simp only [hin, if_true]
  · have hout : g ∉ s.unboundGrains r := fun hm => hg (List.mem_filter.1 hm).1
    have hb : g ∉ s.boundGrains r := fun hm => hg (List.mem_filter.1 hm).1
    have hnot : g ∉ s.neededBy r := fun hm => hg (List.mem_filter.1 hm).1
    unfold settledState
    rw [hothers g hnot, settledDown_reservation? hn, if_neg hb]
    simp [hout]

@[simp] theorem settledState_frame (r : Record) (s : State) : (settledState r s).adm = s.adm ∧
    (settledState r s).te = s.te ∧ (settledState r s).map = s.map ∧ (settledState r s).pool = s.pool ∧
    (settledState r s).hpA = s.hpA ∧ (settledState r s).hpB = s.hpB ∧ (settledState r s).outA = s.outA ∧
    (settledState r s).outB = s.outB ∧ (settledState r s).outT = s.outT := by
  unfold settledState
  simp

end Sys2Proof.Machine
end

section
/-! SUPPORT. Route plans, and the start of a record from its plan: the claim of its first piece, and the cut of a READ at a LOST
block (R55, R61, R62, R67, R77). -/

namespace Sys2Proof.Machine

variable {s t u w : State} {c : CmdId} {r x : Record} {v : RegionView} {reg : Region} {first count n k : Nat}
  {kindOf : Nat → PieceKind} {plan : List Piece}

/-! ## Route plans (R61, R62) -/

/-- A route plan looks at the active map and the layout alone. -/
theorem buildPlan_congr (h : t.map = s.map) : buildPlan t reg first count kindOf = buildPlan s reg first count kindOf := by
  have hstep : planBlock t reg = planBlock s reg := by
    funext acc b
    have hb : t.targetOf reg b.1 b.2 = s.targetOf reg b.1 b.2 := by
      unfold State.targetOf State.slotBase
      rw [h]
    unfold planBlock
    rw [hb]
  unfold buildPlan
  rw [hstep]

/-- The pieces planned for the first `n` blocks of a range, the latest first. -/
def planned (s : State) (reg : Region) (first : Nat) (kindOf : Nat → PieceKind) (n : Nat) : List Piece :=
  ((List.range n).map fun i => (first + i, kindOf (first + i))).foldl (planBlock s reg) []

theorem buildPlan_eq : buildPlan s reg first count kindOf = (planned s reg first kindOf count).reverse := rfl

theorem planned_succ (n : Nat) : planned s reg first kindOf (n + 1) =
    planBlock s reg (planned s reg first kindOf n) (first + n, kindOf (first + n)) := by
  unfold planned
  rw [List.range_succ, List.map_append, List.foldl_append]
  rfl

/-- The piece a block opens. -/
def openedPiece (s : State) (reg : Region) (b : Nat) (kind : PieceKind) : Piece :=
  { kind := kind, first := b, count := 1, target := s.targetOf reg b kind, state := .planned, held := 0, data := [] }

/-- What a block can do to a plan: nothing behind a LOST piece, one block more in the last piece, or a piece of its own. -/
theorem planBlock_cases (acc : List Piece) (b : Nat) (kind : PieceKind) :
    (∃ p ps, acc = p :: ps ∧ p.kind = .lost ∧ planBlock s reg acc (b, kind) = acc) ∨
    (∃ p ps, acc = p :: ps ∧ p.kind ≠ .lost ∧ p.kind = kind ∧
      planBlock s reg acc (b, kind) = { p with count := p.count + 1 } :: ps) ∨
    ((∀ p ∈ acc.head?, p.kind ≠ .lost) ∧ planBlock s reg acc (b, kind) = openedPiece s reg b kind :: acc) := by
  cases acc with
  | nil => exact .inr (.inr ⟨by simp, rfl⟩)
  | cons p ps =>
    by_cases hl : p.kind = .lost
    · exact .inl ⟨p, ps, rfl, hl, by simp [planBlock, hl]⟩
    · by_cases he : p.extends b kind = true
      · have hk : p.kind = kind := by
          unfold Piece.extends at he
          cases kind with
          | base => exact of_decide_eq_true (Bool.and_eq_true_iff.1 he).1
          | slot n => exact of_decide_eq_true (Bool.and_eq_true_iff.1 he).1
          | lost => cases he
        exact .inr (.inl ⟨p, ps, rfl, hl, hk, by simp [planBlock, hl, he]⟩)
      · refine .inr (.inr ⟨by simpa using hl, ?_⟩)
        simp [planBlock, hl, he, openedPiece]

/-- Every piece of a route plan is PLANNED, and of the kind of its first block, which lies in the range (R61, R65). -/
theorem planned_pieces : ∀ p ∈ planned s reg first kindOf n,
    p.state = .planned ∧ first ≤ p.first ∧ p.first < first + n ∧ p.kind = kindOf p.first := by
  induction n with
  | zero =>
    intro p hp
    exact nomatch hp
  | succ n ih =>
    have step : ∀ p ∈ planned s reg first kindOf n,
        p.state = .planned ∧ first ≤ p.first ∧ p.first < first + (n + 1) ∧ p.kind = kindOf p.first := by
      intro p hp
      obtain ⟨h1, h2, h3, h4⟩ := ih p hp
      exact ⟨h1, h2, by omega, h4⟩
    rw [planned_succ]
    rcases planBlock_cases (s := s) (reg := reg) (planned s reg first kindOf n) (first + n) (kindOf (first + n)) with
      ⟨q, qs, -, -, e⟩ | ⟨q, qs, hacc, -, -, e⟩ | ⟨-, e⟩
    · rw [e]
      exact step
    · rw [e]
      rw [hacc] at step
      intro p hp
      rcases List.mem_cons.1 hp with rfl | hp
      · exact step q (List.mem_cons_self ..)
      · exact step p (List.mem_cons_of_mem _ hp)
    · rw [e]
      intro p hp
      rcases List.mem_cons.1 hp with rfl | hp
      · exact ⟨rfl, Nat.le_add_right _ _, by simp [openedPiece], rfl⟩
      · exact step p hp

theorem buildPlan_pieces : ∀ p ∈ buildPlan s reg first count kindOf,
    p.state = .planned ∧ first ≤ p.first ∧ p.first < first + count ∧ p.kind = kindOf p.first :=
  fun p hp => planned_pieces p (List.mem_reverse.1 hp)

/-- The first piece of a route plan is of the kind of the first block. -/
theorem planned_getLast? (hn : 0 < n) : ∃ p, (planned s reg first kindOf n).getLast? = some p ∧ p.first = first := by
  induction n with
  | zero => omega
  | succ n ih =>
    rw [planned_succ]
    rcases planBlock_cases (s := s) (reg := reg) (planned s reg first kindOf n) (first + n) (kindOf (first + n)) with
      ⟨q, qs, hacc, -, e⟩ | ⟨q, qs, hacc, -, -, e⟩ | ⟨-, e⟩
    · have hpos : 0 < n := by
        cases n with
        | zero => cases hacc
        | succ n => omega
      rw [e]
      exact ih hpos
    · have hpos : 0 < n := by
        cases n with
        | zero => cases hacc
        | succ n => omega
      obtain ⟨p, hp, hf⟩ := ih hpos
      rw [e]
      rw [hacc] at hp
      cases qs with
      | nil =>
        cases hp
        exact ⟨_, rfl, hf⟩
      | cons z zs => exact ⟨p, by simpa [List.getLast?_cons_cons] using hp, hf⟩
    · rw [e]
      cases n with
      | zero => exact ⟨openedPiece s reg (first + 0) (kindOf (first + 0)), rfl, rfl⟩
      | succ n =>
        obtain ⟨p, hp, hf⟩ := ih (Nat.succ_pos n)
        refine ⟨p, ?_, hf⟩
        rw [List.getLast?_cons, hp]
        rfl

theorem buildPlan_head (hc : 1 ≤ count) : ∃ p ps, buildPlan s reg first count kindOf = p :: ps ∧ p.state = .planned ∧
    p.kind = kindOf first := by
  obtain ⟨p, hp, hf⟩ := planned_getLast? (s := s) (reg := reg) (kindOf := kindOf) hc
  have hhead : (buildPlan s reg first count kindOf).head? = some p := by
    rw [buildPlan_eq, List.head?_reverse, hp]
  obtain ⟨ps, he⟩ := List.head?_eq_some_iff.1 hhead
  obtain ⟨hs, -, -, hk⟩ := buildPlan_pieces p (he ▸ List.mem_cons_self ..)
  exact ⟨p, ps, he, hs, hf ▸ hk⟩

/-- A route plan ends with its first LOST block (R62). -/
theorem planned_lost (hk : kindOf (first + k) = .lost) (hb : ∀ b, first ≤ b → b < first + k → kindOf b ≠ .lost)
    (hn : k < n) : planned s reg first kindOf n = openedPiece s reg (first + k) .lost :: planned s reg first kindOf k := by
  induction n with
  | zero => omega
  | succ n ih =>
    rw [planned_succ]
    rcases Nat.lt_or_ge k n with hlt | hge
    · rw [ih hlt]
      rfl
    · have hkn : n = k := by omega
      subst hkn
      rcases planBlock_cases (s := s) (reg := reg) (planned s reg first kindOf n) (first + n) (kindOf (first + n)) with
        ⟨q, qs, hacc, hq, -⟩ | ⟨q, qs, -, hq, hqk, -⟩ | ⟨-, e⟩
      · obtain ⟨-, h1, h2, h3⟩ := planned_pieces q (hacc ▸ List.mem_cons_self ..)
        exact absurd (h3 ▸ hq) (hb _ h1 h2)
      · exact absurd (hqk.trans hk) hq
      · rw [e, hk]

theorem buildPlan_lost (hk : kindOf (first + k) = .lost) (hb : ∀ b, first ≤ b → b < first + k → kindOf b ≠ .lost)
    (hn : k < count) : buildPlan s reg first count kindOf =
      buildPlan s reg first k kindOf ++ [openedPiece s reg (first + k) .lost] := by
  rw [buildPlan_eq, planned_lost hk hb hn, List.reverse_cons]
  rfl

/-- A plan of which no piece has an outcome or data yet. -/
def allPlanned (plan : List Piece) : Prop := ∀ p ∈ plan, p.state = .planned

theorem allPlanned_buildPlan : allPlanned (buildPlan s reg first count kindOf) := fun p hp => (buildPlan_pieces p hp).1

/-! ## Nothing to deliver yet (R69) -/

/-- Nothing is sent while the next block is not ready. -/
theorem deliverBlocks_notReady (m : Nat) (h : s.rec? c = some r) (hb : r.readyBlock (s.tag c).moved = none) :
    deliverBlocks m c s = s := by
  cases m with
  | zero => rfl
  | succ m =>
    unfold deliverBlocks
    rw [h]
    dsimp only
    rw [hb]
    split <;> rfl

/-- A READ whose next block is not ready, and lies before its end, goes on as it is. -/
theorem deliver_notReady (h : s.rec? c = some r) (hb : r.readyBlock (s.tag c).moved = none)
    (hm : (s.tag c).moved ≠ r.deliveryEnd) : deliver c s = s := by
  unfold deliver
  rw [deliverBlocks_notReady _ h hb]
  unfold deliveryCheck
  simp [h, hm]

/-- Nothing is delivered for a WRITE. -/
theorem deliver_write (h : s.rec? c = some r) (hw : r.op = .write) : deliver c s = s := by
  have hb : deliverBlocks (s.tag c).granted c s = s := by
    cases (s.tag c).granted with
    | zero => rfl
    | succ m =>
      unfold deliverBlocks
      simp [h, hw]
  unfold deliver
  rw [hb]
  unfold deliveryCheck
  simp [h, hw]

/-- No block of a plan is ready before an operation of it has ended. -/
theorem readyBlock_allPlanned {i : Nat} (hp : allPlanned r.plan) (hpath : r.path = some .region) : r.readyBlock i = none := by
  unfold Record.readyBlock
  rw [hpath]
  dsimp only
  split
  · rfl
  · cases h : pieceAt? r.plan (r.first + i) with
    | none => rfl
    | some p => simp [hp p (List.mem_of_find?_eq_some h)]

/-! ## The first claim (R67) -/

/-- A record that is ACTIVE with its plan, once the buffers of its first piece are claimed (R55). -/
theorem startedAs_claimNext {p : Piece} {ps : List Piece} (h : u.rec? c = some x) (hs : x.state = .active)
    (hpath : x.path = some .region) (hv : x.region = some v) (hplan : x.plan = p :: ps) (hp : p.state = .planned)
    (hk : p.kind ≠ .lost) : (claimNext c u).startedAs u c v x.plan ∧ (claimNext c u).rec? c = some x := by
  have hrec : (claimNext c u).rec? c = some x := (rec_congr c (by simp)).trans h
  have hnext : followingClaim c x.plan = [⟨.piece c 0, ((x.plan[0]?).map (·.count)).getD 0⟩] := by
    have : nextPlanned x.plan = some 0 := by simp [nextPlanned, hplan, List.findIdx?_cons, hp, hk]
    simp only [followingClaim, this]
  exact ⟨⟨⟨x, hrec, hs, hpath, hv, rfl⟩, hnext ▸ (claimNext_pool h).2, by simp, by simp, by simp⟩, hrec⟩

/-- What is started from a state is started from any with the same claims and frames. -/
theorem startedAs_congr (h : t.startedAs u c v plan) (hp : u.pool = s.pool) (ha : u.outA = s.outA) (hb : u.outB = s.outB)
    (ho : u.outT = s.outT) : t.startedAs s c v plan := by
  unfold State.startedAs at *
  rwa [hp, ha, hb, ho] at h

/-! ## The cut of a fresh plan (R62, R77) -/

/-- The record of a tag after a change of it that keeps its name. -/
theorem mapRec_some {f : Record → Record} (h : s.rec? c = some r) (hf : ∀ y, (f y).id = y.id) :
    (mapRec c f s).rec? c = some (f r) := (rec?_mapRec hf).trans (by rw [h]; rfl)

/-- Buffers given back leave the claims that wait (R66). -/
theorem claims_release (o k : BufOwner) (m : Nat) (s : State) : (release o m s).pool.claims k = s.pool.claims k := by
  cases o with
  | host p => cases p <;> cases k with
    | host q => cases q <;> rfl
    | internal => rfl
  | internal => cases k with
    | host q => cases q <;> rfl
    | internal => rfl

/-- Dropping no claim leaves the claims that wait. -/
theorem claims_dropClaims_none {o : BufOwner} {gone : ClaimFor → Bool} (h : ∀ y, gone y = false) (k : BufOwner) :
    (dropClaims o gone s).pool.claims k = s.pool.claims k := by
  have e : (s.pool.claims o).filter (fun y => !gone y.who) = s.pool.claims o :=
    List.filter_eq_self.2 fun y _ => by simp [h]
  unfold dropClaims
  rw [e]
  cases o with
  | host p => cases p <;> cases k with
    | host q => cases q <;> rfl
    | internal => rfl
  | internal => cases k with
    | host q => cases q <;> rfl
    | internal => rfl

/-- Withdrawing or freeing no piece of a record changes neither it nor the claims that wait. -/
theorem withdrawPieces_none {which : Piece → Bool} (h : s.rec? c = some r) (hw : ∀ p ∈ r.plan, which p = false) :
    (withdrawPieces c which s).rec? c = some r ∧
      ∀ o, (withdrawPieces c which s).pool.claims o = s.pool.claims o := by
  have hplan : (r.plan.map fun p => if which p then p.drop .withdrawn else p) = r.plan := by
    conv_rhs => rw [← List.map_id r.plan]
    exact List.map_congr_left fun p hp => by simp [hw p hp]
  have hhit (i : Nat) : (r.plan[i]?).any which = false := by
    cases hi : r.plan[i]? with
    | none => rfl
    | some p => simpa using hw p (List.mem_of_getElem? hi)
  refine ⟨by rw [withdrawPieces_rec? h, hplan], fun o => ?_⟩
  unfold withdrawPieces
  rw [h]
  dsimp only
  rw [claims_release, claims_dropClaims_none, withdrawHost_pool, mapRec_pool]
  intro y
  cases y with
  | piece d i => simp [hhit i]
  | _ => rfl

theorem freePieces_none {which : Piece → Bool} (h : s.rec? c = some r) (hw : ∀ p ∈ r.plan, which p = false) :
    (freePieces c which s).rec? c = some r ∧ ∀ o, (freePieces c which s).pool.claims o = s.pool.claims o := by
  have hplan : (r.plan.map fun p => if which p then p.drop p.state else p) = r.plan := by
    conv_rhs => rw [← List.map_id r.plan]
    exact List.map_congr_left fun p hp => by simp [hw p hp]
  refine ⟨by rw [freePieces_rec? h, hplan], fun o => ?_⟩
  unfold freePieces
  rw [h]
  dsimp only
  rw [claims_release, mapRec_pool]

/-- A READ cut at the LOST block of its fresh plan keeps its plan and its claims (R62, R77). -/
theorem cutRead_fresh {res : Result} {f : Nat} (h : s.rec? c = some r) (hst : r.state ≠ .orphaned) (hcut : r.cut = none)
    (hres : r.result = none) (hp : allPlanned r.plan) (hlow : ∀ p ∈ r.plan, p.kind ≠ .lost → p.first < f) :
    (cutRead c res f s).rec? c = some { r with cut := some f, result := some ⟨res, some f⟩ } ∧
      ∀ o, (cutRead c res f s).pool.claims o = s.pool.claims o := by
  have h1 : (mapRec c (fun y => { y with cut := some f, result := failResult y.result res f }) s).rec? c =
      some { r with cut := some f, result := some ⟨res, some f⟩ } := by
    refine (mapRec_some (f := fun y => { y with cut := some f, result := failResult y.result res f }) h fun _ => rfl).trans ?_
    simp [failResult, hres]
  obtain ⟨h2, hc2⟩ := withdrawPieces_none (which := Piece.cutDrops f) h1 fun p hpm => by
    by_cases hk : p.kind = .lost
    · simp [Piece.cutDrops, hk]
    · have := hlow p hpm hk
      simp only [Piece.cutDrops, Bool.and_eq_false_iff, decide_eq_false_iff_not]
      exact .inl (.inr (by omega))
  obtain ⟨h3, hc3⟩ := freePieces_none (which := Piece.beyondCut f) h2 fun p hpm => by
    have := hp p hpm
    simp [Piece.beyondCut, Piece.isOver, this]
  have e : cutRead c res f s = freePieces c (Piece.beyondCut f) (withdrawPieces c (Piece.cutDrops f)
      (mapRec c (fun y => { y with cut := some f, result := failResult y.result res f }) s)) := by
    unfold cutRead
    simp [h, hst, hcut]
  rw [e]
  exact ⟨h3, fun o => (hc3 o).trans ((hc2 o).trans (by rw [mapRec_pool]))⟩

/-! ## The start of a record (R55) -/

/-- The record is ACTIVE with its plan. -/
def activated (c : CmdId) (plan : List Piece) (s : State) : State :=
  mapRec c (fun y => { y with state := .active, plan := plan }) s

theorem activated_rec? (plan : List Piece) (h : s.rec? c = some x) :
    (activated c plan s).rec? c = some { x with state := .active, plan := plan } := mapRec_some h fun _ => rfl

@[simp] theorem activated_frame (c : CmdId) (plan : List Piece) (s : State) : (activated c plan s).ov = s.ov ∧
    (activated c plan s).te = s.te ∧ (activated c plan s).map = s.map ∧ (activated c plan s).pool = s.pool ∧
    (activated c plan s).hpA = s.hpA ∧ (activated c plan s).hpB = s.hpB ∧ (activated c plan s).mgA = s.mgA ∧
    (activated c plan s).mgB = s.mgB ∧ (activated c plan s).outA = s.outA ∧ (activated c plan s).outB = s.outB ∧
    (activated c plan s).outT = s.outT ∧ (activated c plan s).adm.order = s.adm.order ∧
    (activated c plan s).adm.deferred = s.adm.deferred :=
  ⟨rfl, rfl, rfl, rfl, rfl, rfl, rfl, rfl, rfl, rfl, rfl, rfl, rfl⟩

/-- A start after a settlement that succeeds, or with none to make (R29, R55). -/
theorem startRegion_settled (h : u.rec? c = some x) (hv : x.region = some v) (hs : settleRecord x v u = (true, w)) :
    startRegion c u = deliver c (claimNext c (cutLost c (w.routePlan x v) (activated c (w.routePlan x v) w))) := by
  unfold startRegion
  simp only [h, hv, hs]
  rfl

theorem cutLost_none (hp : ∀ p ∈ plan, p.kind ≠ .lost) : cutLost c plan u = u := by
  have : plan.find? (fun p => decide (p.kind = .lost)) = none :=
    List.find?_eq_none.2 fun p hpm => by simpa using hp p hpm
  unfold cutLost
  rw [this]

theorem settleRecord_read (ho : r.op = .read) : settleRecord r v u = (true, u) := by
  unfold settleRecord
  simp [ho]

/-- A fresh record of a READ: its plan is still to be made, nothing of it has been sent, and it is not cut. -/
structure FreshRead (u : State) (c : CmdId) (x : Record) (v : RegionView) : Prop where
  rec?    : u.rec? c = some x
  op      : x.op = .read
  path    : x.path = some .region
  region  : x.region = some v
  winding : x.winding = false
  cut     : x.cut = none
  result  : x.result = none
  moved   : (u.tag c).moved = 0
  count   : 1 ≤ x.count

/-- The plan of a READ as the grain lookup gives it (R61, R62). -/
def State.readPlan (u : State) (x : Record) (v : RegionView) : List Piece :=
  buildPlan u (u.map.active.region v.index) x.first x.count (u.kindOf .read v)

theorem startRegion_freshRead (h : FreshRead u c x v) :
    startRegion c u = deliver c (claimNext c (cutLost c (u.readPlan x v) (activated c (u.readPlan x v) u))) := by
  rw [startRegion_settled h.rec? h.region (settleRecord_read h.op)]
  unfold State.routePlan
  rw [h.op]
  rfl

/-- A READ without a LOST block becomes ACTIVE with its plan (R55, R62). -/
theorem startRegion_read (h : FreshRead u c x v)
    (hb : ∀ b, x.first ≤ b → b < x.first + x.count → u.kindOf .read v b ≠ .lost) :
    (startRegion c u).startedAs u c v (u.readPlan x v) ∧ (startRegion c u).adm.order = u.adm.order := by
  obtain ⟨p, ps, hplan, hp, hk⟩ := buildPlan_head (s := u) (reg := u.map.active.region v.index) (first := x.first)
    (kindOf := u.kindOf .read v) h.count
  have hrec := activated_rec? (u.readPlan x v) h.rec?
  have hcount := h.count
  obtain ⟨hst, hfin⟩ := startedAs_claimNext hrec rfl h.path h.region hplan hp
    (hk ▸ hb _ (Nat.le_refl _) (by omega))
  have hnone : cutLost c (u.readPlan x v) (activated c (u.readPlan x v) u) = activated c (u.readPlan x v) u :=
    cutLost_none fun q hq => by
      obtain ⟨-, h1, h2, h3⟩ := buildPlan_pieces q hq
      exact h3 ▸ hb _ h1 h2
  have hdel : deliver c (claimNext c (activated c (u.readPlan x v) u)) = claimNext c (activated c (u.readPlan x v) u) := by
    refine deliver_notReady hfin (readyBlock_allPlanned allPlanned_buildPlan h.path) ?_
    rw [tag_congr (s := u) c (by simp) (by simp), h.moved]
    simp only [Record.deliveryEnd, h.cut]
    omega
  rw [startRegion_freshRead h, hnone, hdel]
  exact ⟨startedAs_congr hst rfl rfl rfl rfl, by simp⟩

/-- The record of a READ cut at a LOST block of its fresh plan. -/
def Record.cutLostAt (x : Record) (plan : List Piece) (f : Nat) : Record :=
  { x with state := .active, plan := plan, cut := some f, result := some ⟨.lostData, some f⟩ }

/-- A fresh plan with a LOST block is cut there (R62, R77). -/
theorem cutLost_at (h : FreshRead u c x v) (hk : k < x.count) (hl : u.kindOf .read v (x.first + k) = .lost)
    (hb : ∀ b, x.first ≤ b → b < x.first + k → u.kindOf .read v b ≠ .lost) :
    (cutLost c (u.readPlan x v) (activated c (u.readPlan x v) u)).rec? c =
        some (x.cutLostAt (u.readPlan x v) (x.first + k)) ∧
      (∀ o, (cutLost c (u.readPlan x v) (activated c (u.readPlan x v) u)).pool.claims o = u.pool.claims o) ∧
      cutLost c (u.readPlan x v) (activated c (u.readPlan x v) u) =
        cutRead c .lostData (x.first + k) (activated c (u.readPlan x v) u) := by
  have hplan : u.readPlan x v = buildPlan u (u.map.active.region v.index) x.first k (u.kindOf .read v) ++
      [openedPiece u (u.map.active.region v.index) (x.first + k) .lost] := buildPlan_lost hl hb hk
  have hfront : ∀ p ∈ buildPlan u (u.map.active.region v.index) x.first k (u.kindOf .read v),
      p.kind ≠ .lost ∧ p.first < x.first + k := by
    intro p hp
    obtain ⟨-, h1, h2, h3⟩ := buildPlan_pieces p hp
    exact ⟨h3 ▸ hb _ h1 h2, h2⟩
  have hfind : (u.readPlan x v).find? (fun p => decide (p.kind = .lost)) =
      some (openedPiece u (u.map.active.region v.index) (x.first + k) .lost) := by
    rw [hplan, List.find?_append, List.find?_eq_none.2 fun p hp => by simpa using (hfront p hp).1]
    rfl
  have hcut : cutLost c (u.readPlan x v) (activated c (u.readPlan x v) u) =
      cutRead c .lostData (x.first + k) (activated c (u.readPlan x v) u) := by
    unfold cutLost
    rw [hfind]
    rfl
  rw [hcut]
  obtain ⟨hrec, hclaims⟩ := cutRead_fresh (res := .lostData) (f := x.first + k) (activated_rec? (u.readPlan x v) h.rec?)
    (by simp) h.cut h.result allPlanned_buildPlan (by
      intro p hp hpk
      rw [hplan] at hp
      rcases List.mem_append.1 hp with hp | hp
      · exact (hfront p hp).2
      · exact absurd (congrArg Piece.kind (List.mem_singleton.1 hp)) hpk)
  exact ⟨hrec, hclaims, rfl⟩

theorem cutRead_order (res : Result) (f : Nat) (s : State) : (cutRead c res f s).adm.order = s.adm.order := by simp

/-- A READ with a LOST block after its first becomes ACTIVE with its plan, cut at the block (R55, R62, R77). -/
theorem startRegion_read_cut (h : FreshRead u c x v) (h0 : 0 < k) (hk : k < x.count)
    (hl : u.kindOf .read v (x.first + k) = .lost)
    (hb : ∀ b, x.first ≤ b → b < x.first + k → u.kindOf .read v b ≠ .lost) :
    (startRegion c u).startedAs u c v (u.readPlan x v) ∧ (startRegion c u).adm.order = u.adm.order ∧
      (startRegion c u).rec? c = some (x.cutLostAt (u.readPlan x v) (x.first + k)) := by
  obtain ⟨hrec, hclaims, hcut⟩ := cutLost_at h hk hl hb
  obtain ⟨p, ps, hplan, hp, hpk⟩ := buildPlan_head (s := u) (reg := u.map.active.region v.index) (first := x.first)
    (kindOf := u.kindOf .read v) h.count
  obtain ⟨hst, hfin⟩ := startedAs_claimNext hrec rfl h.path h.region hplan hp (hpk ▸ hb _ (Nat.le_refl _) (by omega))
  rw [startRegion_freshRead h]
  generalize hw : cutLost c (u.readPlan x v) (activated c (u.readPlan x v) u) = w at *
  have hdel : deliver c (claimNext c w) = claimNext c w := by
    refine deliver_notReady hfin (readyBlock_allPlanned allPlanned_buildPlan h.path) ?_
    rw [tag_congr (s := u) c (by simp [hcut]) (by simp [hcut]), h.moved]
    simp only [Record.deliveryEnd, Record.cutLostAt]
    omega
  rw [hdel]
  obtain ⟨hrecord, hclaim, hA, hB, hT⟩ := hst
  rw [hclaims] at hclaim
  exact ⟨⟨hrecord, hclaim, hA.trans (by simp [hcut]), hB.trans (by simp [hcut]), hT.trans (by simp [hcut])⟩,
    by simp [hcut], hfin⟩

/-- A READ whose first block is LOST ends LOST_DATA at once (R62, R77). -/
theorem startRegion_read_lost (h : FreshRead u c x v) (hl : u.kindOf .read v x.first = .lost) (ha : u.answerable c) :
    (startRegion c u).endedWith u c [u.statusFor c .lostData 0 (some x.first) 0] := by
  obtain ⟨hrec, -, hcut⟩ := cutLost_at (k := 0) h h.count hl fun b h1 h2 => absurd h1 (by omega)
  obtain ⟨hup, hd⟩ := ha
  rw [startRegion_freshRead h]
  generalize hw : cutLost c (u.readPlan x v) (activated c (u.readPlan x v) u) = w at *
  have hfin : (claimNext c w).rec? c = some (x.cutLostAt (u.readPlan x v) (x.first + 0)) :=
    (rec_congr c (by simp)).trans hrec
  have htag : ((claimNext c w).tag c).moved = 0 := by
    rw [tag_congr (s := u) c (by simp [hcut]) (by simp [hcut]), h.moved]
  have hend : deliver c (claimNext c w) = endRecord c .lostData 0 (some x.first) 0 (claimNext c w) := by
    unfold deliver
    rw [deliverBlocks_notReady _ hfin (readyBlock_allPlanned allPlanned_buildPlan h.path)]
    unfold deliveryCheck
    rw [hfin]
    dsimp only
    rw [if_pos ⟨h.op, rfl, h.winding, by rw [htag]; simp [Record.deliveryEnd, Record.cutLostAt]⟩, htag]
    rfl
  rw [hend]
  exact endRecord_ends_of _ _ _ _ (out_congr _ (by simp [hcut]) (by simp [hcut]))
    (mg_congr _ (by simp [hcut]) (by simp [hcut]))
    (by rw [hp_congr (s := u) _ (by simp [hcut]) (by simp [hcut]), hup]; simp)
    ((deferred_congr (s := u) _ (by simp [hcut])).trans hd)

/-! ## The start of a WRITE (R55, R63) -/

/-- A WRITE that has settled, or has nothing to settle, becomes ACTIVE with its plan (R55). -/
theorem startRegion_write (h : u.rec? c = some x) (ho : x.op = .write) (hpath : x.path = some .region)
    (hv : x.region = some v) (hc : 1 ≤ x.count) (hs : settleRecord x v u = (true, w)) (hw : w.rec? c = some x) :
    (startRegion c u).startedAs w c v (w.routePlan x v) ∧ (startRegion c u).adm.order = w.adm.order ∧
      (startRegion c u).ov = w.ov := by
  have hnot (b : Nat) : w.kindOf x.op v b ≠ .lost := by
    unfold State.kindOf
    rw [ho]
    split
    · rename_i e
      cases e
    · split <;> simp
  obtain ⟨p, ps, hplan, hp, hk⟩ := buildPlan_head (s := w) (reg := w.map.active.region v.index) (first := x.first)
    (kindOf := w.kindOf x.op v) hc
  obtain ⟨hst, hfin⟩ := startedAs_claimNext (activated_rec? (w.routePlan x v) hw) rfl hpath hv hplan hp (hk ▸ hnot _)
  have hnone : cutLost c (w.routePlan x v) (activated c (w.routePlan x v) w) = activated c (w.routePlan x v) w :=
    cutLost_none fun q hq => (buildPlan_pieces q hq).2.2.2 ▸ hnot _
  rw [startRegion_settled h hv hs, hnone, deliver_write hfin ho]
  exact ⟨startedAs_congr hst rfl rfl rfl rfl, by simp, by simp⟩

end Sys2Proof.Machine
end

section
/-! SUPPORT. Check 7 of admission: a record is placed behind the claims before it, held by one that conflicts, and started
otherwise (R50, R55). -/

namespace Sys2Proof.Machine

variable {s t u w : State} {c : CmdId} {r x : Record} {v : RegionView} {i : Nat}

/-! ## The record that is placed (R46) -/

/-- A record as the checks leave it: it has its path and its region (R46). -/
def Record.inRegion (r : Record) (v : RegionView) : Record := { r with path := some .region, region := some v }

theorem decided_rec? (h : s.nextAdmission = some r) :
    (decided r i (servePort r.id.port s)).rec? r.id = some (r.inRegion (s.viewOf i)) :=
  mapRec_some (s := servePort r.id.port s) (nextAdmission_rec? (s := s) h) fun _ => rfl

theorem decided_rec?_other {d : CmdId} (hd : d ≠ r.id) : (decided r i (servePort r.id.port s)).rec? d = s.rec? d :=
  rec?_mapRec_other (s := servePort r.id.port s) (fun _ => rfl) hd

/-- The claim of a record with its region (R49). -/
theorem claimAt_inRegion (h : w.rec? r.id = some (r.inRegion v)) (ht : w.te = s.te) :
    w.claimAt (.cmd r.id) = some ⟨r.first, r.count, decide (r.op = .write), s.borrowed r.id⟩ := by
  unfold State.claimAt
  dsimp only
  have hb : w.borrowed r.id = s.borrowed r.id := by
    unfold State.borrowed
    rw [ht]
  rw [h, hb]
  rfl

/-- The claims of the others are as before. -/
theorem claimAt_other {ref : ClaimRef} (h : ∀ d, d ≠ r.id → w.rec? d = s.rec? d) (ht : w.te = s.te)
    (hr : ref ≠ .cmd r.id) : w.claimAt ref = s.claimAt ref := by
  cases ref with
  | cmd d =>
    unfold State.claimAt State.borrowed
    dsimp only
    rw [h d fun e => hr (e ▸ rfl), ht]
  | _ => rfl

/-- A record is held when its range conflicts with a claim in the order (R50, R51). -/
theorem heldBy_inRegion (h : w.rec? r.id = some (r.inRegion v)) (ho : ∀ d, d ≠ r.id → w.rec? d = s.rec? d)
    (ht : w.te = s.te) (hord : w.adm.order = s.adm.order) (hn : ∀ x ∈ s.adm.order, x.ref ≠ .cmd r.id) :
    w.heldBy w.adm.order (.cmd r.id) = s.claimAhead r := by
  unfold State.heldBy State.conflictsWith State.claimAhead
  rw [claimAt_inRegion h ht, hord]
  simp only [State.queuedBefore, Bool.or_false]
  rw [Bool.eq_iff_iff, List.any_eq_true, List.any_eq_true]
  refine exists_congr fun x => and_congr_right fun hx => ?_
  have hclaim : w.claimAt x.ref = s.claimAt x.ref := claimAt_other ho ht (hn x hx)
  generalize w.claimAt x.ref = claim at hclaim ⊢
  subst hclaim
  exact Iff.rfl

/-- The record at the end of the admitted order (R50). -/
def placedLast (c : CmdId) (s : State) : State := placeAtEnd (.cmd c) (unqueue c s)

theorem placedLast_order (c : CmdId) (s : State) : ∃ g, (placedLast c s).adm.order = s.adm.order ++ [⟨.cmd c, g⟩] := by
  obtain ⟨g, hg⟩ := placeAtEnd_eq (.cmd c) (unqueue c s)
  exact ⟨g, by rw [placedLast, hg]; simp⟩

theorem placedLast_rec? (c d : CmdId) (s : State) : (placedLast c s).rec? d = s.rec? d :=
  rec_congr d (by simp [placedLast])

theorem placeRegion_held (h : s.heldBy s.adm.order (.cmd c) = true) :
    placeRegion c s = mapRec c (fun x => { x with state := .held }) (placedLast c s) := by
  unfold placeRegion
  simp only [h]
  rfl

theorem placeRegion_starts (h : s.heldBy s.adm.order (.cmd c) = false) :
    placeRegion c s = startRegion c (placedLast c s) := by
  unfold placeRegion
  simp only [h]
  rfl

/-- A held record stands at the end of the order, and nothing else of it has been done (R50). -/
theorem placeRegion_held_facts (h : w.rec? r.id = some (r.inRegion v)) (hh : w.heldBy w.adm.order (.cmd r.id) = true)
    (ho : w.adm.order = s.adm.order) : ∃ g, (placeRegion r.id w).ov = w.ov ∧
      (placeRegion r.id w).rec? r.id = some { r with path := some .region, region := some v, state := .held } ∧
      (placeRegion r.id w).adm.order = s.adm.order ++ [⟨.cmd r.id, g⟩] ∧ (placeRegion r.id w).outA = w.outA ∧
      (placeRegion r.id w).outB = w.outB ∧ (placeRegion r.id w).outT = w.outT := by
  obtain ⟨g, hg⟩ := placedLast_order r.id w
  rw [placeRegion_held hh]
  refine ⟨g, rfl, mapRec_some (s := placedLast r.id w) ((placedLast_rec? _ _ _).trans h) fun _ => rfl, ?_, rfl, rfl, rfl⟩
  rw [← ho, ← hg]
  rfl

/-! ## A READ (R55, R62, R77) -/

/-- A READ that passes the checks is placed with its region (R46, R47). -/
theorem admission_read (h : s.reachesRegion r i) (ho : r.op = .read) :
    exec .admission s = .next (placeRegion r.id (decided r i (servePort r.id.port s))) := by
  have hadmit := reachesRegion_admitted h (.inl ho)
  obtain ⟨-, -, -, -, -, -, hoff, hi, hdec, -⟩ := h
  rw [hadmit, admitRegion_passes (s := servePort r.id.port s) hoff hi hdec, if_neg (by simp [ho])]

/-- The state a READ is started from at its admission. -/
theorem freshRead_placed (h : s.reachesRegion r i) (ho : r.op = .read) (hw : r.winding = false) (hc : r.cut = none)
    (hr : r.result = none) (hm : (s.tag r.id).moved = 0) :
    FreshRead (placedLast r.id (decided r i (servePort r.id.port s))) r.id (r.inRegion (s.viewOf i)) (s.viewOf i) := by
  obtain ⟨hnext, -, -, h1, -⟩ := h
  refine ⟨(placedLast_rec? _ _ _).trans (decided_rec? hnext), ho, rfl, rfl, hw, hc, hr, ?_, h1⟩
  rw [tag_congr (s := s) r.id (t := placedLast r.id (decided r i (servePort r.id.port s))) rfl rfl, hm]

/-- Placing a record leaves what its plan looks at. -/
theorem readPlan_placed : (placedLast r.id (decided r i (servePort r.id.port s))).readPlan (r.inRegion v) v =
    buildPlan s (s.map.active.region v.index) r.first r.count (s.kindOf .read v) := buildPlan_congr rfl

theorem decided_heldBy (h : s.reachesRegion r i) : (decided r i (servePort r.id.port s)).heldBy
    (decided r i (servePort r.id.port s)).adm.order (.cmd r.id) = s.claimAhead r := by
  obtain ⟨hnext, -, -, -, -, -, -, -, -, hn⟩ := h
  exact heldBy_inRegion (decided_rec? hnext) (fun d hd => decided_rec?_other hd) rfl rfl hn

/-- Settles O16: the record is placed, and held or started from the plan of its fresh state. -/
theorem admissionHoldsOrStartsARead : Obligations.AdmissionHoldsOrStartsARead := by
  intro s r i h ho hw hc hr hm
  have hexec := admission_read h ho
  have hheld := decided_heldBy h
  have hfresh := freshRead_placed h ho hw hc hr hm
  obtain ⟨g, hg⟩ := placedLast_order r.id (decided r i (servePort r.id.port s))
  refine ⟨fun hcl => ?_, fun hcl => ?_⟩
  · obtain ⟨g, -, hrec, hord, hA, hB, hT⟩ :=
      placeRegion_held_facts (s := s) (decided_rec? h.1) (hheld.trans hcl) rfl
    exact ⟨_, g, hexec, hrec, hord, hA, hB, hT⟩
  · rw [placeRegion_starts (hheld.trans hcl)] at hexec
    refine ⟨fun hb => ?_, fun hl ha => ?_, fun k h0 hk hl hb => ?_⟩
    · obtain ⟨hst, hord⟩ := startRegion_read hfresh hb
      rw [readPlan_placed] at hst
      exact ⟨_, g, hexec, hord.trans hg, startedAs_congr hst rfl rfl rfl rfl⟩
    · obtain ⟨hup, hd⟩ := ha
      obtain ⟨hgone, hopen, hout⟩ := startRegion_read_lost hfresh hl ⟨(congrArg _ (hp_congr _ rfl rfl)).trans hup,
        (deferred_congr _ (by simp [placedLast, decided, servePort])).trans hd⟩
      refine ⟨_, hexec, hgone, hopen, hout.trans ?_⟩
      rw [out_congr (s := s) r.id.port rfl rfl]
      unfold State.statusFor
      rw [mg_congr (s := s) r.id.port rfl rfl]
      rfl
    · obtain ⟨hst, hord, hrec⟩ := startRegion_read_cut hfresh h0 hk hl hb
      rw [readPlan_placed] at hst
      exact ⟨_, g, _, hexec, hord.trans hg, startedAs_congr hst rfl rfl rfl rfl, hrec, rfl, rfl⟩

end Sys2Proof.Machine
end

section
/-! SUPPORT. The start of a WRITE: from the base area, or from the slots its settlement reserves; and its admission, which
reserves them first (R24, R27, R29, R47, R55, R63). -/

namespace Sys2Proof.Machine

variable {s t u w : State} {c : CmdId} {r x : Record} {v : RegionView} {i g : Nat}

/-! ## The start of a WRITE (R55, R63) -/

theorem kindOf_write_base (hv : v.policy.isOverlay = false) : s.kindOf .write v = fun _ => .base := by
  funext b
  simp [State.kindOf, hv]

theorem kindOf_write_slot (hv : v.policy.isOverlay = true) :
    s.kindOf .write v = fun b => .slot (s.writeSlot (grainOf b)) := by
  funext b
  simp [State.kindOf, hv]

theorem writeSlot_congr (h : t.ov = s.ov) : t.writeSlot g = s.writeSlot g := by
  unfold State.writeSlot
  rw [slotOf_congr g (congrArg _ h), reservation?_congr g (congrArg _ h)]

/-- A WRITE to a base area has nothing to settle and is routed there (R55, R63). -/
theorem startRegion_base (h : u.rec? x.id = some x) (ho : x.op = .write) (hp : x.path = some .region)
    (hr : x.region = some v) (hc : 1 ≤ x.count) (hv : v.policy.isOverlay = false) :
    (startRegion x.id u).adm.order = u.adm.order ∧ (startRegion x.id u).ov = u.ov ∧
      (startRegion x.id u).startedAs u x.id v
        (buildPlan u (u.map.active.region v.index) x.first x.count fun _ => .base) := by
  have hs : settleRecord x v u = (true, u) := by
    unfold settleRecord
    simp [hv]
  obtain ⟨hst, hord, hov⟩ := startRegion_write h ho hp hr hc hs h
  unfold State.routePlan at hst
  rw [ho, kindOf_write_base hv] at hst
  exact ⟨hord, hov, hst⟩

/-- A WRITE to an OVERLAY or KEEP effective policy settles and is routed to the slots it then uses (R29, R55, R63). -/
theorem startRegion_overlay (h : u.rec? x.id = some x) (ho : x.op = .write) (hp : x.path = some .region)
    (hr : x.region = some v) (hc : 1 ≤ x.count) (hv : v.policy.isOverlay = true)
    (hn : (u.ov.reservations.map (·.grain)).Nodup)
    (hroom : u.roomFor (u.ov.ring.length + (u.comeBack x.id (u.boundGrains x)).length) (u.neededBy x)) :
    (startRegion x.id u).adm.order = u.adm.order ∧ (startRegion x.id u).ov = (settledState x u).ov ∧
      (startRegion x.id u).startedAs u x.id v (buildPlan u (u.map.active.region v.index) x.first x.count
        fun b => .slot ((startRegion x.id u).writeSlot (grainOf b))) := by
  have hs : settleRecord x v u = (true, settledState x u) := by
    unfold settleRecord
    rw [if_pos (by simp [ho, hv]), settle_room hn hroom]
  have hrec : (settledState x u).rec? x.id = some x := (rec_congr _ (by simp)).trans h
  obtain ⟨hst, hord, hov⟩ := startRegion_write h ho hp hr hc hs hrec
  have hkind : (settledState x u).kindOf .write v = fun b => .slot ((startRegion x.id u).writeSlot (grainOf b)) := by
    rw [kindOf_write_slot hv]
    funext b
    rw [writeSlot_congr hov]
  unfold State.routePlan at hst
  rw [ho, hkind, buildPlan_congr (s := u) (by simp), show (settledState x u).map = u.map by simp] at hst
  exact ⟨hord.trans (by simp), hov, startedAs_congr hst (by simp) (by simp) (by simp) (by simp)⟩

/-- What settlement leaves is read from the overlay store. -/
theorem settledFor_congr {ring : List Nat} (h : t.ov = u.ov) (hu : u.settledFor s ring r) : t.settledFor s ring r := by
  unfold State.settledFor State.reservation? at *
  rwa [h]

/-! ## Settlement after a taking (R27, R29) -/

/-- A record that shares a reservation does not share it twice. -/
theorem join_join (c : CmdId) (y : Reservation) : (y.join c).join c = y.join c := by
  unfold Reservation.join
  split
  case isTrue h => rfl
  case isFalse h => simp

/-- Giving up a share undoes it. -/
theorem without_join (c : CmdId) (y : Reservation) : (y.join c).without c = y.without c := by
  unfold Reservation.join
  split
  case isTrue h => rfl
  case isFalse h =>
    obtain ⟨h1, -⟩ := not_or.1 h
    simp [Reservation.without, h1]

theorem alone_join (c : CmdId) (y : Reservation) : (y.join c).alone c = y.alone c := by
  unfold Reservation.join
  split
  case isTrue h => rfl
  case isFalse h =>
    obtain ⟨h1, -⟩ := not_or.1 h
    simp [Reservation.alone, h1]

/-- A state after a record has taken what it needs: the table and the relocations as before, and the reservations of its
taking. -/
structure Taken (s u : State) (r : Record) : Prop where
  table    : u.ov.table = s.ov.table
  relocs   : u.te.relocs = s.te.relocs
  ring     : u.ov.ring = s.ov.ring.drop (s.neededBy r).length
  reserved : u.reservedFor s s.ov.ring r.id (grainsOf r.first r.count) (s.neededBy r)
  room     : (s.neededBy r).length ≤ s.ov.ring.length
  nodup    : (s.ov.reservations.map (·.grain)).Nodup → (u.ov.reservations.map (·.grain)).Nodup

theorem Taken.slotOf (h : Taken s u r) (g : Nat) : u.slotOf g = s.slotOf g := slotOf_congr g h.table

theorem Taken.boundGrains (h : Taken s u r) : u.boundGrains r = s.boundGrains r :=
  List.filter_congr fun g _ => by rw [h.slotOf]

/-- What a needed grain has after the taking. -/
theorem Taken.fresh (h : Taken s u r) (hg : g ∈ s.neededBy r) : ∃ n, u.reservation? g = some ⟨g, n, r.id, []⟩ := by
  obtain ⟨j, hj⟩ := List.mem_iff_getElem?.1 hg
  obtain ⟨n, -, hn⟩ := h.reserved.1 j g hj
  exact ⟨n, hn⟩

theorem not_needed_of_slot {n : Nat} (h : s.slotOf g = some n) : g ∉ s.neededBy r := by
  intro hm
  have := (List.mem_filter.1 hm).2
  unfold State.needsSlot at this
  simp [h] at this

/-- The record needs nothing more (R29). -/
theorem Taken.neededBy (h : Taken s u r) : u.neededBy r = [] := by
  refine List.filter_eq_nil_iff.2 fun g hg hneed => ?_
  unfold State.needsSlot at hneed
  rw [h.slotOf, h.relocs] at hneed
  by_cases hin : g ∈ s.neededBy r
  · obtain ⟨n, hn⟩ := h.fresh hin
    simp [hn] at hneed
  · have hother := h.reserved.2 g hin
    refine hin (List.mem_filter.2 ⟨hg, ?_⟩)
    cases hr : s.reservation? g with
    | some y => simp [hother, hr] at hneed
    | none => simpa [State.needsSlot, hother, hr] using hneed

/-- The reservations of the record's grains that need none. -/
theorem Taken.touched (h : Taken s u r) (hg : g ∈ grainsOf r.first r.count) (hn : g ∉ s.neededBy r) :
    u.reservation? g = (s.reservation? g).map (Reservation.join r.id) := by
  rw [h.reserved.2 g hn]
  simp [hg]

theorem Taken.bound (h : Taken s u r) (hg : g ∈ s.boundGrains r) :
    u.reservation? g = (s.reservation? g).map (Reservation.join r.id) := by
  obtain ⟨hin, hs⟩ := List.mem_filter.1 hg
  obtain ⟨n, hn⟩ := Option.isSome_iff_exists.1 hs
  exact h.touched hin (not_needed_of_slot hn)

/-- What comes back at its settlement is what came back before the taking. -/
theorem Taken.comeBack (h : Taken s u r) : u.comeBack r.id (u.boundGrains r) = s.comeBack r.id (s.boundGrains r) := by
  rw [h.boundGrains, comeBack_eq, comeBack_eq]
  refine List.filterMap_congr fun g hg => ?_
  rw [h.bound hg]
  cases s.reservation? g with
  | none => rfl
  | some y => exact alone_join _ _

theorem Taken.roomFor (h : Taken s u r) (n : Nat) : u.roomFor n (u.neededBy r) := .inl h.neededBy

/-- A settlement right after the taking leaves what a settlement would have taken by itself (R27, R29). -/
theorem Taken.settled (h : Taken s u r) (hn : (s.ov.reservations.map (·.grain)).Nodup) :
    (settledState r u).ov.table = s.ov.table ∧
      (settledState r u).ov.ring = s.ov.ring.drop (s.neededBy r).length ++ s.comeBack r.id (s.boundGrains r) ∧
      (settledState r u).settledFor s s.ov.ring r := by
  obtain ⟨htable, hring, -, hbound, hunbound, hothers⟩ := settledState_facts (r := r) (h.nodup hn) (h.roomFor _)
  have hnone : ∀ g, g ∉ u.neededBy r := fun g => by simp [h.neededBy]
  refine ⟨htable.trans h.table, ?_, fun j g hj => ?_, fun g hg => ?_, fun g hg hs hnot => ?_, fun g hg => ?_⟩
  · rw [hring, h.neededBy, h.comeBack, h.ring]
    rfl
  · have hm : g ∈ s.neededBy r := List.mem_of_getElem? hj
    obtain ⟨hin, hneed⟩ := List.mem_filter.1 hm
    have hs : s.slotOf g = none := by
      unfold State.needsSlot at hneed
      simp only [Bool.and_eq_true, Option.isNone_iff_eq_none] at hneed
      exact hneed.1.1
    obtain ⟨n, hr, hres⟩ := h.reserved.1 j g hj
    refine ⟨n, hr, ?_⟩
    rw [hunbound g hin ((h.slotOf g).trans hs) (hnone g), hres]
    simp [Reservation.join]
  · rw [hbound g (h.boundGrains ▸ hg), h.bound hg]
    cases s.reservation? g with
    | none => rfl
    | some y => exact without_join _ _
  · rw [hunbound g hg ((h.slotOf g).trans hs) (hnone g), h.touched hg hnot]
    cases s.reservation? g with
    | none => rfl
    | some y => exact congrArg some (join_join _ _)
  · rw [hothers g hg, h.reserved.2 g fun hm => hg (List.mem_filter.1 hm).1]
    simp [hg]

/-- Taking what a record needs, with room for it (R27). -/
theorem takeReservations_taken (hroom : s.roomFor s.ov.ring.length (s.neededBy r)) :
    Taken s (takeReservations r.id (grainsOf r.first r.count) (s.neededBy r) s) r := by
  have hlen := length_of_roomFor hroom
  have hfree : ∀ g ∈ s.neededBy r, s.reservation? g = none := fun g hg => reservation?_of_needed hg
  exact ⟨by simp, by simp, (takeReservations_ov _ _ _ _).1,
    takeReservations_reservedFor (neededBy_nodup r s) hlen hfree, hlen,
    takeReservations_nodup (neededBy_nodup r s) hlen hfree⟩

/-! ## The admission of a WRITE (R47) -/

/-- The state in which the slots of a WRITE have been reserved at its admission (R47). -/
def reservedState (r : Record) (i : Nat) (s : State) : State :=
  takeReservations r.id (grainsOf r.first r.count) (s.neededBy r) (decided r i (servePort r.id.port s))

theorem admission_write_base (h : s.reachesRegion r i) (ho : r.op = .write) (hv : (s.viewOf i).policy.isOverlay = false) :
    exec .admission s = .next (placeRegion r.id (decided r i (servePort r.id.port s))) := by
  have hadmit := reachesRegion_admitted h (.inr ho)
  obtain ⟨-, -, -, -, -, -, hoff, hi, hdec, -⟩ := h
  rw [hadmit, admitRegion_passes (s := servePort r.id.port s) hoff hi hdec, if_neg]
  intro e
  exact absurd ((Bool.and_eq_true_iff.1 e).2.symm.trans hv) (by simp)

theorem admission_write_overlay (h : s.reachesRegion r i) (ho : r.op = .write)
    (hv : (s.viewOf i).policy.isOverlay = true) (hroom : s.roomFor s.ov.ring.length (s.neededBy r)) :
    exec .admission s = .next (placeRegion r.id (reservedState r i s)) := by
  have hadmit := reachesRegion_admitted h (.inr ho)
  obtain ⟨-, -, -, -, -, -, hoff, hi, hdec, -⟩ := h
  rw [hadmit, admitRegion_passes (s := servePort r.id.port s) hoff hi hdec, if_pos (by rw [ho]; exact hv),
    reserve_some (s := decided r i (servePort r.id.port s)) hroom]
  rfl

theorem reservedState_adm : (reservedState r i s).adm = (decided r i (servePort r.id.port s)).adm := by
  simp [reservedState]

theorem reservedState_order : (reservedState r i s).adm.order = s.adm.order := congrArg (·.order) reservedState_adm

theorem reservedState_rec? (h : s.nextAdmission = some r) :
    (reservedState r i s).rec? r.id = some (r.inRegion (s.viewOf i)) :=
  (rec_congr _ (congrArg _ reservedState_adm)).trans (decided_rec? h)

theorem reservedState_heldBy (h : s.reachesRegion r i) :
    (reservedState r i s).heldBy (reservedState r i s).adm.order (.cmd r.id) = s.claimAhead r := by
  obtain ⟨hnext, -, -, -, -, -, -, -, -, hn⟩ := h
  exact heldBy_inRegion (reservedState_rec? hnext)
    (fun d hd => (rec_congr _ (congrArg _ reservedState_adm)).trans (decided_rec?_other hd))
    (by simp [reservedState]; rfl) reservedState_order hn

theorem reservedState_taken (hroom : s.roomFor s.ov.ring.length (s.neededBy r)) : Taken s (reservedState r i s) r := by
  have h := takeReservations_taken (s := decided r i (servePort r.id.port s)) (r := r) hroom
  exact ⟨h.table, h.relocs, h.ring, h.reserved, h.room, h.nodup⟩

theorem placedLast_taken (h : Taken s u r) : Taken s (placedLast c u) r :=
  ⟨h.table, h.relocs, h.ring, h.reserved, h.room, h.nodup⟩

/-- The frames and claims at the start are those before the command. -/
theorem reservedState_startedAs {plan : List Piece}
    (h : t.startedAs (placedLast r.id (reservedState r i s)) r.id v plan) : t.startedAs s r.id v plan :=
  startedAs_congr h (by simp [placedLast, reservedState]; rfl) (by simp [placedLast, reservedState]; rfl)
    (by simp [placedLast, reservedState]; rfl) (by simp [placedLast, reservedState]; rfl)

/-- A WRITE to a base area, held. -/
theorem admission_holds_base (h : s.reachesRegion r i) (ho : r.op = .write)
    (hv : (s.viewOf i).policy.isOverlay = false) (hcl : s.claimAhead r = true) : ∃ t g, exec .admission s = .next t ∧
      t.ov = s.ov ∧ t.rec? r.id = some { r with path := some .region, region := some (s.viewOf i), state := .held } ∧
      t.adm.order = s.adm.order ++ [⟨.cmd r.id, g⟩] ∧ t.outA = s.outA ∧ t.outB = s.outB ∧ t.outT = s.outT := by
  obtain ⟨g, hov, hrec, hord, hA, hB, hT⟩ :=
    placeRegion_held_facts (s := s) (decided_rec? h.1) ((decided_heldBy h).trans hcl) rfl
  exact ⟨_, g, admission_write_base h ho hv, hov, hrec, hord, hA, hB, hT⟩

/-- A WRITE to a base area, started. -/
theorem admission_starts_base (h : s.reachesRegion r i) (ho : r.op = .write)
    (hv : (s.viewOf i).policy.isOverlay = false) (hcl : s.claimAhead r = false) : ∃ t g, exec .admission s = .next t ∧
      t.ov = s.ov ∧ t.adm.order = s.adm.order ++ [⟨.cmd r.id, g⟩] ∧ t.startedAs s r.id (s.viewOf i)
        (buildPlan s (s.map.active.region i) r.first r.count fun _ => .base) := by
  have hexec := admission_write_base h ho hv
  rw [placeRegion_starts ((decided_heldBy h).trans hcl)] at hexec
  obtain ⟨hnext, -, -, hcount, -⟩ := h
  obtain ⟨g, hg⟩ := placedLast_order r.id (decided r i (servePort r.id.port s))
  have hrec := (placedLast_rec? r.id r.id _).trans (decided_rec? (i := i) hnext)
  obtain ⟨hord, hov, hst⟩ := startRegion_base (x := r.inRegion (s.viewOf i))
    (u := placedLast r.id (decided r i (servePort r.id.port s))) hrec ho rfl rfl hcount hv
  rw [buildPlan_congr (t := placedLast r.id (decided r i (servePort r.id.port s))) (s := s) rfl] at hst
  exact ⟨_, g, hexec, hov, hord.trans hg, startedAs_congr hst rfl rfl rfl rfl⟩

/-- A WRITE to an OVERLAY or KEEP effective policy, held with its slots reserved. -/
theorem admission_holds_overlay (h : s.reachesRegion r i) (ho : r.op = .write)
    (hv : (s.viewOf i).policy.isOverlay = true) (hroom : s.roomFor s.ov.ring.length (s.neededBy r))
    (hcl : s.claimAhead r = true) : ∃ t g, exec .admission s = .next t ∧ t.ov.table = s.ov.table ∧
      t.ov.ring = s.ov.ring.drop (s.neededBy r).length ∧
      t.reservedFor s s.ov.ring r.id (grainsOf r.first r.count) (s.neededBy r) ∧
      t.rec? r.id = some { r with path := some .region, region := some (s.viewOf i), state := .held } ∧
      t.adm.order = s.adm.order ++ [⟨.cmd r.id, g⟩] ∧ t.outA = s.outA ∧ t.outB = s.outB ∧ t.outT = s.outT := by
  have htaken := reservedState_taken (i := i) hroom
  obtain ⟨g, hov, hrec, hord, hA, hB, hT⟩ := placeRegion_held_facts (s := s) (reservedState_rec? (i := i) h.1)
    ((reservedState_heldBy h).trans hcl) reservedState_order
  refine ⟨_, g, admission_write_overlay h ho hv hroom, (congrArg _ hov).trans htaken.table,
    (congrArg _ hov).trans htaken.ring, ?_, hrec, hord, hA.trans (by simp [reservedState]; rfl),
    hB.trans (by simp [reservedState]; rfl), hT.trans (by simp [reservedState]; rfl)⟩
  unfold State.reservedFor State.reservation?
  rw [hov]
  exact htaken.reserved

/-- A WRITE to an OVERLAY or KEEP effective policy, started after its settlement. -/
theorem admission_starts_overlay (h : s.reachesRegion r i) (ho : r.op = .write)
    (hv : (s.viewOf i).policy.isOverlay = true) (hroom : s.roomFor s.ov.ring.length (s.neededBy r))
    (hcl : s.claimAhead r = false) (hres : s.ov.reservationsOk) : ∃ t g, exec .admission s = .next t ∧
      t.ov.table = s.ov.table ∧
      t.ov.ring = s.ov.ring.drop (s.neededBy r).length ++ s.comeBack r.id (s.boundGrains r) ∧
      t.settledFor s s.ov.ring r ∧ t.adm.order = s.adm.order ++ [⟨.cmd r.id, g⟩] ∧
      t.startedAs s r.id (s.viewOf i)
        (buildPlan s (s.map.active.region i) r.first r.count fun b => .slot (t.writeSlot (grainOf b))) := by
  have hexec := admission_write_overlay h ho hv hroom
  have htaken := placedLast_taken (c := r.id) (reservedState_taken (i := i) hroom)
  rw [placeRegion_starts ((reservedState_heldBy h).trans hcl)] at hexec
  obtain ⟨hnext, -, -, hcount, -⟩ := h
  obtain ⟨g, hg⟩ := placedLast_order r.id (reservedState r i s)
  have hrec := (placedLast_rec? r.id r.id _).trans (reservedState_rec? (i := i) hnext)
  obtain ⟨hord, hov, hst⟩ := startRegion_overlay (x := r.inRegion (s.viewOf i))
    (u := placedLast r.id (reservedState r i s)) hrec ho rfl rfl hcount hv (htaken.nodup hres.1) (htaken.roomFor _)
  obtain ⟨htable, hring, hsettled⟩ := htaken.settled hres.1
  have hmap : (placedLast r.id (reservedState r i s)).map = s.map := by
    simp [placedLast, reservedState]
    rfl
  rw [buildPlan_congr hmap, hmap] at hst
  exact ⟨_, g, hexec, (congrArg _ hov).trans htable, (congrArg _ hov).trans hring, settledFor_congr hov hsettled,
    hord.trans (hg.trans (by rw [reservedState_order])), reservedState_startedAs hst⟩

/-- Settles O17: the slots are reserved, and the record is held, or settles again and starts. -/
theorem admissionReservesAndStartsAWrite : Obligations.AdmissionReservesAndStartsAWrite := fun _ _ _ h ho =>
  ⟨fun hv => ⟨admission_holds_base h ho hv, admission_starts_base h ho hv⟩,
    fun hv hroom => ⟨admission_holds_overlay h ho hv hroom, admission_starts_overlay h ho hv hroom⟩⟩

end Sys2Proof.Machine
end

section
/-! SUPPORT. Re-examination of the admitted order: the first place that can be started, what its start leaves of the other
places, and the pass that starts nothing more (R54). -/

namespace Sys2Proof.Machine

variable {s t u w : State} {c d : CmdId} {r x : Record} {v : RegionView} {pre post : List Placed} {ref : ClaimRef} {b : Bool}

/-! ## What a start leaves of the other records (R55) -/

/-- Only the record of a tag has been touched, and no place has come into the admitted order. -/
structure OnlyOwn (c : CmdId) (s t : State) : Prop where
  others : ∀ d, d ≠ c → t.rec? d = s.rec? d
  order  : ∀ y ∈ t.adm.order, y ∈ s.adm.order

theorem OnlyOwn.refl (c : CmdId) (s : State) : OnlyOwn c s s := ⟨fun _ _ => rfl, fun _ h => h⟩

theorem OnlyOwn.trans (h : OnlyOwn c s t) (k : OnlyOwn c t u) : OnlyOwn c s u :=
  ⟨fun d hd => (k.others d hd).trans (h.others d hd), fun y hy => h.order y (k.order y hy)⟩

theorem OnlyOwn.of_eq (hr : t.adm.records = s.adm.records) (ho : t.adm.order = s.adm.order) : OnlyOwn c s t :=
  ⟨fun d _ => rec_congr d hr, fun _ hy => ho ▸ hy⟩

theorem onlyOwn_mapRec {f : Record → Record} (hf : ∀ y, (f y).id = y.id) : OnlyOwn c s (mapRec c f s) :=
  ⟨fun _ hd => rec?_mapRec_other hf hd, fun _ hy => hy⟩

/-- A record that is changed again. -/
theorem OnlyOwn.mapRec {f : Record → Record} (h : OnlyOwn c s t) (hf : ∀ y, (f y).id = y.id) :
    OnlyOwn c s (mapRec c f t) := h.trans (onlyOwn_mapRec hf)

/-- What looks neither at the records nor at the order. -/
theorem OnlyOwn.congr (h : OnlyOwn c s t) (hr : u.adm.records = t.adm.records) (ho : u.adm.order = t.adm.order) :
    OnlyOwn c s u := h.trans (.of_eq hr ho)

theorem onlyOwn_mapPiece {i : Nat} {f : Piece → Piece} : OnlyOwn c s (mapPiece c i f s) := onlyOwn_mapRec fun _ => rfl

theorem onlyOwn_departed (hr : r.id = c) : OnlyOwn c s (departed r s) := by
  refine ⟨fun d hd => ?_, fun y hy => ?_⟩
  · unfold State.rec?
    rw [departed_records, List.find?_filter]
    congr 1
    funext y
    by_cases hy : y.id = d
    · simp [hy, hr, hd]
    · simp [hy]
  · unfold departed removeRecord unplace setOrder at hy
    split at hy <;> simpa using (List.mem_filter.1 hy).1

theorem onlyOwn_arrive {a : Arrival} (ha : a.id = c) : OnlyOwn c s (arrive a s) := by
  refine ⟨fun d hd => ?_, fun y hy => ?_⟩
  · have hne : a.id ≠ d := fun e => hd (e.symm.trans ha)
    unfold State.rec?
    rw [arrive_eq, setQueue_records, List.find?_append]
    simp [waitingRecord, hne]
  · rw [arrive_eq] at hy
    cases hp : a.id.port <;> simpa [hp, AdmissionUnit.setQueue] using hy

theorem onlyOwn_lateCreation : OnlyOwn c s (lateCreation c s) := by
  unfold lateCreation
  split
  next a ha =>
    split
    · exact (OnlyOwn.of_eq rfl rfl : OnlyOwn c s (dropDeferred c s)).trans (onlyOwn_arrive (deferred?_id ha))
    · exact .refl c s
  next => exact .refl c s

theorem onlyOwn_leave : OnlyOwn c s (leave c s) := by
  cases h : s.rec? c with
  | none =>
    unfold leave
    rw [h]
    exact .refl c s
  | some r =>
    rw [leave_departed h]
    exact ((onlyOwn_departed (rec?_id h)).trans onlyOwn_lateCreation).trans (.of_eq (by simp) (by simp))

theorem onlyOwn_endRecord {res : Result} {done : Nat} {x : Option Nat} {n : Nat} :
    OnlyOwn c s (endRecord c res done x n s) :=
  (OnlyOwn.of_eq (by simp) (by simp) : OnlyOwn c s (sendStatus c res done x n s)).trans onlyOwn_leave

theorem onlyOwn_releaseBlock {n : Nat} : OnlyOwn c s (releaseBlock c n s) := by
  unfold releaseBlock
  split
  · exact .refl c s
  · split
    · exact .refl c s
    · split
      · exact .refl c s
      · exact onlyOwn_mapPiece.congr (congrArg _ (release_adm ..)) (congrArg _ (release_adm ..))

theorem onlyOwn_deliverBlocks (n : Nat) : OnlyOwn c s (deliverBlocks n c s) := by
  induction n generalizing s with
  | zero => exact .refl c s
  | succ n ih =>
    unfold deliverBlocks
    split
    · exact .refl c s
    · dsimp only
      split
      · split
        · exact .refl c s
        · exact (((OnlyOwn.refl c s).congr (by simp) (by simp)).trans onlyOwn_releaseBlock).trans ih
      · exact .refl c s

theorem onlyOwn_deliveryCheck : OnlyOwn c s (deliveryCheck c s) := by
  unfold deliveryCheck
  split
  · exact .refl c _
  · split
    · split <;> exact onlyOwn_endRecord
    · exact .refl c _

theorem onlyOwn_deliver : OnlyOwn c s (deliver c s) := (onlyOwn_deliverBlocks _).trans onlyOwn_deliveryCheck

theorem OnlyOwn.withdrawPieces {which : Piece → Bool} (h : OnlyOwn c s t) : OnlyOwn c s (withdrawPieces c which t) := by
  unfold Machine.withdrawPieces
  split
  · exact h
  · exact (h.mapRec (f := fun x => { x with plan := x.plan.map fun p => if which p then p.drop .withdrawn else p })
      fun _ => rfl).congr rfl rfl

theorem OnlyOwn.freePieces {which : Piece → Bool} (h : OnlyOwn c s t) : OnlyOwn c s (freePieces c which t) := by
  unfold Machine.freePieces
  split
  · exact h
  · exact (h.mapRec (f := fun x => { x with plan := x.plan.map fun p => if which p then p.drop p.state else p })
      fun _ => rfl).congr rfl rfl

theorem onlyOwn_cutRead {res : Result} {f : Nat} : OnlyOwn c s (cutRead c res f s) := by
  unfold cutRead
  split
  · exact .refl c s
  · split
    · exact .refl c s
    · exact (((OnlyOwn.refl c s).mapRec (f := fun x => { x with cut := some f, result := failResult x.result res f })
        fun _ => rfl).withdrawPieces).freePieces

theorem onlyOwn_cutLost {plan : List Piece} : OnlyOwn c s (cutLost c plan s) := by
  unfold cutLost
  split
  · exact onlyOwn_cutRead
  · exact .refl c s

/-- Settlement is no concern of the records and the order. -/
theorem settle_adm (c : CmdId) (grains : List Nat) (s : State) : (settle c grains s).2.adm = s.adm := by
  have hb : (settleBound c grains s).adm = s.adm := by
    show (giveUps c _ s).adm = s.adm
    rw [giveUps_frame]
  unfold settle reserve
  dsimp only
  split
  next u hu =>
    split at hu
    · cases hu
      simpa using hb
    · cases hu
  next => exact hb

theorem settleRecord_adm (r : Record) (v : RegionView) (s : State) : (settleRecord r v s).2.adm = s.adm := by
  unfold settleRecord
  split
  · exact settle_adm ..
  · rfl

theorem onlyOwn_startRegion : OnlyOwn c s (startRegion c s) := by
  cases hr : s.rec? c with
  | none =>
    unfold startRegion
    rw [hr]
    exact .refl c s
  | some r =>
    cases hv : r.region with
    | none =>
      unfold startRegion
      simp only [hr, hv]
      exact .refl c s
    | some v =>
      have hs : OnlyOwn c s (settleRecord r v s).2 :=
        .of_eq (congrArg _ (settleRecord_adm r v s)) (congrArg _ (settleRecord_adm r v s))
      unfold startRegion
      simp only [hr, hv]
      split
      · refine OnlyOwn.trans (OnlyOwn.congr (t := cutLost c ((settleRecord r v s).2.routePlan r v)
          (activated c ((settleRecord r v s).2.routePlan r v) (settleRecord r v s).2)) ?_ ?_ ?_) onlyOwn_deliver
        · exact (hs.trans (onlyOwn_mapRec fun _ => rfl : OnlyOwn c _ (activated c _ _))).trans onlyOwn_cutLost
        · simp [activated]
        · simp [activated]
      · exact hs.trans onlyOwn_endRecord

/-! ## The place that is started (R54) -/

/-- The first place that can be started, where none before it can. -/
theorem firstStartable_at (ho : s.adm.order = pre ++ ⟨ref, b⟩ :: post) (hpre : s.noneStarts pre)
    (hp : s.placeHeld ⟨ref, b⟩ = true) (hh : s.heldBy pre ref = false) : s.firstStartable = some ⟨ref, b⟩ := by
  have hlen : s.adm.order.length = pre.length + (1 + post.length) := by
    rw [ho, List.length_append, List.length_cons]
    omega
  have hbefore : (List.range pre.length).findSome? (fun i => (s.adm.order[i]?).filter fun x =>
      s.startable (s.adm.order.take i) x) = none := by
    refine List.findSome?_eq_none_iff.2 fun i hi => ?_
    have hi := List.mem_range.1 hi
    have hget : s.adm.order[i]? = some pre[i] := by
      rw [ho, List.getElem?_append_left hi, List.getElem?_eq_getElem hi]
    have htake : s.adm.order.take i = pre.take i := by
      rw [ho, List.take_append_of_le_length (Nat.le_of_lt hi)]
    have hsplit : pre = pre.take i ++ pre[i] :: pre.drop (i + 1) := by
      rw [List.getElem_cons_drop, List.take_append_drop]
    rw [hget, htake, Option.filter_some, if_neg]
    intro hs
    obtain ⟨h1, h2⟩ := Bool.and_eq_true_iff.1 hs
    simp [hpre _ _ _ hsplit h1] at h2
  have hat : (s.adm.order[pre.length]?).filter (fun x => s.startable (s.adm.order.take pre.length) x) = some ⟨ref, b⟩ := by
    have hget : s.adm.order[pre.length]? = some ⟨ref, b⟩ := by simp [ho]
    have htake : s.adm.order.take pre.length = pre := by simp [ho]
    rw [hget, htake, Option.filter_some, if_pos]
    exact Bool.and_eq_true_iff.2 ⟨hp, by rw [hh]; rfl⟩
  unfold State.firstStartable
  rw [List.head?_filterMap, hlen, List.range_add, List.findSome?_append, hbefore, Option.none_or, Nat.add_comm 1,
    List.range_succ_eq_map]
  simp only [List.map_cons, Nat.add_zero, List.findSome?_cons, hat]

/-- Where no place is held none can be started. -/
theorem firstStartable_none (h : ∀ y ∈ s.adm.order, s.placeHeld y = false) : s.firstStartable = none := by
  unfold State.firstStartable
  rw [List.head?_filterMap]
  refine List.findSome?_eq_none_iff.2 fun i _ => ?_
  cases hg : s.adm.order[i]? with
  | none => rfl
  | some y => simp [State.startable, h y (List.mem_of_getElem? hg)]

/-- Passes that start nothing. -/
theorem reexamine_none (n : Nat) (h : s.firstStartable = none) : reexamine n s = s := by
  cases n with
  | zero => rfl
  | succ n =>
    unfold reexamine
    rw [h]

/-- HELD_CLAIM_START without a place that can be started. -/
theorem exec_start_none (hl : s.te.link ≠ .down) (h : s.firstStartable = none) : exec .heldClaimStart s = .next s := by
  show Host.Outcome.next (settleDown (reexamine _ s)) = _
  rw [reexamine_none _ h, settleDown_of_link hl]

/-- HELD_CLAIM_START that starts one place, after which none can be started. -/
theorem exec_start_one {y : Placed} (hl : s.te.link ≠ .down) (h : s.firstStartable = some y) (ht : startPlace y s = t)
    (hn : t.firstStartable = none) : exec .heldClaimStart s = .next t := by
  have e : reexamine (s.adm.order.length + 1) s = t := by
    unfold reexamine
    rw [h]
    dsimp only
    rw [ht, reexamine_none _ hn]
  have k := keeps_reexamine (s.adm.order.length + 1) (Keeps.refl s)
  show Host.Outcome.next (settleDown (reexamine _ s)) = _
  rw [settleDown_of_link (k.link ▸ hl), e]

/-! ## An internal claim (R54) -/

/-- The order in which an internal claim has been granted. -/
theorem startPlace_claim (hr : ∀ c, ref ≠ .cmd c) (ho : s.adm.order = pre ++ ⟨ref, false⟩ :: post)
    (hn : ∀ y ∈ pre ++ post, y.ref ≠ ref) : startPlace ⟨ref, false⟩ s =
      { s with adm := { s.adm with order := pre ++ ⟨ref, true⟩ :: post } } := by
  have other {l : List Placed} (hl : ∀ y ∈ l, y.ref ≠ ref) :
      l.map (fun y => if y.ref = ref then { y with granted := true } else y) = l :=
    (List.map_congr_left fun y hy => if_neg (hl y hy)).trans (List.map_id l)
  have hmap : s.adm.order.map (fun y => if y.ref = ref then { y with granted := true } else y) =
      pre ++ ⟨ref, true⟩ :: post := by
    rw [ho, List.map_append, List.map_cons, other fun y hy => hn y (List.mem_append_left _ hy),
      other fun y hy => hn y (List.mem_append_right _ hy), if_pos rfl]
  have hstart : startPlace ⟨ref, false⟩ s = setOrder (List.map fun y =>
      if y.ref = ref then { y with granted := true } else y) s := by
    cases ref with
    | cmd c => exact absurd rfl (hr c)
    | _ => rfl
  rw [hstart]
  unfold setOrder
  rw [hmap]

/-- Internal claims are held until they are granted (R52). -/
theorem placeHeld_claim (hr : ∀ c, ref ≠ .cmd c) : s.placeHeld ⟨ref, b⟩ = !b := by
  cases ref with
  | cmd c => exact absurd rfl (hr c)
  | _ => rfl

theorem start_claim (hl : s.te.link ≠ .down) (hr : ∀ c, ref ≠ .cmd c) (ho : s.adm.order = pre ++ ⟨ref, false⟩ :: post)
    (hn : ∀ y ∈ pre ++ post, y.ref ≠ ref) (hpre : s.noneStarts pre) (hh : s.heldBy pre ref = false)
    (ht : t = { s with adm := { s.adm with order := pre ++ ⟨ref, true⟩ :: post } }) (he : t.examinedFrom s (pre ++ post)) :
    exec .heldClaimStart s = .next t := by
  refine exec_start_one hl (firstStartable_at ho hpre (placeHeld_claim hr) hh)
    ((startPlace_claim hr ho hn).trans ht.symm) (he.elim (fun hoth => firstStartable_none ?_) id)
  have hplace (y : Placed) : t.placeHeld y = s.placeHeld y := by
    subst ht
    rfl
  intro y hy
  rw [ht] at hy
  rw [hplace]
  simp only [List.mem_append, List.mem_cons] at hy hoth
  rcases hy with hy | rfl | hy
  · exact hoth y (.inl hy)
  · exact placeHeld_claim hr
  · exact hoth y (.inr hy)

/-! ## A record (R54, R55) -/

/-- A held record that nothing before it holds, with what re-examination finds after its start. -/
structure HeldPlace (s : State) (pre post : List Placed) (b : Bool) (r : Record) : Prop where
  link  : s.te.link ≠ .down
  order : s.adm.order = pre ++ ⟨.cmd r.id, b⟩ :: post
  once  : ∀ y ∈ pre ++ post, y.ref ≠ .cmd r.id
  none  : s.noneStarts pre
  free  : s.heldBy pre (.cmd r.id) = false
  rec?  : s.rec? r.id = some r
  state : r.state = .held
  ends  : (startRegion r.id s).examinedFrom s (pre ++ post)

/-- The command starts the record, once it is seen that the record is not held any more. -/
theorem HeldPlace.exec (h : HeldPlace s pre post b r) (hown : ∀ y, (startRegion r.id s).rec? r.id = some y → y.state ≠ .held) :
    exec .heldClaimStart s = .next (startRegion r.id s) := by
  have hheld : s.placeHeld ⟨.cmd r.id, b⟩ = true := by simp [State.placeHeld, h.rec?, h.state]
  refine exec_start_one h.link (firstStartable_at h.order h.none hheld h.free) rfl
    (h.ends.elim (fun hoth => firstStartable_none fun y hy => ?_) id)
  have own := onlyOwn_startRegion (c := r.id) (s := s)
  have hy' := own.order y hy
  rw [h.order] at hy'
  have hcase : y = ⟨.cmd r.id, b⟩ ∨ y ∈ pre ++ post := by
    simp only [List.mem_append, List.mem_cons] at hy' ⊢
    tauto
  rcases hcase with rfl | hm
  · unfold State.placeHeld
    dsimp only
    cases hr : (startRegion r.id s).rec? r.id with
    | none => rfl
    | some y => exact decide_eq_false (hown y hr)
  · rw [← hoth y hm]
    unfold State.placeHeld
    obtain ⟨ref, g⟩ := y
    cases ref with
    | cmd d =>
      have hd : d ≠ r.id := fun e => h.once _ hm (e ▸ rfl)
      dsimp only
      rw [own.others d hd]
    | _ => rfl

theorem HeldPlace.exec_started {plan : List Piece} (h : HeldPlace s pre post b r)
    (hs : (startRegion r.id s).startedAs s r.id v plan) : Machine.exec .heldClaimStart s = .next (startRegion r.id s) := by
  obtain ⟨⟨y, hy, hact, -⟩, -⟩ := hs
  refine h.exec fun z hz => ?_
  rw [hy] at hz
  cases hz
  rw [hact]
  simp

theorem HeldPlace.exec_ended {frames : List HostFrame} (h : HeldPlace s pre post b r)
    (hs : (startRegion r.id s).endedWith s r.id frames) : Machine.exec .heldClaimStart s = .next (startRegion r.id s) := by
  obtain ⟨hgone, -⟩ := hs
  refine h.exec fun z hz => ?_
  rw [hgone] at hz
  cases hz

/-! ## A settlement that fails (R28, R29) -/

/-- The slots that come back as a record gives up all its reservations, one reservation after the other. -/
theorem comeBack_all (hn : (s.ov.reservations.map (·.grain)).Nodup) (keep : Nat → Bool) :
    s.comeBack c ((s.ov.reservations.map (·.grain)).filter keep) =
      s.ov.reservations.filterMap fun y => if keep y.grain then y.alone c else none := by
  rw [comeBack_eq, List.filterMap_filter, List.filterMap_map]
  refine List.filterMap_congr fun y hy => ?_
  simp only [Function.comp, reservation?_of_mem hn hy, Option.bind_some]

/-- What comes back with the rest of the reservations, after the settlement has given up those of bound grains. -/
theorem comeBack_settledDown (ho : s.ov.reservationsOk) :
    (settledDown r s).comeBack r.id ((settledDown r s).ov.reservations.map (·.grain)) =
      s.comeBack r.id ((s.ov.reservations.map (·.grain)).filter fun g => !(s.boundGrains r).contains g) := by
  obtain ⟨hn, hparties⟩ := ho
  have hres : (settledDown r s).ov.reservations =
      s.ov.reservations.filterMap (Reservation.givenUpIf r.id (s.boundGrains r)) :=
    giveUps_reservations (boundGrains_nodup r s) hn
  have hall := comeBack_all (c := r.id) (givenUp_nodup hn hres) fun _ => true
  rw [List.filter_true] at hall
  rw [hall, hres, comeBack_all hn, List.filterMap_filterMap]
  refine List.filterMap_congr fun y hy => ?_
  by_cases hg : y.grain ∈ s.boundGrains r
  · have hw : y.givenUpIf r.id (s.boundGrains r) = y.without r.id := if_pos hg
    rw [hw]
    cases hy' : y.without r.id with
    | none => simp [hg]
    | some z =>
      have := holder_without (hparties y hy) hy'
      simp [hg, Reservation.alone, this]
  · have hw : y.givenUpIf r.id (s.boundGrains r) = some y := if_neg hg
    simp [hw, hg]

/-- A WRITE whose settlement fails ends OVERLAY_FULL, and gives up what is left to it (R28, R29). -/
theorem startRegion_full (h : s.rec? r.id = some r) (ho : r.op = .write) (hr : r.region = some v)
    (hv : v.policy.isOverlay = true) (hres : s.ov.reservationsOk)
    (hroom : ¬ s.roomFor (s.ov.ring.length + (s.comeBack r.id (s.boundGrains r)).length) (s.neededBy r))
    (ha : s.answerable r.id) : (startRegion r.id s).ov.table = s.ov.table ∧
      (startRegion r.id s).ov.ring = s.ov.ring ++ s.comeBack r.id (s.boundGrains r) ++
        s.comeBack r.id ((s.ov.reservations.map (·.grain)).filter fun g => !(s.boundGrains r).contains g) ∧
      (startRegion r.id s).endedWith s r.id [s.statusFor r.id .overlayFull 0 none 0] := by
  obtain ⟨hup, hd⟩ := ha
  have hs : settleRecord r v s = (false, settledDown r s) := by
    unfold settleRecord
    rw [if_pos (by simp [ho, hv]), settle_full hres.1 hroom]
  have e : startRegion r.id s = endRecord r.id .overlayFull 0 none 0 (settledDown r s) := by
    unfold startRegion
    simp [h, hr, hs]
  have hrec : (settledDown r s).rec? r.id = some r := (rec_congr _ (by simp)).trans h
  have hn : ((settledDown r s).ov.reservations.map (·.grain)).Nodup :=
    givenUp_nodup hres.1 (giveUps_reservations (boundGrains_nodup r s) hres.1)
  obtain ⟨-, hring⟩ := endRecord_store hrec hn .overlayFull 0 none 0
  rw [e]
  refine ⟨by simp, ?_, endRecord_ends_of _ _ _ _ (out_congr _ (by simp) (by simp)) (mg_congr _ (by simp) (by simp)) ?_
    ((deferred_congr _ (by simp)).trans hd)⟩
  · rw [hring, settledDown_ring hres.1, comeBack_settledDown hres]
  · rw [hp_congr (s := s) _ (by simp) (by simp), hup]
    simp

/-! ## The three parts -/

theorem HeldPlace.read (h : HeldPlace s pre post b r) (hf : FreshRead s r.id r v) :
    ((∀ a, r.first ≤ a → a < r.first + r.count → s.kindOf .read v a ≠ .lost) →
      Machine.exec .heldClaimStart s = .next (startRegion r.id s) ∧ (startRegion r.id s).adm.order = s.adm.order ∧
        (startRegion r.id s).startedAs s r.id v (s.readPlan r v)) ∧
    (s.kindOf .read v r.first = .lost → s.answerable r.id →
      Machine.exec .heldClaimStart s = .next (startRegion r.id s) ∧
        (startRegion r.id s).endedWith s r.id [s.statusFor r.id .lostData 0 (some r.first) 0]) ∧
    (∀ k, 0 < k → k < r.count → s.kindOf .read v (r.first + k) = .lost →
      (∀ a, r.first ≤ a → a < r.first + k → s.kindOf .read v a ≠ .lost) →
      Machine.exec .heldClaimStart s = .next (startRegion r.id s) ∧ (startRegion r.id s).adm.order = s.adm.order ∧
        (startRegion r.id s).startedAs s r.id v (s.readPlan r v) ∧
        ∃ r', (startRegion r.id s).rec? r.id = some r' ∧ r'.cut = some (r.first + k) ∧
          r'.result = some ⟨.lostData, some (r.first + k)⟩) := by
  refine ⟨fun hb => ?_, fun hl ha => ?_, fun k h0 hk hl hb => ?_⟩
  · obtain ⟨hst, hord⟩ := startRegion_read hf hb
    exact ⟨h.exec_started hst, hord, hst⟩
  · have hend := startRegion_read_lost hf hl ha
    exact ⟨h.exec_ended hend, hend⟩
  · obtain ⟨hst, hord, hrec⟩ := startRegion_read_cut hf h0 hk hl hb
    exact ⟨h.exec_started hst, hord, hst, _, hrec, rfl, rfl⟩

/-- Settles O20: nothing to start, an internal claim granted, and a record started. -/
theorem reexaminationStartsWhatNothingHolds : Obligations.ReexaminationStartsWhatNothingHolds := by
  refine ⟨fun s hl h => exec_start_none hl h, fun s t pre post ref hl hr ho hn hpre hh ht he =>
    start_claim hl hr ho hn hpre hh ht he, ?_⟩
  rintro s t pre post b r v hl ho hn hpre hh hrec hst hpath hv hw hcut hres hc rfl he
  have h : HeldPlace s pre post b r := ⟨hl, ho, hn, hpre, hh, hrec, hst, he⟩
  refine ⟨fun hop hm plan hplan => ?_, fun hop hov => ?_, fun hop hov hok back hback => ⟨fun hroom ha => ?_, fun hroom => ?_⟩⟩
  · subst hplan
    exact h.read ⟨hrec, hop, hpath, hv, hw, hcut, hres, hm, hc⟩
  · obtain ⟨hord, hovl, hstart⟩ := startRegion_base hrec hop hpath hv hc hov
    exact ⟨h.exec_started hstart, hord, hovl, hstart⟩
  · subst hback
    obtain ⟨htable, hring, hend⟩ := startRegion_full hrec hop hv hov hok hroom ha
    exact ⟨h.exec_ended hend, htable, hring, hend⟩
  · subst hback
    obtain ⟨hord, hovl, hstart⟩ := startRegion_overlay hrec hop hpath hv hc hov hok.1 hroom
    obtain ⟨htable, hring, hsettled⟩ := settledState_facts hok.1 hroom
    exact ⟨h.exec_started hstart, hord, (congrArg _ hovl).trans htable, (congrArg _ hovl).trans hring,
      settledFor_congr hovl hsettled, hstart⟩

end Sys2Proof.Machine
end

section
/-! SUPPORT. Entries after a change of the Overlay Table, lost markings, and the end of a WRITE with its last piece (R20, R30,
R31, R35, R75, R76). -/

namespace Sys2Proof.Machine

variable {s t u : State} {c : CmdId} {r x : Record} {q : Piece} {e : Entry} {m : Mask} {g h i n : Nat}

/-! ## The entry of a grain (R20) -/

theorem find?_insertEntry (e : Entry) (l : List Entry) (g : Nat) :
    (insertEntry e l).find? (fun y => y.grain == g) = if e.grain = g then some e else l.find? fun y => y.grain == g := by
  induction l with
  | nil => by_cases hg : e.grain = g <;> simp [insertEntry, hg]
  | cons y ys ih =>
    unfold insertEntry
    split
    case isTrue hlt =>
      by_cases hy : y.grain = g
      · have : e.grain ≠ g := by omega
        simp [hy, this]
      · simp [hy, ih]
    case isFalse =>
      split
      case isTrue heq => by_cases hg : e.grain = g <;> simp [hg, heq]
      case isFalse => by_cases hg : e.grain = g <;> simp [hg]

/-- The entry of a grain once an entry has been put (R20). -/
theorem entry?_putEntry (e : Entry) (s : State) (g : Nat) :
    (putEntry e s).entry? g = if e.grain = g then some e else s.entry? g := find?_insertEntry ..

theorem entry?_grain (h : s.entry? g = some e) : e.grain = g := by simpa using List.find?_some h

/-! ## Lost marking (R31, R35) -/

/-- An entry some present blocks of which have become lost. -/
def Entry.losing (e : Entry) (m : Mask) : Entry :=
  { e with present := maskLess e.present (e.present &&& m), lost := e.lost ||| (e.present &&& m) }

theorem markLost_nothing (h : s.entry? g = some e) (hm : e.present &&& m = 0) : markLost g m s = ((0, none), s) := by
  unfold markLost
  simp [h, hm]

/-- Some blocks of the entry are left (R31). -/
theorem markLost_some (h : s.entry? g = some e) (hm : e.present &&& m ≠ 0)
    (hl : maskLess e.present (e.present &&& m) ≠ 0) :
    markLost g m s = ((e.present &&& m, none), putEntry (e.losing m) s) := by
  unfold markLost
  rw [h]
  dsimp only
  rw [if_neg hm, if_neg hl]
  rfl

/-- No block of the entry is left, and its slot is retired (R31, R35). -/
theorem markLost_all (h : s.entry? g = some e) (hm : e.present &&& m ≠ 0)
    (hl : maskLess e.present (e.present &&& m) = 0) (hs : e.slot = some n) :
    markLost g m s = ((e.present &&& m, some n), retire n (putEntry { e.losing m with slot := none } s)) := by
  unfold markLost
  rw [h]
  dsimp only
  rw [if_neg hm, if_pos hl, hs]
  rfl

/-! ## The end of a WRITE (R75, R76) -/

/-- An operation that ends leaves no more work. -/
theorem hasWork_removeOp {mine : Owner → Bool} (tag : Nat) (h : s.hasWork mine = false) :
    (removeOp tag s).hasWork mine = false := by
  unfold State.hasWork at h ⊢
  simp only [Bool.or_eq_false_iff] at h ⊢
  obtain ⟨⟨⟨⟨⟨⟨hops, hi⟩, hj⟩, hr⟩, ha⟩, hb⟩, hback⟩ := h
  refine ⟨⟨⟨⟨⟨⟨?_, hi⟩, hj⟩, hr⟩, ha⟩, hb⟩, hback⟩
  rw [List.any_eq_false] at hops ⊢
  exact fun o ho => hops o (List.mem_filter.1 ho).1

/-- A WRITE whose pieces are all DONE, with nothing else to end and no record to wait for, ends OK (R76). -/
theorem endCheck_ok (hr : s.rec? c = some r) (ho : r.op = .write) (hs : r.state = .active) (hw : r.winding = false)
    (hne : r.plan ≠ []) (hdone : ∀ p ∈ r.plan, p.state = .done) (hlatest : r.latest = none)
    (hflush : s.hasWork (Owner.ofFlush c) = false) (hhand : s.handOffWaits (.piece c) = false)
    (hdep : s.isDependant c = false) : endCheck c s = endRecord c .ok r.count none 0 s := by
  have hplan : r.plan.any Piece.isUnended = false := by
    rw [List.any_eq_false]
    intro p hp
    simp [Piece.isUnended, Piece.isPending, hdone p hp]
  have hidle : s.workPending r = false := by
    unfold State.workPending
    rw [rec?_id hr, hplan, hflush, hhand, hdep]
    rfl
  have hall : (decide (r.op = .write) && !r.plan.isEmpty && r.plan.all fun p => decide (p.state = .done)) = true := by
    simpa [ho, hne] using hdone
  unfold endCheck
  rw [hr]
  dsimp only
  rw [hidle, hs, hw, hall]
  simp only [Bool.false_eq_true, if_false, if_true]
  unfold finishWrite
  rw [hlatest, rec?_id hr]

/-- A piece that is DONE, with its buffers given back (R75). -/
def pieceDone (c : CmdId) (i held : Nat) (s : State) : State :=
  release (.host c.port) held (mapPiece c i (fun p => p.drop .done) s)

/-- A plan of which one piece has been changed. -/
theorem mem_set_cases {plan : List Piece} {p y : Piece} (h : y ∈ plan.set i p) :
    y = p ∨ ∃ j, j ≠ i ∧ plan[j]? = some y := by
  obtain ⟨j, hj⟩ := List.mem_iff_getElem?.1 h
  rw [List.getElem?_set] at hj
  split at hj
  · split at hj
    · exact .inl (Option.some.inj hj).symm
    · cases hj
  · rename_i hne
    exact .inr ⟨j, fun e => hne e.symm, hj⟩

theorem pieceDone_rec? (hr : s.rec? c = some r) (hq : r.plan[i]? = some q) :
    (pieceDone c i n s).rec? c = some { r with plan := r.plan.set i (q.drop .done) } := by
  have h : (mapPiece c i (fun p => p.drop .done) s).rec? c = some { r with plan := r.plan.modify i fun p => p.drop .done } :=
    mapRec_some (f := fun y => { y with plan := y.plan.modify i fun p => p.drop .done }) hr fun _ => rfl
  rw [modify_eq_set _ hq] at h
  exact (rec_congr c (by simp [pieceDone])).trans h

/-- A WRITE of which one piece is still to end: nothing else is owed to it (R76). -/
structure LastPiece (s : State) (c : CmdId) (r : Record) (i : Nat) (q : Piece) : Prop where
  rec?    : s.rec? c = some r
  op      : r.op = .write
  state   : r.state = .active
  winding : r.winding = false
  latest  : r.latest = none
  piece   : r.plan[i]? = some q
  others  : ∀ j y, j ≠ i → r.plan[j]? = some y → y.state = .done
  handOff : s.handOffWaits (.piece c) = false
  depend  : s.isDependant c = false
  flush   : s.hasWork (Owner.ofFlush c) = false

/-- The operation that ends is none of these. -/
theorem LastPiece.removeOp (h : LastPiece s c r i q) (tag : Nat) : LastPiece (removeOp tag s) c r i q :=
  ⟨h.rec?, h.op, h.state, h.winding, h.latest, h.piece, h.others, h.handOff, h.depend, hasWork_removeOp tag h.flush⟩

/-- The WRITE ends OK with its last piece, whatever that has done to the Overlay Table and the reservations (R75, R76). -/
theorem LastPiece.ends (h : LastPiece s c r i q) (hadm : u.adm = (pieceDone c i n s).adm) (hte : u.te = s.te)
    (hjrn : u.jrn = s.jrn) : endCheck c u = endRecord c .ok r.count none 0 u := by
  have hrec : u.rec? c = some { r with plan := r.plan.set i (q.drop .done) } :=
    (rec_congr c (congrArg _ hadm)).trans (pieceDone_rec? h.rec? h.piece)
  obtain ⟨hlt, -⟩ := List.getElem?_eq_some_iff.1 h.piece
  refine endCheck_ok (r := { r with plan := r.plan.set i (q.drop .done) }) hrec h.op h.state h.winding ?_ ?_ h.latest
    ((hasWork_congr _ hte).trans h.flush) ?_ ?_
  · intro hnil
    have hnil : r.plan = [] := by simpa using hnil
    simp [hnil] at hlt
  · intro p hp
    rcases mem_set_cases hp with rfl | ⟨j, hj, hy⟩
    · rfl
    · exact h.others j p hj hy
  · unfold State.handOffWaits
    rw [hjrn]
    exact h.handOff
  · unfold State.isDependant
    rw [hte]
    exact h.depend

/-! ## A slot write that ends OK (R30, R75) -/

/-- The entry a first write into a slot creates (R30). -/
theorem bindBlocks_new {region : Nat} (h : s.entry? g = none) : bindBlocks g region n m s =
    (⟨g, region, some n, m, 0, .resident⟩, putEntry ⟨g, region, some n, m, 0, .resident⟩ (endReservation g s)) := by
  have hs : s.slotOf g = none := by
    unfold State.slotOf
    rw [h]
    rfl
  unfold bindBlocks
  simp [h, hs]

/-- The reservation of a grain that ends is gone (R30). -/
theorem endReservation_reservation? (hn : (s.ov.reservations.map (·.grain)).Nodup) :
    (endReservation g s).reservation? g = none := by
  unfold State.reservation? endReservation setReservations
  dsimp only
  rw [eraseP_grain_eq_filter hn]
  exact List.find?_eq_none.2 fun y hy => by simpa using (List.mem_filter.1 hy).2

theorem endReservation_nodup (hn : (s.ov.reservations.map (·.grain)).Nodup) :
    ((endReservation g s).ov.reservations.map (·.grain)).Nodup := hn.sublist ((List.eraseP_sublist).map _)

/-- A completed write into a slot reserved for a grain without an entry creates the entry; for a volatile region no record
follows (R30, R75). -/
theorem slotWritten_new {region : Nat} (he : s.entry? (grainOf q.first) = none)
    (hr : (s.reservation? (grainOf q.first)).map (·.slot) = some n) (hm : pieceMask (grainOf q.first) q ≠ 0)
    (hj : s.journaled region = false) : slotWritten c n region q s =
      putEntry ⟨grainOf q.first, region, some n, pieceMask (grainOf q.first) q, 0, .resident⟩
        (endReservation (grainOf q.first) s) := by
  have hs : s.slotOf (grainOf q.first) = none := by
    unfold State.slotOf
    rw [he]
    rfl
  have hserves : s.servesGrain (grainOf q.first) n = true := by
    obtain ⟨y, hy, hn⟩ := Option.map_eq_some_iff.1 hr
    unfold State.servesGrain
    rw [hs]
    simp [hy, hn]
  have hj' : (putEntry ⟨grainOf q.first, region, some n, pieceMask (grainOf q.first) q, 0, .resident⟩
      (endReservation (grainOf q.first) s)).journaled region = false := hj
  unfold slotWritten
  dsimp only
  rw [bindBlocks_new he, if_neg (by rw [hserves]; simpa using hm)]
  dsimp only
  rw [if_neg (by rw [hj']; simp)]

/-- STATUS OK of a WRITE is its final outcome OK. -/
theorem exec_write_ok {tag done value : Nat} {detail : Option Nat} {o : TargetOp} (hl : s.te.link = .up)
    (ho : s.op? tag = some o) (hs : o.stop = none) (hown : o.req.owner = .piece c i) (hw : o.req.op = .write)
    (hm : o.moved = o.req.count) (h : LastPiece s c r i q) :
    exec (.targetStatus tag 0x00 done detail value) s = .next (writePieceEnd c i r q .ok (removeOp o.tag s)) := by
  have hc : o.complete = true := by
    unfold TargetOp.complete
    rw [hw]
    exact decide_eq_true hm
  rw [exec_status_ok hl ho hs hc]
  have h' := h.removeOp o.tag
  unfold finalOutcome pieceEnd
  rw [hown]
  simp [h'.rec?, h'.piece, h'.op]

/-- A WRITE into a reserved slot ends OK: its entry is there, and its reservation gone (R30, R75, R76). -/
theorem slotWrite_ends {tag done value : Nat} {detail : Option Nat} {o : TargetOp} {v : RegionView} (hl : s.te.link = .up)
    (ho : s.op? tag = some o) (hs : o.stop = none) (hown : o.req.owner = .piece c i) (hw : o.req.op = .write)
    (hmoved : o.moved = o.req.count) (h : LastPiece s c r i q) (hv : r.region = some v) (hk : q.kind = .slot n)
    (hout : s.outOfService n = false) (he : s.entry? (grainOf q.first) = none) (hj : s.journaled v.index = false)
    (hn : (s.ov.reservations.map (·.grain)).Nodup) (hr : (s.reservation? (grainOf q.first)).map (·.slot) = some n)
    (hm : grainPart (grainOf q.first) q.first q.count ≠ 0) (ha : s.answerable c) :
    ∃ t, exec (.targetStatus tag 0x00 done detail value) s = .next t ∧ t.reservation? (grainOf q.first) = none ∧
      t.endedWith s c [s.statusFor c .ok r.count none 0] ∧ t.entry? (grainOf q.first) =
        some (⟨grainOf q.first, v.index, some n, grainPart (grainOf q.first) q.first q.count, 0, .resident⟩ : Entry) := by
  obtain ⟨hup, hd⟩ := ha
  have hdone : (pieceDone c i q.held (removeOp o.tag s)).ov = s.ov := by simp [pieceDone, Machine.removeOp]
  have hwritten := slotWritten_new (s := pieceDone c i q.held (removeOp o.tag s)) (c := c) (q := q) (n := n)
    (region := v.index) ((entry?_congr _ (congrArg _ hdone)).trans he)
    ((congrArg _ (reservation?_congr _ (congrArg _ hdone))).trans hr) hm hj
  generalize hu : slotWritten c n v.index q (pieceDone c i q.held (removeOp o.tag s)) = u at hwritten
  have hend : endCheck c u = endRecord c .ok r.count none 0 u :=
    (h.removeOp o.tag).ends (n := q.held) (by rw [hwritten]; rfl) (by rw [hwritten]; simp [pieceDone])
      (by rw [hwritten]; simp [pieceDone])
  have hrec : u.rec? c = some { r with plan := r.plan.set i (q.drop .done) } :=
    (rec_congr c (by rw [hwritten]; rfl)).trans (pieceDone_rec? (n := q.held) (h.removeOp o.tag).rec? h.piece)
  have hn' : ((pieceDone c i q.held (removeOp o.tag s)).ov.reservations.map (·.grain)).Nodup := by rwa [hdone]
  have hnu : (u.ov.reservations.map (·.grain)).Nodup := by
    rw [hwritten]
    exact endReservation_nodup hn'
  have hgone : u.reservation? (grainOf q.first) = none := by
    rw [hwritten]
    exact endReservation_reservation? hn'
  have hexec : exec (.targetStatus tag 0x00 done detail value) s = .next (endRecord c .ok r.count none 0 u) := by
    rw [exec_write_ok hl ho hs hown hw hmoved h]
    unfold writePieceEnd
    rw [hk]
    dsimp only
    rw [if_neg (by rw [show (removeOp o.tag s).outOfService n = s.outOfService n from rfl, hout]; simp), hv, ← hend, ← hu]
    rfl
  refine ⟨_, hexec, ?_, endRecord_ends_of _ _ _ _ ?_ ?_ ?_ ?_, ?_⟩
  · rw [(endRecord_store hrec hnu .ok r.count none 0).1, hgone]
    rfl
  · exact out_congr _ (by rw [hwritten]; simp [pieceDone, Machine.removeOp]) (by rw [hwritten]; simp [pieceDone, Machine.removeOp])
  · exact mg_congr _ (by rw [hwritten]; simp [pieceDone, Machine.removeOp]) (by rw [hwritten]; simp [pieceDone, Machine.removeOp])
  · rw [hp_congr (s := s) c.port (by rw [hwritten]; simp [pieceDone, Machine.removeOp])
      (by rw [hwritten]; simp [pieceDone, Machine.removeOp]), hup]
    simp
  · exact (deferred_congr _ (by rw [hwritten]; simp [pieceDone, Machine.removeOp])).trans hd
  · rw [entry?_congr (s := u) _ (by simp), hwritten, entry?_putEntry, if_pos rfl]
    rfl

/-- Settles O24: the entry of a first write, and the masks of a lost marking. -/
theorem slotWritesBindAndFaultsMarkLost : Obligations.SlotWritesBindAndFaultsMarkLost := by
  refine ⟨?_, fun s g m e he => ⟨markLost_nothing he, fun hm hl => ?_, fun n hm hl hs => ?_⟩⟩
  · intro s tag done value n i detail o c r q v hl ho hs hown hw hmoved hrec hop hst hwind hlat hv hq hk hout hothers hhand
      hdep hflush he hj hres hr hm ha
    exact slotWrite_ends hl ho hs hown hw hmoved ⟨hrec, hop, hst, hwind, hlat, hq, hothers, hhand, hdep, hflush⟩ hv hk hout
      he hj hres.1 hr hm ha
  · rw [markLost_some he hm hl]
    refine ⟨?_, rfl⟩
    exact (entry?_putEntry _ _ _).trans (if_pos (entry?_grain he))
  · rw [markLost_all he hm hl hs]
    refine ⟨?_, ?_⟩
    · refine ((entry?_congr (s := putEntry { e.losing m with slot := none } s) _ rfl).trans
        ((entry?_putEntry _ _ _).trans (if_pos (entry?_grain he)))).trans ?_
      rw [← hl]
      rfl
    · simp [retire]

end Sys2Proof.Machine
end

section
/-! SUPPORT. STATUS of an operation by its class of result, and what follows for a host piece: a retry, a piece handed to a
relocation, and a slot taken out of service (R73, R83 to R88). -/

namespace Sys2Proof.Machine

variable {s t u : State} {c : CmdId} {r : Record} {q : Piece} {o : TargetOp} {g i n tag done value : Nat}
  {detail : Option Nat}

/-! ## STATUS of an operation (R73, R83) -/

theorem op?_tag (h : s.op? tag = some o) : o.tag = tag := by simpa using List.find?_some h

/-- STATUS for a tag that is not in use. -/
theorem exec_status_unknown {result : Nat} (hl : s.te.link = .up) (ho : s.op? tag = none) :
    exec (.targetStatus tag result done detail value) s = .next s := by
  have e : takeStatus tag result done detail value s = s := by
    unfold takeStatus
    simp [hl, ho]
  show Host.Outcome.next (settleDown _) = _
  rw [e, settleDown_of_link (by simp [hl])]

/-- STATUS of an operation is the end of the operation; nothing fails after it while the link is UP. -/
theorem exec_status {result : Nat} (hl : s.te.link = .up) (ho : s.op? tag = some o)
    (he : endOp o result done detail s = t) (ht : t.te.link = .up) :
    exec (.targetStatus tag result done detail value) s = .next t := by
  have e : takeStatus tag result done detail value s = t := by
    unfold takeStatus
    simp [hl, ho, he]
  show Host.Outcome.next (settleDown _) = _
  rw [e, settleDown_of_link (by simp [ht])]

/-- The end of an operation by a final outcome. -/
theorem exec_status_final {result : Nat} {got : List Block} {out : TOutcome} (hl : s.te.link = .up)
    (ho : s.op? tag = some o) (he : endOp o result done detail s = finalOutcome o.req got out u)
    (hu : u.te.link = .up) : exec (.targetStatus tag result done detail value) s = .next (finalOutcome o.req got out u) :=
  exec_status hl ho he ((keeps_finalOutcome o.req got out (Keeps.refl u)).link.trans hu)

/-! ## Retries (R84, R85) -/

/-- An operation that waits for its interval is work of its owner. -/
theorem hasWork_interval {mine : Owner → Bool} {req : Request} (h : req ∈ s.te.intervals) (hm : mine req.owner = true) :
    s.hasWork mine = true := by
  have : s.te.intervals.any (fun x => mine x.owner) = true := List.any_eq_true.2 ⟨req, h, hm⟩
  unfold State.hasWork
  simp [this]

/-- A relocation that is not cut waits for its operations (R90, R91). -/
theorem relocAdvance_waits (hc : ∀ x, s.reloc? g = some x → x.cut = false) (hw : s.hasWork (Owner.ofReloc g) = true) :
    relocAdvance g s = s := by
  unfold relocAdvance
  split
  · rfl
  next x hx =>
    rw [hc x hx, hw]
    simp

/-- A merge run without a cause to stop waits for its operations (R105). -/
theorem mergeAdvance_waits (hc : s.mrg.cause = none) (hw : s.hasWork Owner.ofMerge = true) : mergeAdvance s = s := by
  unfold mergeAdvance
  split
  · rfl
  · simp [hc, hw]

/-- While a retry of it waits, the owner of an operation does nothing, unless it is to be cut or stopped (R84, R94, R111). -/
theorem ownerGoesOn_waits {req : Request} (h : req ∈ s.te.intervals)
    (hr : ∀ g x, s.reloc? g = some x → Owner.ofReloc g req.owner = true → x.cut = false)
    (hm : Owner.ofMerge req.owner = true → s.mrg.cause = none) : ownerGoesOn req.owner s = s := by
  cases ho : req.owner with
  | relocRead g off =>
    have hmine : Owner.ofReloc g req.owner = true := by simp [ho, Owner.ofReloc]
    exact relocAdvance_waits (fun x hx => hr g x hx hmine) (hasWork_interval h hmine)
  | relocWrite g off =>
    have hmine : Owner.ofReloc g req.owner = true := by simp [ho, Owner.ofReloc]
    exact relocAdvance_waits (fun x hx => hr g x hx hmine) (hasWork_interval h hmine)
  | mergeRead off =>
    have hmine : Owner.ofMerge req.owner = true := by simp [ho, Owner.ofMerge]
    exact mergeAdvance_waits (hm hmine) (hasWork_interval h hmine)
  | mergeWrite off =>
    have hmine : Owner.ofMerge req.owner = true := by simp [ho, Owner.ofMerge]
    exact mergeAdvance_waits (hm hmine) (hasWork_interval h hmine)
  | _ => rfl

/-- NOT_READY is retried after an interval (R83, R84). -/
theorem status_notReady (hl : s.te.link = .up) (ho : s.op? tag = some o) (hs : o.stop = none) (hn : o.req.notReady < 20)
    (hd : s.deadWrite o.req = false) (hr : ∀ g x, s.reloc? g = some x → Owner.ofReloc g o.req.owner = true → x.cut = false)
    (hm : Owner.ofMerge o.req.owner = true → s.mrg.cause = none) :
    exec (.targetStatus tag 0x05 done detail value) s = .next { s with te := { s.te with
      ops := s.te.ops.filter fun x => decide (x.tag ≠ tag),
      intervals := s.te.intervals ++ [{ o.req with cls := .recovery, notReady := o.req.notReady + 1 }] } } := by
  have htag := op?_tag ho
  subst htag
  refine exec_status (t := { s with te := { s.te with
    ops := s.te.ops.filter fun x => decide (x.tag ≠ o.tag),
    intervals := s.te.intervals ++ [{ o.req with cls := .recovery, notReady := o.req.notReady + 1 }] } }) hl ho ?_ hl
  unfold endOp
  rw [hs]
  show notReadyEnd o.req (removeOp o.tag s) = _
  unfold notReadyEnd
  rw [if_pos ⟨hn, hd⟩]
  exact ownerGoesOn_waits (req := { o.req with cls := .recovery, notReady := o.req.notReady + 1 }) (by simp [removeOp]) hr hm

/-- A slot read of a host piece is retried once on MEDIA_ERROR (R85). -/
theorem status_media_retry (hl : s.te.link = .up) (ho : s.op? tag = some o) (hs : o.stop = none)
    (hown : o.req.owner = .piece c i) (hread : o.req.op = .read) (hr : s.rec? c = some r) (hq : r.plan[i]? = some q)
    (hk : q.kind = .slot n) (hm : o.req.media = 0) :
    exec (.targetStatus tag 0x0C done detail value) s = .next { s with te := { s.te with
      ops := s.te.ops.filter fun x => decide (x.tag ≠ tag),
      recoveryQ := s.te.recoveryQ ++ [{ o.req with cls := .recovery, media := 1 }] } } := by
  have htag := op?_tag ho
  subst htag
  have hslot : (removeOp o.tag s).slotRead o.req = true := by
    have hp : (removeOp o.tag s).pieceSlot (.piece c i) = some n := by
      unfold State.pieceSlot
      dsimp only
      rw [show (removeOp o.tag s).rec? c = some r from hr]
      simp [hq, Piece.slot?, hk]
    unfold State.slotRead
    rw [hread, hown]
    simp [hp]
  refine exec_status (t := { s with te := { s.te with
    ops := s.te.ops.filter fun x => decide (x.tag ≠ o.tag),
    recoveryQ := s.te.recoveryQ ++ [{ o.req with cls := .recovery, media := 1 }] } }) hl ho ?_ hl
  unfold endOp
  rw [hs]
  show mediaEnd o done detail (removeOp o.tag s) = _
  unfold mediaEnd
  rw [if_neg (by simp [hread]), if_pos (by simp [hslot, hm])]
  have hid : ownerGoesOn o.req.owner = id := by rw [hown]; rfl
  show ownerGoesOn o.req.owner _ = _
  rw [hid]
  rfl

/-! ## A relocation is requested (R88) -/

theorem reloc?_congr (g : Nat) (h : t.te.relocs = s.te.relocs) : t.reloc? g = s.reloc? g := by
  unfold State.reloc?
  rw [h]

/-- A request for a grain without a relocation is the grain's relocation (R88). -/
theorem reloc?_requestReloc {region : Nat} {cause : RelocCause} {deps : List Dependant} {lost : Mask} {retired : List Nat}
    (h : s.reloc? g = none) : ∃ x, (requestReloc g region cause deps lost retired s).reloc? g = some x ∧
      x.cause = cause ∧ x.dependants = deps ∧ x.lost = lost ∧ x.retired = retired := by
  have hadd (x : Reloc) (hx : x.grain = g) : (setRelocs (· ++ [x]) s).reloc? g = some x := by
    unfold State.reloc? setRelocs at *
    dsimp only
    rw [List.find?_append, h]
    simp [hx]
  unfold requestReloc
  dsimp only
  split
  · exact ⟨_, reloc?_mapReloc (f := fun y => { y with stage := .held }) (hadd _ rfl) fun _ => rfl, rfl, rfl, rfl, rfl⟩
  · exact ⟨_, hadd _ rfl, rfl, rfl, rfl, rfl⟩

/-- A piece that has been handed. -/
def pieceHanded (c : CmdId) (i : Nat) (s : State) : State := mapPiece c i (fun p => { p with state := .handed }) s

theorem pieceHanded_rec? (hr : s.rec? c = some r) (hq : r.plan[i]? = some q) :
    (pieceHanded c i s).rec? c = some { r with plan := r.plan.set i { q with state := .handed } } := by
  have h : (pieceHanded c i s).rec? c =
      some { r with plan := r.plan.modify i fun p => { p with state := .handed } } :=
    mapRec_some (f := fun y => { y with plan := y.plan.modify i fun p => { p with state := .handed } }) hr fun _ => rfl
  rwa [modify_eq_set _ hq] at h

/-- A grain without a relocation gets one, for the piece, when its slot is out of service or it has none (R87, R88). -/
theorem handPiece_requests {retired : List Nat} (hr : s.rec? c = some r) (hq : r.plan[i]? = some q)
    (hn : s.reloc? (grainOf q.first) = none) (hs : ∀ n, s.slotOf (grainOf q.first) = some n → s.outOfService n = true) :
    ∃ region, handPiece c i retired s =
      requestReloc (grainOf q.first) region .writeFault [⟨c, i⟩] 0 retired (pieceHanded c i s) := by
  unfold handPiece
  simp only [hr, hq, hn]
  cases hslot : s.slotOf (grainOf q.first) with
  | none => exact ⟨_, rfl⟩
  | some n =>
    simp only [hs n hslot, if_true]
    exact ⟨_, rfl⟩

/-! ## A slot out of service (R32, R87) -/

theorem slotOf_eq (h : s.slotOf g = some n) : ∃ e, s.entry? g = some e ∧ e.slot = some n := Option.bind_eq_some_iff.1 h

/-- A slot bound to the grain is condemned (R87). -/
theorem takeOutOfService_bound (hs : s.slotOf g = some n) (ho : s.outOfService n = false) :
    takeOutOfService g n s = ([], { s with ov := { s.ov with condemned := s.ov.condemned ++ [n] } }) := by
  unfold State.outOfService at ho
  obtain ⟨hc, -⟩ := Bool.or_eq_false_iff.1 ho
  unfold takeOutOfService
  rw [if_pos hs, hc]
  rfl

/-- A slot reserved for the grain is retired (R87). -/
theorem takeOutOfService_reserved (hs : s.slotOf g = none) (hr : (s.reservation? g).map (·.slot) = some n) :
    takeOutOfService g n s = ([n], retire n (endReservation g s)) := by
  have hserves : s.servesGrain g n = true := by
    obtain ⟨y, hy, hn⟩ := Option.map_eq_some_iff.1 hr
    unfold State.servesGrain
    rw [hs]
    simp [hy, hn]
  unfold takeOutOfService
  rw [hs, if_neg (by simp), hserves]
  rfl

/-- A slot that has been in service is retired at the end of the retired slots (R35, R87). -/
theorem retire_fresh (ho : s.outOfService n = false) :
    (retire n s).ov.retired = s.ov.retired ++ [n] ∧ (retire n s).ov.condemned = s.ov.condemned := by
  unfold State.outOfService at ho
  obtain ⟨hc, hr⟩ := Bool.or_eq_false_iff.1 ho
  refine ⟨?_, ?_⟩
  · unfold retire
    simp only [hr]
    rfl
  · refine List.filter_eq_self.2 fun y hy => decide_eq_true fun e => ?_
    subst e
    simp [hy] at hc

/-! ## The pieces that wait to be issued (R65, R84) -/

/-- No write piece waits to be issued to a slot. -/
theorem readyOn_eq_nil : s.readyOn n = [] ↔ ∀ y ∈ s.adm.records, y.op = .write → ∀ j p, y.plan[j]? = some p →
    p.kind = .slot n → s.waitsToIssue y.id j p = false := by
  unfold State.readyOn
  rw [List.flatMap_eq_nil_iff]
  refine forall_congr' fun y => forall_congr' fun _ => ?_
  by_cases ho : y.op = .write
  · rw [if_pos ho, List.filterMap_eq_nil_iff]
    refine ⟨fun h _ j p hp hk => ?_, fun h j _ => ?_⟩
    · have hlt := (List.getElem?_eq_some_iff.1 hp).1
      have := h j (List.mem_range.2 hlt)
      rw [hp] at this
      simpa [hk] using this
    · cases hp : y.plan[j]? with
      | none => rfl
      | some p =>
        have := h ho j p hp
        simpa using fun hk => this hk
  · simp [ho]

/-- A piece that waits for nothing does not wait once an operation of another piece has ended. -/
theorem waitsToIssue_removeOp {d : CmdId} {j : Nat} {p : Piece} (ho : o ∈ s.te.ops) (htab : s.te.tableOk)
    (hte : t.te.ops = (removeOp o.tag s).te.ops) (hne : o.req.owner ≠ .piece d j) (h : s.waitsToIssue d j p = false) :
    t.waitsToIssue d j p = false := by
  have htags : (s.te.ops.map (·.tag)).Nodup := by simpa [TargetOp.face, Function.comp_def] using htab.1
  have hfly : t.inFlight (fun x => decide (x = .piece d j)) = s.inFlight fun x => decide (x = .piece d j) := by
    unfold State.inFlight
    rw [hte, Bool.eq_iff_iff, List.any_eq_true, List.any_eq_true]
    refine exists_congr fun y => and_congr_left fun hy => ⟨fun h => (List.mem_filter.1 h).1, fun h => ?_⟩
    refine List.mem_filter.2 ⟨h, decide_eq_true fun e => hne ?_⟩
    rw [← List.inj_on_of_nodup_map htags h ho e]
    exact of_decide_eq_true hy
  unfold State.waitsToIssue at *
  rwa [hfly]

/-- No piece comes to wait for a slot as the operation of a piece ends and the piece is handed. -/
theorem readyOn_handed (ho : o ∈ s.te.ops) (hown : o.req.owner = .piece c i) (htab : s.te.tableOk)
    (hrecs : t.adm.records = (pieceHanded c i s).adm.records) (hte : t.te.ops = (removeOp o.tag s).te.ops)
    (h : s.readyOn n = []) : t.readyOn n = [] := by
  rw [readyOn_eq_nil] at h ⊢
  rw [hrecs]
  intro y hy hop j p hp hk
  have other {x : Record} (hx : x ∈ s.adm.records) (hxo : x.op = .write) (hxp : x.plan[j]? = some p)
      (hne : Owner.piece c i ≠ .piece x.id j) : t.waitsToIssue x.id j p = false :=
    waitsToIssue_removeOp ho htab hte (hown ▸ hne) (h x hx hxo j p hxp hk)
  rcases mem_mapRec hy with ⟨hne, hx⟩ | ⟨x, hx, hxc, rfl⟩
  · exact other hx hop hp fun e => hne (by cases e; rfl)
  · simp only [List.getElem?_modify] at hp
    by_cases hj : i = j
    · subst hj
      simp only [if_true] at hp
      obtain ⟨z, -, rfl⟩ := Option.map_eq_some_iff.1 hp
      rfl
    · have hp : x.plan[j]? = some p := by simpa [hj] using hp
      exact other (x := x) hx hop hp fun e => hj (by cases e; rfl)

end Sys2Proof.Machine
end

section
/-! SUPPORT. The final outcomes of host pieces: a slot write that failed, a read that joins its record, a read that lost a
block, and the last piece of a WRITE (R74 to R77, R86 to R89). -/

namespace Sys2Proof.Machine

variable {s t u : State} {c : CmdId} {r : Record} {q : Piece} {o : TargetOp} {e : Entry} {m : Mask}
  {b g h i k n tag done value : Nat} {detail : Option Nat}

/-! ## The end of a WRITE piece (R75, R77, R87) -/

/-- The final outcome of a WRITE piece. -/
theorem finalOutcome_write {got : List Block} {out : TOutcome} (hown : o.req.owner = .piece c i)
    (hr : s.rec? c = some r) (hop : r.op = .write) (hq : r.plan[i]? = some q) :
    finalOutcome o.req got out s = writePieceEnd c i r q out s := by
  unfold finalOutcome pieceEnd
  rw [hown]
  simp [hr, hq, hop]

/-- The final outcome of a READ piece. -/
theorem finalOutcome_read {got : List Block} {out : TOutcome} (hown : o.req.owner = .piece c i)
    (hr : s.rec? c = some r) (hop : r.op = .read) (hq : r.plan[i]? = some q) :
    finalOutcome o.req got out s = readPieceEnd c i r q got out s := by
  unfold finalOutcome pieceEnd
  rw [hown]
  simp [hr, hq, hop]

/-- A piece whose slot is out of service is handed whatever its outcome (R87). -/
theorem writePieceEnd_dead {out : TOutcome} (hk : q.kind = .slot n) (ho : s.outOfService n = true) :
    writePieceEnd c i r q out s = handPiece c i [] s := by
  unfold writePieceEnd
  simp [hk, ho]

/-- A slot write that failed on the medium takes its slot out of service and is handed (R87). -/
theorem writePieceEnd_media (hk : q.kind = .slot n) (ho : s.outOfService n = false) :
    writePieceEnd c i r q (.media k) s = handReady n (handPiece c i (takeOutOfService (grainOf q.first) n s).1
      (takeOutOfService (grainOf q.first) n s).2) := by
  unfold writePieceEnd
  simp [hk, ho]

/-- The end of an operation of a dead WRITE piece, which is not retried (R83, R84, R87). -/
theorem endOp_dead {result : Nat} (hs : o.stop = none) (hres : result = 0x05 ∨ result = 0x0E)
    (hd : s.deadWrite o.req = true) : endOp o result done detail s = finalOutcome o.req [] .fault (removeOp o.tag s) := by
  have hd' : (removeOp o.tag s).deadWrite o.req = true := hd
  unfold endOp
  rw [hs]
  rcases hres with rfl | rfl
  · show notReadyEnd o.req (removeOp o.tag s) = _
    unfold notReadyEnd
    rw [if_neg (by simp [hd'])]
  · show dataCheckEnd o.req (removeOp o.tag s) = _
    unfold dataCheckEnd
    rw [if_neg (by simp [hd'])]

/-- A piece to a condemned slot, whose operation ended with a failure that is otherwise retried, is handed (R87). -/
theorem status_dead {result : Nat} (hl : s.te.link = .up) (ho : s.op? tag = some o) (hs : o.stop = none)
    (hres : result = 0x05 ∨ result = 0x0E) (hown : o.req.owner = .piece c i) (hw : o.req.op = .write)
    (hr : s.rec? c = some r) (hop : r.op = .write) (hq : r.plan[i]? = some q) (hk : q.kind = .slot n)
    (hc : s.ov.condemned.contains n = true) (hslot : s.slotOf (grainOf q.first) = some n)
    (hn : s.reloc? (grainOf q.first) = none) :
    ∃ t x, exec (.targetStatus tag result done detail value) s = .next t ∧
      t.rec? c = some { r with plan := r.plan.set i { q with state := .handed } } ∧
      t.te.intervals = s.te.intervals ∧ t.te.recoveryQ = s.te.recoveryQ ∧
      t.reloc? (grainOf q.first) = some x ∧ x.cause = .writeFault ∧ x.dependants = [⟨c, i⟩] := by
  have hout : s.outOfService n = true := by
    unfold State.outOfService
    rw [hc]
    rfl
  have hdead : s.deadWrite o.req = true := by
    unfold State.deadWrite State.pieceSlot
    rw [hown, hw]
    simp [hr, hq, Piece.slot?, hk, hout]
  have hexec := exec_status_final (value := value) hl ho (endOp_dead (done := done) (detail := detail) hs hres hdead) hl
  obtain ⟨region, hhand⟩ := handPiece_requests (s := removeOp o.tag s) (retired := []) hr hq hn
    fun n' hs' => by cases hslot.symm.trans hs'; exact hout
  rw [finalOutcome_write (s := removeOp o.tag s) hown hr hop hq,
    writePieceEnd_dead (s := removeOp o.tag s) hk hout, hhand] at hexec
  obtain ⟨x, hx, hcause, hdeps, -⟩ := reloc?_requestReloc (s := pieceHanded c i (removeOp o.tag s)) (region := region)
    (cause := .writeFault) (deps := [⟨c, i⟩]) (lost := 0) (retired := []) hn
  refine ⟨_, x, hexec, ?_, by simp [pieceHanded, removeOp], by simp [pieceHanded, removeOp], hx, hcause, hdeps⟩
  exact (rec_congr c (by simp)).trans (pieceHanded_rec? (s := removeOp o.tag s) hr hq)

/-- The place of a failure on the medium may be a free one (R83). -/
theorem failingPlace_eq (req : Request) (done : Nat) (detail : Option Nat) (s : State) :
    ∃ k n, failingPlace req done detail s = (k, { s with free := n }) := by
  unfold failingPlace
  dsimp only
  split
  · exact ⟨_, s.free, rfl⟩
  · exact ⟨_, s.free + 1, rfl⟩

/-- A write that failed on the medium is not retried (R85). -/
theorem endOp_media_write (hs : o.stop = none) (hw : o.req.op = .write) : ∃ k n,
    endOp o 0x0C done detail s = finalOutcome o.req o.got (.media k) { removeOp o.tag s with free := n } := by
  obtain ⟨k, n, hp⟩ := failingPlace_eq o.req done detail (removeOp o.tag s)
  refine ⟨k, n, ?_⟩
  have hread : (removeOp o.tag s).slotRead o.req = false := by
    unfold State.slotRead
    simp [hw]
  unfold endOp
  rw [hs]
  show mediaEnd o done detail (removeOp o.tag s) = _
  unfold mediaEnd
  rw [if_neg (by simp [hw]), if_neg (by simp [hread]), hp]

/-- What a slot write that failed on the medium leaves: its piece is handed to a relocation of its own, and the slot, as the
taking out of service has left the store, is not used again (R87, R88). -/
theorem status_media_write (hl : s.te.link = .up) (ho : s.op? tag = some o) (hs : o.stop = none)
    (hown : o.req.owner = .piece c i) (hw : o.req.op = .write) (hr : s.rec? c = some r) (hop : r.op = .write)
    (hq : r.plan[i]? = some q) (hk : q.kind = .slot n) (hout : s.outOfService n = false)
    (hn : s.reloc? (grainOf q.first) = none) (hready : s.readyOn n = []) (htab : s.te.tableOk)
    (hplace : s.slotOf (grainOf q.first) = some n ∨ (s.slotOf (grainOf q.first) = none ∧
      (s.reservation? (grainOf q.first)).map (·.slot) = some n)) :
    ∃ t x, exec (.targetStatus tag 0x0C done detail value) s = .next t ∧
      t.rec? c = some { r with plan := r.plan.set i { q with state := .handed } } ∧
      t.reloc? (grainOf q.first) = some x ∧ x.cause = .writeFault ∧ x.dependants = [⟨c, i⟩] ∧
      x.retired = (takeOutOfService (grainOf q.first) n s).1 ∧ t.ov = (takeOutOfService (grainOf q.first) n s).2.ov := by
  obtain ⟨k, f, hend⟩ := endOp_media_write (s := s) (done := done) (detail := detail) hs hw
  have hexec := exec_status_final (value := value) hl ho hend hl
  generalize hu : ({ removeOp o.tag s with free := f } : State) = u at hexec
  obtain ⟨retired, v, htake, hret, hov, hadm, hte⟩ : ∃ retired v, takeOutOfService (grainOf q.first) n u = (retired, v) ∧
      retired = (takeOutOfService (grainOf q.first) n s).1 ∧ v.ov = (takeOutOfService (grainOf q.first) n s).2.ov ∧
      v.adm = s.adm ∧ v.te = (removeOp o.tag s).te := by
    subst hu
    rcases hplace with hb | ⟨hnone, hres⟩
    · rw [takeOutOfService_bound (s := { removeOp o.tag s with free := f }) hb hout, takeOutOfService_bound hb hout]
      exact ⟨_, _, rfl, rfl, rfl, rfl, rfl⟩
    · rw [takeOutOfService_reserved (s := { removeOp o.tag s with free := f }) hnone hres,
        takeOutOfService_reserved hnone hres]
      exact ⟨_, _, rfl, rfl, rfl, rfl, rfl⟩
  have hrv : v.rec? c = some r := (rec_congr c (by rw [hadm])).trans hr
  have hnv : v.reloc? (grainOf q.first) = none := (reloc?_congr _ (by rw [hte]; rfl)).trans hn
  have hsv : ∀ m, v.slotOf (grainOf q.first) = some m → v.outOfService m = true := by
    intro m hm
    unfold State.outOfService
    rcases hplace with hb | ⟨hnone, hres⟩
    · rw [takeOutOfService_bound hb hout] at hov
      have hm' : s.slotOf (grainOf q.first) = some m := by rw [← hm]; exact slotOf_congr _ (by rw [hov])
      cases hb.symm.trans hm'
      simp [hov]
    · rw [takeOutOfService_reserved hnone hres] at hov
      have hm' : s.slotOf (grainOf q.first) = some m := by rw [← hm]; exact slotOf_congr _ (by rw [hov]; rfl)
      cases hnone.symm.trans hm'
  obtain ⟨region, hhand⟩ := handPiece_requests (retired := retired) hrv hq hnv hsv
  have hidle : handReady n (handPiece c i retired v) = handPiece c i retired v := by
    have hnil : (handPiece c i retired v).readyOn n = [] := by
      rw [hhand]
      refine readyOn_handed (mem_of_op? ho) hown htab ?_ (by simp [pieceHanded, hte]) hready
      simp [pieceHanded, mapPiece, mapRec, hadm]
    unfold handReady
    rw [hnil]
    rfl
  have hru : u.rec? c = some r := by rw [← hu]; exact hr
  have houtu : u.outOfService n = false := by rw [← hu]; exact hout
  rw [finalOutcome_write hown hru hop hq, writePieceEnd_media hk houtu, htake] at hexec
  dsimp only at hexec
  rw [hidle, hhand] at hexec
  obtain ⟨x, hx, hcause, hdeps, -, hxr⟩ := reloc?_requestReloc (s := pieceHanded c i v) (region := region)
    (cause := .writeFault) (deps := [⟨c, i⟩]) (lost := 0) (retired := retired) hnv
  refine ⟨_, x, hexec, (rec_congr c (by simp)).trans (pieceHanded_rec? hrv hq), hx, hcause, hdeps, hxr.trans hret, ?_⟩
  simpa [pieceHanded] using hov

/-! ## A READ that goes on (R69, R74) -/

/-- A READ sends nothing without an unused grant, and goes on while its delivery end is not reached (R69). -/
theorem deliver_idle (hr : s.rec? c = some r) (hg : (s.tag c).granted = (s.tag c).moved)
    (hm : (s.tag c).moved ≠ r.deliveryEnd) : deliver c s = s := by
  unfold deliver
  rw [deliverBlocks_stop _ hr (by omega)]
  unfold deliveryCheck
  simp [hr, hm]

/-- A READ that has sent what it may ends with its failure (R69, R77). -/
theorem deliver_cut {x : PendingResult} (hr : s.rec? c = some r) (ho : r.op = .read) (hs : r.state = .active)
    (hw : r.winding = false) (hg : (s.tag c).granted = (s.tag c).moved) (hm : (s.tag c).moved = r.deliveryEnd)
    (hx : r.result = some x) : deliver c s = endRecord c x.result (s.tag c).moved x.block 0 s := by
  unfold deliver
  rw [deliverBlocks_stop _ hr (by omega)]
  unfold deliveryCheck
  rw [hr]
  dsimp only
  rw [if_pos ⟨ho, hs, hw, hm⟩, hx]

/-- A READ that is not wound down ends with its delivery alone (R74). -/
theorem endCheck_read (hr : s.rec? c = some r) (ho : r.op = .read) (hs : r.state = .active) (hw : r.winding = false) :
    endCheck c s = s := by
  unfold endCheck
  rw [hr]
  dsimp only
  split
  · rfl
  · rw [hs]
    simp [hw, ho]

theorem endCheck_none (hr : s.rec? c = none) : endCheck c s = s := by
  unfold endCheck
  rw [hr]

/-- A READ piece whose data has arrived (R74). -/
def pieceRead (c : CmdId) (i : Nat) (got : List Block) (s : State) : State :=
  mapPiece c i (fun p => { p with state := .done, data := got }) s

theorem pieceRead_rec? {got : List Block} (hr : s.rec? c = some r) (hq : r.plan[i]? = some q) :
    (pieceRead c i got s).rec? c = some { r with plan := r.plan.set i { q with state := .done, data := got } } := by
  have h : (pieceRead c i got s).rec? c =
      some { r with plan := r.plan.modify i fun p => { p with state := .done, data := got } } :=
    mapRec_some (f := fun y => { y with plan := y.plan.modify i fun p => { p with state := .done, data := got } }) hr
      fun _ => rfl
  rwa [modify_eq_set _ hq] at h

/-- A READ that is delivered whole keeps what arrives for it (R74). -/
theorem readPieceEnd_ok {got : List Block} (hs : r.state = .active) (hw : r.winding = false) (hc : r.cut = none) :
    readPieceEnd c i r q got .ok s = endCheck c (deliver c (pieceRead c i got s)) := by
  have hb : r.beyondEnd q = false := by
    unfold Record.beyondEnd
    rw [hc]
    rfl
  unfold readPieceEnd readGoesOn readDone
  simp [hs, hw, hb]
  rfl

/-- STATUS OK of a READ piece: its data joins the record, which goes on to deliver (R74). -/
theorem status_read_ok (hl : s.te.link = .up) (ho : s.op? tag = some o) (hs : o.stop = none)
    (hown : o.req.owner = .piece c i) (hread : o.req.op = .read) (hgot : o.got.length = o.req.count)
    (hr : s.rec? c = some r) (hop : r.op = .read) (hst : r.state = .active) (hw : r.winding = false) (hc : r.cut = none)
    (hq : r.plan[i]? = some q) : exec (.targetStatus tag 0x00 done detail value) s =
      .next (endCheck c (deliver c (pieceRead c i o.got (removeOp o.tag s)))) := by
  have hcomplete : o.complete = true := by
    unfold TargetOp.complete
    rw [hread]
    exact decide_eq_true hgot
  rw [exec_status_ok hl ho hs hcomplete, finalOutcome_read (s := removeOp o.tag s) hown hr hop hq,
    readPieceEnd_ok hst hw hc]

/-- Without a grant the READ waits with its data. -/
theorem status_read_waits (hl : s.te.link = .up) (ho : s.op? tag = some o) (hs : o.stop = none)
    (hown : o.req.owner = .piece c i) (hread : o.req.op = .read) (hgot : o.got.length = o.req.count)
    (hr : s.rec? c = some r) (hop : r.op = .read) (hst : r.state = .active) (hw : r.winding = false) (hc : r.cut = none)
    (hq : r.plan[i]? = some q) (hg : (s.tag c).granted = (s.tag c).moved) (hm : (s.tag c).moved < r.count) :
    ∃ t, exec (.targetStatus tag 0x00 done detail value) s = .next t ∧
      t.rec? c = some { r with plan := r.plan.set i { q with state := .done, data := o.got } } ∧ t.pool = s.pool ∧
      t.outA = s.outA ∧ t.outB = s.outB := by
  have hrec := pieceRead_rec? (s := removeOp o.tag s) (got := o.got) hr hq
  have hend : (s.tag c).moved ≠ Record.deliveryEnd { r with plan := r.plan.set i { q with state := .done, data := o.got } } := by
    simp only [Record.deliveryEnd, hc]
    omega
  have hexec := status_read_ok (done := done) (value := value) (detail := detail) hl ho hs hown hread hgot hr hop hst hw hc hq
  rw [deliver_idle hrec hg hend, endCheck_read hrec hop hst hw] at hexec
  exact ⟨_, hexec, hrec, rfl, rfl, rfl⟩

/-- The last block of a READ, whose grant is there, is sent with its STATUS (R69, R74). -/
theorem status_read_ends {blk : Block} (hl : s.te.link = .up) (ho : s.op? tag = some o) (hs : o.stop = none)
    (hown : o.req.owner = .piece c i) (hread : o.req.op = .read) (hgot : o.got.length = o.req.count)
    (hr : s.rec? c = some r) (hop : r.op = .read) (hst : r.state = .active) (hw : r.winding = false) (hc : r.cut = none)
    (hq : r.plan[i]? = some q) (hres : r.result = none) (ha : s.answerable c) (hopen : (s.tag c).isOpen = true)
    (hg : (s.tag c).granted = r.count) (hm : (s.tag c).moved + 1 = r.count)
    (hb : Record.readyBlock { r with plan := r.plan.set i { q with state := .done, data := o.got } } (s.tag c).moved =
      some blk) : ∃ t, exec (.targetStatus tag 0x00 done detail value) s = .next t ∧
        t.endedWith s c [.data c.tag (s.tag c).moved blk, s.statusFor c .ok r.count none 0] := by
  obtain ⟨hup, hd⟩ := ha
  have hrec := pieceRead_rec? (s := removeOp o.tag s) (got := o.got) hr hq
  have hended := deliver_last_endedWith (s := pieceRead c i o.got (removeOp o.tag s)) hrec hop hst hw hres hc
    (tag_lt_of_open hopen) (hg.trans hm.symm) hm hb hup hd
  have hexec := status_read_ok (done := done) (value := value) (detail := detail) hl ho hs hown hread hgot hr hop hst hw hc hq
  rw [endCheck_none hended.1] at hexec
  exact ⟨_, hexec, hended⟩

/-! ## The last piece of a WRITE (R75, R76) -/

/-- A WRITE to a base area ends OK with its last piece. -/
theorem status_write_ends (hl : s.te.link = .up) (ho : s.op? tag = some o) (hs : o.stop = none)
    (hown : o.req.owner = .piece c i) (hw : o.req.op = .write) (hmoved : o.moved = o.req.count) (h : LastPiece s c r i q)
    (hk : q.kind = .base) (ha : s.answerable c) : ∃ t, exec (.targetStatus tag 0x00 done detail value) s = .next t ∧
      t.endedWith s c [s.statusFor c .ok r.count none 0] := by
  obtain ⟨hup, hd⟩ := ha
  have hend : endCheck c (pieceDone c i q.held (removeOp o.tag s)) =
      endRecord c .ok r.count none 0 (pieceDone c i q.held (removeOp o.tag s)) :=
    (h.removeOp o.tag).ends (n := q.held) rfl rfl rfl
  have hexec := exec_write_ok (done := done) (value := value) (detail := detail) hl ho hs hown hw hmoved h
  have hw' : writePieceEnd c i r q .ok (removeOp o.tag s) =
      endRecord c .ok r.count none 0 (pieceDone c i q.held (removeOp o.tag s)) := by
    rw [← hend]
    unfold writePieceEnd
    rw [hk]
    rfl
  rw [hw'] at hexec
  refine ⟨_, hexec, endRecord_ends_of _ _ _ _ (out_congr _ rfl rfl) (mg_congr _ rfl rfl) ?_ ?_⟩
  · rw [hp_congr (s := s) (t := pieceDone c i q.held (removeOp o.tag s)) c.port rfl rfl, hup]
    simp
  · exact (deferred_congr _ rfl).trans hd

/-! ## A slot read that lost a block (R77, R86) -/

/-- No records have no names, and are handed on at once. -/
theorem nameRecords_nil (s : State) : nameRecords [] s = ([], s) := rfl

theorem handOff_nil (by' : Producer) (s : State) : handOff by' [] s = (true, s) := rfl

/-- A block lost from a slot that keeps others, of a volatile region, is marked and the grain is to be moved (R31, R86, R88). -/
theorem readLost_marks (hn : s.reloc? (grainOf b) = none) (he : s.entry? (grainOf b) = some e) (hs : e.slot.isSome = true)
    (hj : s.journaled e.region = false) (hm : e.present &&& maskBit (b % 8) ≠ 0)
    (hl : maskLess e.present (e.present &&& maskBit (b % 8)) ≠ 0) : readLost b s =
      requestReloc (grainOf b) e.region .readFault [] (maskBit (b % 8)) [] (putEntry (e.losing (maskBit (b % 8))) s) := by
  have hput : (putEntry (e.losing (maskBit (b % 8))) s).entry? (grainOf b) = some (e.losing (maskBit (b % 8))) :=
    (entry?_putEntry _ _ _).trans (if_pos (entry?_grain he))
  have hrecords : lostRecords (grainOf b) (e.present &&& maskBit (b % 8), none)
      (putEntry (e.losing (maskBit (b % 8))) s) = [] := by
    have hj' : (putEntry (e.losing (maskBit (b % 8))) s).journaled (e.losing (maskBit (b % 8))).region = false := hj
    unfold lostRecords
    simp [hput, hj']
  have hslot : ((putEntry (e.losing (maskBit (b % 8))) s).slotOf (grainOf b)).isSome = true := by
    unfold State.slotOf
    rw [hput]
    exact hs
  have hreloc : (putEntry (e.losing (maskBit (b % 8))) s).reloc? (grainOf b) = none := hn
  have hfault : readFaultReloc (grainOf b) e.region (maskBit (b % 8)) (putEntry (e.losing (maskBit (b % 8))) s) =
      requestReloc (grainOf b) e.region .readFault [] (maskBit (b % 8)) [] (putEntry (e.losing (maskBit (b % 8))) s) := by
    unfold readFaultReloc
    rw [hreloc]
    exact if_pos hslot
  unfold readLost
  dsimp only
  rw [markLost_some he hm hl]
  dsimp only
  rw [hrecords, nameRecords_nil, he]
  exact hfault

/-- A READ cut at a block (R77). -/
theorem cutRead_rec? {res : Result} {f : Nat} (hr : s.rec? c = some r) (hs : r.state = .active) (hc : r.cut = none) :
    ∃ plan, (cutRead c res f s).rec? c =
      some { r with plan := plan, cut := some f, result := failResult r.result res f } := by
  have h : (mapRec c (fun y => { y with cut := some f, result := failResult y.result res f }) s).rec? c =
      some { r with cut := some f, result := failResult r.result res f } :=
    mapRec_some (f := fun y => { y with cut := some f, result := failResult y.result res f }) hr fun _ => rfl
  unfold cutRead
  rw [hr]
  dsimp only
  rw [if_neg (by simp [hs, hc])]
  exact ⟨_, freePieces_rec? (withdrawPieces_rec? h)⟩

/-- A READ piece that failed, with the buffers of its leading blocks (R67, R77). -/
theorem readFailed_eq {got : List Block} (hs : r.state = .active) (hw : r.winding = false) (hc : r.cut = none) :
    readFailed c i k r q got s =
      release (.host c.port) (q.held - k) (mapPiece c i (fun p => { p with state := .failed, held := k, data := got }) s) := by
  have hb : r.beyondEnd q = false := by
    unfold Record.beyondEnd
    rw [hc]
    rfl
  unfold readFailed
  simp [hs, hw, hb]

theorem leadingBlocks_eq (n : Nat) (got : List Block) (s : State) :
    ∃ bs f, leadingBlocks n got s = (bs, { s with free := f }) := by
  unfold leadingBlocks
  split
  · exact ⟨_, s.free, rfl⟩
  · exact ⟨_, _, rfl⟩

/-- The relocations once a record has left: none has a piece of it as dependant (R53, R89). -/
theorem leave_relocs (h : s.rec? c = some r) : (leave c s).te.relocs =
    s.te.relocs.map fun x => { x with dependants := x.dependants.filter fun d => decide (d.cmd ≠ c) } := by
  have hid := rec?_id h
  rw [leave_departed h]
  unfold departed removeRecord letGo undepend
  split <;> simp [hid]

theorem endRecord_reloc? {x : Reloc} {res : Result} {d : Option Nat} {v : Nat} (hr : s.rec? c = some r)
    (h : s.reloc? g = some x) (hx : x.dependants = []) : (endRecord c res done d v s).reloc? g = some x := by
  have hr' : (sendStatus c res done d v s).rec? c = some r := (rec?_sendStatus ..).trans hr
  have hrelocs : (sendStatus c res done d v s).te.relocs = s.te.relocs := by simp
  unfold State.reloc? at h ⊢
  unfold endRecord
  rw [leave_relocs hr', hrelocs, List.find?_map]
  show Option.map _ (s.te.relocs.find? fun x => x.grain == g) = _
  rw [h]
  simp only [Option.map_some, hx, List.filter_nil]
  rw [← hx]

end Sys2Proof.Machine
end

section
/-! SUPPORT. A slot read that failed on the medium for the second time, and the STATUS of operations together (R77, R85, R86). -/

namespace Sys2Proof.Machine

variable {s t u : State} {c : CmdId} {r : Record} {q : Piece} {o : TargetOp} {e : Entry}
  {b g i k n tag done value : Nat} {detail : Option Nat}

/-- What a READ meets that loses a block of a volatile slot: it is being delivered, and nothing of it has failed before; the
slot keeps other blocks, and no relocation of the grain stands. -/
structure LosingRead (s : State) (c : CmdId) (r : Record) (i : Nat) (q : Piece) (b : Nat) (e : Entry) : Prop where
  rec?    : s.rec? c = some r
  op      : r.op = .read
  state   : r.state = .active
  winding : r.winding = false
  cut     : r.cut = none
  result  : r.result = none
  piece   : r.plan[i]? = some q
  idle    : (s.tag c).granted = (s.tag c).moved
  ahead   : r.first + (s.tag c).moved ≤ b
  reloc   : s.reloc? (grainOf b) = none
  entry   : s.entry? (grainOf b) = some e
  slot    : e.slot.isSome = true
  noted   : s.journaled e.region = false
  present : e.present &&& maskBit (b % 8) ≠ 0
  left    : maskLess e.present (e.present &&& maskBit (b % 8)) ≠ 0

/-- The operation that ends is none of these. -/
theorem LosingRead.removeOp (h : LosingRead s c r i q b e) (tag : Nat) : LosingRead (removeOp tag s) c r i q b e :=
  ⟨h.rec?, h.op, h.state, h.winding, h.cut, h.result, h.piece, h.idle, h.ahead, h.reloc, h.entry, h.slot, h.noted, h.present,
    h.left⟩

/-- The state in which the READ has been cut at the lost block: its entry is marked, its grain is to be moved, and no frame has
been sent (R31, R77, R86). -/
structure CutThere (s u : State) (c : CmdId) (r : Record) (b : Nat) (e : Entry) : Prop where
  rec?     : ∃ plan, u.rec? c = some { r with plan := plan, cut := some b, result := some ⟨.lostData, some b⟩ }
  entry    : u.entry? (grainOf b) = some (e.losing (maskBit (b % 8)))
  reloc    : ∃ x, u.reloc? (grainOf b) = some x ∧ x.cause = .readFault ∧ x.dependants = [] ∧ x.lost = maskBit (b % 8)
  ports    : u.hpA = s.hpA ∧ u.hpB = s.hpB
  mgmt     : u.mgA = s.mgA ∧ u.mgB = s.mgB
  frames   : u.outA = s.outA ∧ u.outB = s.outB
  deferred : u.adm.deferred = s.adm.deferred

/-- A READ piece that lost the block `b` cuts its record there (R77, R86). -/
theorem LosingRead.cuts {got : List Block} (h : LosingRead s c r i q b e) (hk : q.kind = .slot n) (hb : b = q.first + k) :
    ∃ u, readPieceEnd c i r q got (.media k) s = endCheck c (deliver c u) ∧ CutThere s u c r b e := by
  subst hb
  obtain ⟨bs, f, hlead⟩ := leadingBlocks_eq k got s
  generalize hv : ({ s with free := f } : State) = v at hlead
  generalize hw : release (.host c.port) (q.held - k)
    (mapPiece c i (fun p => { p with state := .failed, held := k, data := bs }) v) = w
  have hfailed : readFailed c i k r q bs v = w := by rw [readFailed_eq h.state h.winding h.cut, hw]
  have hrec : w.rec? c = some { r with plan := r.plan.set i { q with state := .failed, held := k, data := bs } } := by
    have hv' : v.rec? c = some r := by rw [← hv]; exact h.rec?
    have := mapRec_some (f := fun y => { y with plan := y.plan.modify i fun p =>
      { p with state := .failed, held := k, data := bs } }) hv' fun _ => rfl
    rw [modify_eq_set _ h.piece] at this
    rw [← hw]
    exact this
  have hreloc : w.reloc? (grainOf (q.first + k)) = none := by rw [← hw, ← hv]; exact h.reloc
  have hentry : w.entry? (grainOf (q.first + k)) = some e := by rw [← hw, ← hv]; exact h.entry
  have hnoted : w.journaled e.region = false := by rw [← hw, ← hv]; exact h.noted
  have hlost := readLost_marks hreloc hentry h.slot hnoted h.present h.left
  have hframe : w.hpA = s.hpA ∧ w.hpB = s.hpB ∧ w.mgA = s.mgA ∧ w.mgB = s.mgB ∧ w.outA = s.outA ∧ w.outB = s.outB ∧
      w.adm.deferred = s.adm.deferred := by
    rw [← hw, ← hv]
    exact ⟨rfl, rfl, rfl, rfl, rfl, rfl, rfl⟩
  obtain ⟨hpA, hpB, hmA, hmB, hoA, hoB, hdef⟩ := hframe
  obtain ⟨x, hx, hcause, hdeps, hxl, -⟩ := reloc?_requestReloc
    (s := putEntry (e.losing (maskBit ((q.first + k) % 8))) w) (region := e.region) (cause := .readFault) (deps := [])
    (lost := maskBit ((q.first + k) % 8)) (retired := []) hreloc
  rw [← hlost] at hx
  have hrecLost : (readLost (q.first + k) w).rec? c =
      some { r with plan := r.plan.set i { q with state := .failed, held := k, data := bs } } :=
    (rec_congr c (by rw [hlost]; simp)).trans hrec
  obtain ⟨plan, hcut⟩ := cutRead_rec? (res := .lostData) (f := q.first + k) hrecLost h.state h.cut
  refine ⟨cutRead c .lostData (q.first + k) (readLost (q.first + k) w), ?_, ⟨plan, ?_⟩, ?_, ⟨x, ?_, hcause, hdeps, hxl⟩,
    ⟨?_, ?_⟩, ⟨?_, ?_⟩, ⟨?_, ?_⟩, ?_⟩
  · unfold readPieceEnd readGoesOn
    simp only [hlead, hfailed, hk]
  · rw [hcut]
    simp [failResult, h.result]
  · rw [entry?_congr (s := readLost (q.first + k) w) _ (by simp), hlost,
      entry?_congr (s := putEntry (e.losing (maskBit ((q.first + k) % 8))) w) _ (by simp)]
    exact (entry?_putEntry _ _ _).trans (if_pos (entry?_grain hentry))
  · exact (reloc?_congr _ (by simp)).trans hx
  all_goals simp [hlost, hpA, hpB, hmA, hmB, hoA, hoB, hdef]

/-- Before the lost block, the READ goes on to it (R77). -/
theorem CutThere.goesOn (h : CutThere s u c r b e) (ho : r.op = .read) (hs : r.state = .active) (hw : r.winding = false)
    (hg : (s.tag c).granted = (s.tag c).moved) (hm : r.first + (s.tag c).moved < b) : endCheck c (deliver c u) = u := by
  obtain ⟨plan, hrec⟩ := h.rec?
  have htag : u.tag c = s.tag c := tag_congr c h.ports.1 h.ports.2
  rw [deliver_idle hrec (by rw [htag, hg]) ?_, endCheck_read hrec ho hs hw]
  rw [htag]
  simp only [Record.deliveryEnd]
  omega

/-- At the lost block, the READ ends (R77). -/
theorem CutThere.delivered (h : CutThere s u c r b e) (ho : r.op = .read) (hs : r.state = .active) (hw : r.winding = false)
    (hg : (s.tag c).granted = (s.tag c).moved) (hm : r.first + (s.tag c).moved = b) :
    deliver c u = endRecord c .lostData (s.tag c).moved (some b) 0 u := by
  obtain ⟨plan, hrec⟩ := h.rec?
  have htag : u.tag c = s.tag c := tag_congr c h.ports.1 h.ports.2
  rw [deliver_cut hrec ho hs hw (by rw [htag, hg]) ?_ rfl, htag]
  rw [htag]
  simp only [Record.deliveryEnd]
  omega

/-- Its STATUS carries LOST_DATA (R77). -/
theorem CutThere.ended (h : CutThere s u c r b e) (ha : s.answerable c) :
    (endRecord c .lostData done (some b) 0 u).endedWith s c [s.statusFor c .lostData done (some b) 0] := by
  obtain ⟨hup, hd⟩ := ha
  exact endRecord_ends_of (s := s) (t := u) (c := c) .lostData done (some b) 0
    (out_congr _ h.frames.1 h.frames.2) (mg_congr _ h.mgmt.1 h.mgmt.2)
    (by rw [hp_congr c.port h.ports.1 h.ports.2, hup]; simp) ((deferred_congr c h.deferred).trans hd)

/-- The tag of a record that has left has no record, or one that has just arrived (R40, R53). -/
theorem leave_arrives (c : CmdId) (s : State) : (leave c s).rec? c = none ∨
    ∃ y, (leave c s).rec? c = some y ∧ y.state = .waiting := by
  cases hr : s.rec? c with
  | none =>
    left
    unfold leave
    rw [hr]
    exact hr
  | some r =>
    have hgone : (departed r s).rec? c = none := by
      unfold State.rec?
      rw [departed_records, rec?_id hr, List.find?_eq_none]
      intro x hx
      simpa using (List.mem_filter.1 hx).2
    rw [leave_departed hr, rec_congr (s := lateCreation c (departed r s)) c (by simp)]
    cases hd : (departed r s).deferred? c with
    | none =>
      left
      rw [lateCreation_none hd]
      exact hgone
    | some a => exact .inr ⟨_, (lateCreation_creates hd hgone).2, rfl⟩

/-- A record that has ended has no more to end. -/
theorem endCheck_endRecord {res : Result} {d : Option Nat} {v : Nat} :
    endCheck c (endRecord c res done d v s) = endRecord c res done d v s := by
  rcases leave_arrives c (sendStatus c res done d v s) with h | ⟨y, h, hy⟩
  · exact endCheck_none h
  · unfold endRecord endCheck
    rw [h]
    dsimp only
    rw [hy]
    split <;> rfl

/-- A slot read of a host piece that is not retried any more is final at the block the detail names (R83, R85). -/
theorem endOp_media_read (hs : o.stop = none) (hread : o.req.op = .read) (hm : o.req.media = 1) (hk : k < o.req.count) :
    endOp o 0x0C done (some (o.req.first + k)) s = finalOutcome o.req o.got (.media k) (removeOp o.tag s) := by
  have hplace : failingPlace o.req done (some (o.req.first + k)) (removeOp o.tag s) = (k, removeOp o.tag s) := by
    unfold failingPlace
    dsimp only
    rw [Option.getD_some, if_pos ⟨by omega, by omega⟩, Nat.add_sub_cancel_left]
  unfold endOp
  rw [hs]
  show mediaEnd o done _ (removeOp o.tag s) = _
  unfold mediaEnd
  rw [if_neg (by simp [hread]), if_neg (by simp [hm]), hplace]

/-- STATUS MEDIA_ERROR of a slot read that was retried: the block is lost, the grain is to be moved, and the READ goes on to the
block or ends there (R77, R86). -/
theorem status_read_lost (hl : s.te.link = .up) (ho : s.op? tag = some o) (hs : o.stop = none)
    (hown : o.req.owner = .piece c i) (hread : o.req.op = .read) (hm : o.req.media = 1) (hk : k < o.req.count)
    (hkind : q.kind = .slot n) (hb : b = q.first + k) (h : LosingRead s c r i q b e) :
    ∃ t x, exec (.targetStatus tag 0x0C done (some (o.req.first + k)) value) s = .next t ∧
      t.entry? (grainOf b) = some (e.losing (maskBit (b % 8))) ∧ t.reloc? (grainOf b) = some x ∧ x.cause = .readFault ∧
      x.dependants = [] ∧ x.lost = maskBit (b % 8) ∧
      (r.first + (s.tag c).moved < b → ∃ r', t.rec? c = some r' ∧ r'.cut = some b ∧
        r'.result = some ⟨.lostData, some b⟩ ∧ t.outA = s.outA ∧ t.outB = s.outB) ∧
      (r.first + (s.tag c).moved = b → s.answerable c →
        t.endedWith s c [s.statusFor c .lostData (s.tag c).moved (some b) 0]) := by
  have h' := h.removeOp o.tag
  obtain ⟨u, hend, hcut⟩ := h'.cuts (got := o.got) hkind hb
  have hexec := exec_status_final (value := value) hl ho (endOp_media_read (done := done) hs hread hm hk) hl
  rw [finalOutcome_read (s := removeOp o.tag s) hown h.rec? h.op h.piece, hend] at hexec
  have hcut : CutThere s u c r b e := ⟨hcut.rec?, hcut.entry, hcut.reloc, hcut.ports, hcut.mgmt, hcut.frames, hcut.deferred⟩
  obtain ⟨x, hx, hcause, hdeps, hxl⟩ := hcut.reloc
  obtain ⟨plan, hrec⟩ := hcut.rec?
  by_cases hlt : r.first + (s.tag c).moved < b
  · rw [hcut.goesOn h.op h.state h.winding h.idle hlt] at hexec
    exact ⟨u, x, hexec, hcut.entry, hx, hcause, hdeps, hxl,
      fun _ => ⟨_, hrec, rfl, rfl, hcut.frames.1, hcut.frames.2⟩, fun heq => absurd heq (Nat.ne_of_lt hlt)⟩
  · have heq : r.first + (s.tag c).moved = b := by
      have := h.ahead
      omega
    rw [hcut.delivered h.op h.state h.winding h.idle heq, endCheck_endRecord] at hexec
    refine ⟨_, x, hexec, ?_, endRecord_reloc? hrec hx hdeps, hcause, hdeps, hxl, fun h => absurd h hlt, fun _ ha => ?_⟩
    · exact (entry?_congr _ (by simp)).trans hcut.entry
    · exact hcut.ended ha

/-- A slot write that failed on the medium, by the place of its slot: bound to the grain, or reserved for it (R87). -/
theorem status_media_store (hl : s.te.link = .up) (ho : s.op? tag = some o) (hs : o.stop = none)
    (hown : o.req.owner = .piece c i) (hw : o.req.op = .write) (hr : s.rec? c = some r) (hop : r.op = .write)
    (hq : r.plan[i]? = some q) (hk : q.kind = .slot n) (hg : g = grainOf q.first) (hout : s.outOfService n = false)
    (hn : s.reloc? g = none) (hready : s.readyOn n = []) (htab : s.te.tableOk) (hres : s.ov.reservationsOk)
    (hplace : s.slotOf g = some n ∨ (s.slotOf g = none ∧ (s.reservation? g).map (·.slot) = some n)) :
    ∃ t x, exec (.targetStatus tag 0x0C done detail value) s = .next t ∧
      t.rec? c = some { r with plan := r.plan.set i { q with state := .handed } } ∧
      t.reloc? g = some x ∧ x.cause = .writeFault ∧ x.dependants = [⟨c, i⟩] ∧ t.ov.table = s.ov.table ∧
      (s.slotOf g = some n → t.ov.condemned = s.ov.condemned ++ [n] ∧ t.ov.retired = s.ov.retired ∧
        t.ov.reservations = s.ov.reservations ∧ x.retired = []) ∧
      (s.slotOf g = none → t.ov.condemned = s.ov.condemned ∧ t.ov.retired = s.ov.retired ++ [n] ∧
        t.reservation? g = none ∧ x.retired = [n]) := by
  subst hg
  obtain ⟨t, x, hexec, hrec, hx, hcause, hdeps, hxr, hov⟩ :=
    status_media_write (done := done) (value := value) (detail := detail) hl ho hs hown hw hr hop hq hk hout hn hready htab hplace
  refine ⟨t, x, hexec, hrec, hx, hcause, hdeps, ?_, fun hb => ?_, fun hnone => ?_⟩
  · rw [hov]
    unfold takeOutOfService
    split
    · rfl
    · split <;> rfl
  · rw [takeOutOfService_bound hb hout] at hov hxr
    rw [hov]
    exact ⟨rfl, rfl, rfl, hxr⟩
  · have hr' : (s.reservation? (grainOf q.first)).map (·.slot) = some n := hplace.elim
      (fun hb => by rw [hnone] at hb; cases hb) And.right
    rw [takeOutOfService_reserved hnone hr'] at hov hxr
    obtain ⟨hret, hcond⟩ := retire_fresh (s := endReservation (grainOf q.first) s) hout
    refine ⟨?_, ?_, ?_, hxr⟩
    · rw [hov, hcond]
      rfl
    · rw [hov, hret]
      rfl
    · rw [reservation?_congr (s := endReservation (grainOf q.first) s) _ (by rw [hov]; rfl)]
      exact endReservation_reservation? hres.1

/-- Settles O23: the STATUS of an operation by its result and by the piece that made it. -/
theorem targetStatusEndsItsOperation : Obligations.TargetStatusEndsItsOperation := by
  intro s tag done value detail hl
  refine ⟨fun ho result => exec_status_unknown hl ho, fun o ho hs => ⟨?_, ?_, ?_, ?_, ?_, ?_⟩⟩
  · exact fun hn hd hr hm => status_notReady hl ho hs hn hd hr hm
  · exact fun c i r q n result hres hown hw hr hop hq hk hc hslot hn =>
      status_dead hl ho hs hres hown hw hr hop hq hk hc hslot hn
  · exact fun c i r q n g hown hw hr hop hq hk hg hout hn hready htab hres hplace =>
      status_media_store hl ho hs hown hw hr hop hq hk hg hout hn hready htab hres hplace
  · rintro c i r q hown hread hgot hr hop hst hw hc hq r' rfl
    exact ⟨status_read_waits hl ho hs hown hread hgot hr hop hst hw hc hq, fun b hres ha hopen hg hm hb =>
      status_read_ends hl ho hs hown hread hgot hr hop hst hw hc hq hres ha hopen hg hm hb⟩
  · rintro c i r q n hown hread hr hq hk
    refine ⟨fun hm => status_media_retry hl ho hs hown hread hr hq hk hm, ?_⟩
    rintro k b e m hm hlt hb rfl hop hst hw hc hres hg hahead hn he hslot hj hpres hleft
    exact status_read_lost hl ho hs hown hread hm hlt hk hb
      ⟨hr, hop, hst, hw, hc, hres, hq, hg, hahead, hn, he, hslot, hj, hpres, hleft⟩
  · exact fun c i r q hown hw hmoved hr hop hst hwind hlat hq hk hothers hhand hdep hflush ha =>
      status_write_ends hl ho hs hown hw hmoved ⟨hr, hop, hst, hwind, hlat, hq, hothers, hhand, hdep, hflush⟩ hk ha

end Sys2Proof.Machine
end

section
/-! SUPPORT. The start of a relocation whose claim is granted: its entry MOVING, a slot allocated, and the copy or the writes
(R22, R34, R88, R90, R91). -/

namespace Sys2Proof.Machine

variable {s t u : State} {r x : Reloc} {e : Entry} {g n : Nat} {m : Mask} {ring : List Nat}

/-! ## What an attempt writes (R91) -/

/-- What the dependants write is read from their records. -/
theorem dependantMask_congr (h : t.adm.records = s.adm.records) (hd : x.dependants = r.dependants) (hg : x.grain = r.grain) :
    t.dependantMask x = s.dependantMask r := by
  have hp (d : Dependant) : t.handedPiece d = s.handedPiece d := by
    unfold State.handedPiece
    rw [rec_congr d.cmd h]
  unfold State.dependantMask
  rw [hd, hg]
  simp only [hp]

/-- The writes of an attempt into a slot: one for each run (R91). -/
def attemptWrites (s : State) (r : Reloc) (n : Nat) (m : Mask) : List Request :=
  (maskRuns m).map fun run => newRequest .recovery (.relocWrite r.grain run.1) .write (s.slotBase n + run.1) run.2 true
    ((List.range run.2).map fun k => (s.relocBlock r (run.1 + k)).getD [])

/-- Requests made one after the other, each for where its slot lies. -/
theorem foldl_enqueue_recovery (req : Nat → Nat × Nat → Request) (hc : ∀ b run, (req b run).cls = .recovery) (n : Nat)
    (runs : List (Nat × Nat)) (s : State) :
    runs.foldl (fun t run => enqueue (req (t.slotBase n) run) t) s =
      { s with te := { s.te with recoveryQ := s.te.recoveryQ ++ runs.map (req (s.slotBase n)) } } := by
  induction runs generalizing s with
  | nil => simp
  | cons run runs ih =>
    have hone : enqueue (req (s.slotBase n) run) s =
        { s with te := { s.te with recoveryQ := s.te.recoveryQ ++ [req (s.slotBase n) run] } } := by
      unfold enqueue
      rw [hc]
      rfl
    rw [List.foldl_cons, hone, ih]
    simp [State.slotBase]

/-- The writes of an attempt are requested in the recovery class (R91). -/
theorem relocWrites_eq (h : s.reloc? g = some r) (hn : r.newSlot = some n) (m : Mask) : relocWrites g m s =
    { s with te := { s.te with recoveryQ := s.te.recoveryQ ++ attemptWrites s r n m } } := by
  have hg := (reloc_mem h).2
  unfold relocWrites attemptWrites
  simp only [h, hn]
  rw [foldl_enqueue_recovery (fun b run => newRequest .recovery (.relocWrite g run.1) .write (b + run.1) run.2 true
    ((List.range run.2).map fun k => (s.relocBlock r (run.1 + k)).getD [])) (fun _ _ => rfl), hg]

/-- A relocation whose attempt is being written. -/
def Reloc.inWriting (r : Reloc) : Reloc := { r with stage := .writing }

theorem inWriting_reloc? (h : s.reloc? g = some r) : (mapReloc g Reloc.inWriting s).reloc? g = some r.inWriting :=
  reloc?_mapReloc h fun _ => rfl

/-- A WRITING attempt with something to write requests it (R91). -/
theorem startAttempt_writes (h : s.reloc? g = some r) (hm : r.copied ||| s.dependantMask r ≠ 0) :
    startAttempt g s = relocWrites g (r.copied ||| s.dependantMask r) (mapReloc g Reloc.inWriting s) := by
  unfold startAttempt
  simp only [h]
  exact if_neg hm

/-! ## The slot of an attempt (R34) -/

/-- A relocation that has been given a slot for an attempt. -/
def Reloc.attempting (n : Nat) (r : Reloc) : Reloc :=
  { r with newSlot := some n, attempts := r.attempts + 1, issued := false, failed := false }

/-- The slot at the ring head is taken for the attempt (R34). -/
def allocated (g n : Nat) (s : State) : State := takeRing 1 (mapReloc g (Reloc.attempting n) s)

theorem allocate_head (h : s.ov.ring = n :: ring) : allocate g s = some (allocated g n s) := by
  unfold allocate
  rw [h]
  rfl

theorem allocated_reloc? (h : s.reloc? g = some r) : (allocated g n s).reloc? g = some (r.attempting n) := by
  unfold allocated
  rw [reloc?_congr (s := mapReloc g (Reloc.attempting n) s) g (by rw [takeRing_te])]
  exact reloc?_mapReloc h fun _ => rfl

theorem allocated_ov (h : s.ov.ring = n :: ring) : (allocated g n s).ov.ring = ring ∧
    (allocated g n s).ov.table = s.ov.table ∧ (allocated g n s).ov.retired = s.ov.retired := by
  unfold allocated
  rw [takeRing_ov]
  refine ⟨?_, rfl, rfl⟩
  show s.ov.ring.drop 1 = ring
  rw [h]
  rfl

@[simp] theorem allocated_frame (g n : Nat) (s : State) : (allocated g n s).map = s.map ∧ (allocated g n s).adm = s.adm ∧
    (allocated g n s).pool = s.pool ∧ (allocated g n s).jrn = s.jrn ∧ (allocated g n s).te.link = s.te.link ∧
    (allocated g n s).te.recoveryQ = s.te.recoveryQ := by
  unfold allocated
  rw [takeRing_te]
  simp

/-! ## The grant of the claim (R22, R90) -/

/-- The entry of a grain whose state is set (R22). -/
theorem entry?_setEntryState (g : Nat) (st : EntryState) (s : State) :
    (setEntryState g st s).entry? g = (s.entry? g).map fun e => { e with state := st } := by
  unfold State.entry? setEntryState
  dsimp only
  rw [List.find?_map]
  have : ((fun y : Entry => y.grain == g) ∘ fun y => if y.grain = g then { y with state := st } else y) =
      fun y => y.grain == g := by
    funext y
    simp only [Function.comp_apply]
    split <;> rfl
  rw [this]
  cases hf : s.ov.table.find? fun y => y.grain == g with
  | none => rfl
  | some y =>
    have hy : y.grain = g := by simpa using List.find?_some hf
    simp [hy]

/-- A relocation whose copy begins: the slot it leaves, and the blocks to copy (R90). -/
def Reloc.beginning (old : Option Nat) (copy : Mask) (r : Reloc) : Reloc :=
  { r with stage := .copying, oldSlot := old, copySet := copy, claiming := decide (0 < (maskList copy).length) }

/-- The state in which the claim of a relocation has been granted and a slot allocated (R34, R90). -/
def begun (g n : Nat) (old : Option Nat) (copy : Mask) (s : State) : State :=
  allocated g n (mapReloc g (Reloc.beginning old copy) (setEntryState g .moving s))

theorem begun_reloc? (h : s.reloc? g = some r) (old : Option Nat) (copy : Mask) :
    (begun g n old copy s).reloc? g = some ((r.beginning old copy).attempting n) :=
  allocated_reloc? (reloc?_mapReloc (t := setEntryState g .moving s) h fun _ => rfl)

theorem begun_ov (h : s.ov.ring = n :: ring) (old : Option Nat) (copy : Mask) :
    (begun g n old copy s).ov.ring = ring ∧ (begun g n old copy s).entry? g =
      (s.entry? g).map fun e => { e with state := .moving } := by
  obtain ⟨hring, htable, -⟩ := allocated_ov (g := g) (s := mapReloc g (Reloc.beginning old copy) (setEntryState g .moving s)) h
  exact ⟨hring, (entry?_congr g htable).trans (entry?_setEntryState g .moving s)⟩

@[simp] theorem begun_frame (g n : Nat) (old : Option Nat) (copy : Mask) (s : State) : (begun g n old copy s).map = s.map ∧
    (begun g n old copy s).adm = s.adm ∧ (begun g n old copy s).pool = s.pool ∧
    (begun g n old copy s).te.link = s.te.link ∧ (begun g n old copy s).te.recoveryQ = s.te.recoveryQ := by
  simp [begun, mapReloc]

/-- The blocks a relocation copies: the present ones of its slot that no dependant writes (R90). -/
def State.copySetOf (s : State) (r : Reloc) (e : Entry) : Mask :=
  maskLess (if e.slot.isSome then e.present else 0) (s.dependantMask r)

/-- The grant of a claim with a slot in the ring (R34, R90). -/
theorem relocBegin_eq (h : s.reloc? g = some r) (hring : s.ov.ring = n :: ring) (he : s.entry? g = some e) :
    relocBegin g s = relocAdvance g
      (if 0 < (maskList (s.copySetOf r e)).length then
        placeClaim .internal (.reloc g) (maskList (s.copySetOf r e)).length (begun g n e.slot (s.copySetOf r e) s)
      else begun g n e.slot (s.copySetOf r e) s) := by
  have hslot : s.slotOf g = e.slot := by
    unfold State.slotOf
    rw [he]
    rfl
  have hall : allocate g (mapReloc g (Reloc.beginning e.slot (s.copySetOf r e)) (setEntryState g .moving s)) =
      some (begun g n e.slot (s.copySetOf r e) s) := allocate_head (ring := ring) hring
  unfold relocBegin
  simp only [h, hslot, he]
  change (match allocate g (mapReloc g (Reloc.beginning e.slot (s.copySetOf r e)) (setEntryState g .moving s)) with
    | none => _
    | some t => _) = _
  rw [hall]
  rfl

/-- RELOCATION_CLAIM_GRANT begins a relocation that is HELD and granted (R90). -/
theorem exec_grant_reloc (hl : s.te.link ≠ .down) (h : s.reloc? g = some r) (hs : r.stage = .held)
    (hg : s.claimGranted (.reloc g) = true) (ht : relocBegin g s = t) (htl : t.te.link = s.te.link) :
    exec (.relocationClaimGrant g) s = .next t := by
  have e : exec (.relocationClaimGrant g) s = .next (settleDown (relocBegin g s)) := by
    show Host.Outcome.next _ = _
    simp only [h, if_pos (And.intro hs hg)]
  rw [e, ht, settleDown_of_link (htl ▸ hl)]

/-- A relocation whose buffers are claimed waits for them (R90). -/
theorem relocAdvance_claiming (h : s.reloc? g = some r) (hc : r.cut = false) (hcl : r.claiming = true) :
    relocAdvance g s = s := by
  unfold relocAdvance
  simp [h, hc, hcl]

/-- A COPYING relocation without work to wait for starts its attempt (R90, R91). -/
theorem relocAdvance_copied (h : s.reloc? g = some r) (hs : r.stage = .copying) (hc : r.cut = false)
    (hcl : r.claiming = false) (hw : s.hasWork (Owner.ofReloc g) = false) : relocAdvance g s = startAttempt g s := by
  unfold relocAdvance
  simp [h, hs, hc, hcl, hw]

theorem maskList_ne_nil (h : m ≠ 0) : 0 < (maskList m).length := by
  revert m
  decide

/-- The copy begins: its buffers are claimed (R90). -/
theorem copy_begins {k : Nat} (hl : s.te.link ≠ .down) (h : s.reloc? g = some r) (hs : r.stage = .held) (hc : r.cut = false)
    (hg : s.claimGranted (.reloc g) = true) (hring : s.ov.ring = n :: ring) (he : s.entry? g = some e) (hk : e.slot = some k)
    (hm : maskLess e.present (s.dependantMask r) ≠ 0) :
    ∃ t r' e', exec (.relocationClaimGrant g) s = .next t ∧ t.reloc? g = some r' ∧ r'.stage = .copying ∧
      r'.oldSlot = some k ∧ r'.newSlot = some n ∧ r'.attempts = r.attempts + 1 ∧
      r'.copySet = maskLess e.present (s.dependantMask r) ∧ r'.dependants = r.dependants ∧
      t.entry? g = some e' ∧ e' = { e with state := .moving } ∧ t.ov.ring = ring ∧
      t.pool.claimsI = s.pool.claimsI ++ [⟨.reloc g, (maskList (maskLess e.present (s.dependantMask r))).length⟩] := by
  have hcopy : s.copySetOf r e = maskLess e.present (s.dependantMask r) := by
    unfold State.copySetOf
    simp [hk]
  have hpos := maskList_ne_nil hm
  have hbegin := relocBegin_eq h hring he
  rw [hcopy, if_pos hpos] at hbegin
  have hrel := begun_reloc? (n := n) h e.slot (maskLess e.present (s.dependantMask r))
  obtain ⟨hr, hent⟩ := begun_ov (g := g) hring e.slot (maskLess e.present (s.dependantMask r))
  have hwait := relocAdvance_claiming (s := placeClaim .internal (.reloc g)
    (maskList (maskLess e.present (s.dependantMask r))).length (begun g n e.slot (maskLess e.present (s.dependantMask r)) s))
    hrel hc (decide_eq_true hpos)
  rw [hwait] at hbegin
  refine ⟨_, _, _, exec_grant_reloc hl h hs hg hbegin (by simp [placeClaim]), hrel, rfl, hk, rfl, rfl, rfl, rfl,
    hent.trans (by rw [he]; rfl), rfl, hr, ?_⟩
  simp [placeClaim, BufferPool.setClaims, BufferPool.claims]

/-- With nothing to copy the writes of the attempt begin (R90, R91). -/
theorem writes_begin (hl : s.te.link ≠ .down) (h : s.reloc? g = some r) (hs : r.stage = .held) (hc : r.cut = false)
    (hcopied : r.copied = 0) (hg : s.claimGranted (.reloc g) = true) (hw : s.hasWork (Owner.ofReloc g) = false)
    (hring : s.ov.ring = n :: ring) (he : s.entry? g = some e) (hk : e.slot = none) (hm : s.dependantMask r ≠ 0) :
    ∃ t r' writes, exec (.relocationClaimGrant g) s = .next t ∧ t.reloc? g = some r' ∧ r'.stage = .writing ∧
      r'.oldSlot = none ∧ r'.newSlot = some n ∧ r'.attempts = r.attempts + 1 ∧ r'.dependants = r.dependants ∧
      t.entry? g = some { e with state := .moving } ∧ t.ov.ring = ring ∧ t.pool = s.pool ∧
      t.te.recoveryQ = s.te.recoveryQ ++ writes ∧
      writes.map (fun x => (x.owner, x.op, x.first, x.count)) = (maskRuns (s.dependantMask r)).map fun k =>
        (Owner.relocWrite g k.1, TOp.write, s.slotBase n + k.1, k.2) := by
  have hcopy : s.copySetOf r e = 0 := by
    unfold State.copySetOf
    simp [hk, maskLess]
  have hnone : ¬ 0 < (maskList (0 : Mask)).length := by decide
  have hbegin := relocBegin_eq h hring he
  rw [hcopy, if_neg hnone] at hbegin
  have hrel := begun_reloc? (n := n) h e.slot (0 : Mask)
  obtain ⟨hr, hent⟩ := begun_ov (g := g) hring e.slot (0 : Mask)
  generalize hv : begun g n e.slot (0 : Mask) s = v at *
  generalize hx : (r.beginning e.slot (0 : Mask)).attempting n = x at *
  have hxf : x.stage = .copying ∧ x.cut = r.cut ∧ x.claiming = false ∧ x.newSlot = some n ∧ x.copied = r.copied ∧
      x.dependants = r.dependants ∧ x.grain = r.grain ∧ x.oldSlot = e.slot ∧ x.attempts = r.attempts + 1 := by
    subst hx
    exact ⟨rfl, rfl, rfl, rfl, rfl, rfl, rfl, rfl, rfl⟩
  obtain ⟨hxs, hxc, hxcl, hxn, hxcop, hxd, hxg, hxo, hxa⟩ := hxf
  have hmask : x.copied ||| v.dependantMask x = s.dependantMask r := by
    rw [hxcop, hcopied, dependantMask_congr (s := s) (by rw [← hv]; simp) hxd hxg]
    exact BitVec.zero_or
  have hwork : v.hasWork (Owner.ofReloc g) = false := by
    rw [← hv, ← hw]
    unfold begun allocated State.hasWork
    rw [takeRing_te]
    rfl
  rw [relocAdvance_copied hrel hxs (hxc.trans hc) hxcl hwork, startAttempt_writes hrel (hmask ▸ hm), hmask,
    relocWrites_eq (inWriting_reloc? hrel) hxn] at hbegin
  refine ⟨_, x.inWriting, attemptWrites (mapReloc g Reloc.inWriting v) x.inWriting n (s.dependantMask r),
    exec_grant_reloc hl h hs hg hbegin ?_, inWriting_reloc? hrel, rfl, hxo.trans hk, hxn, hxa, hxd, hent.trans (by rw [he]; rfl), hr, ?_, ?_, ?_⟩
  · show v.te.link = _
    simp [← hv]
  · show v.pool = _
    simp [← hv]
  · show v.te.recoveryQ ++ _ = _
    rw [show v.te.recoveryQ = s.te.recoveryQ by simp [← hv]]
  · have hbase : (mapReloc g Reloc.inWriting v).slotBase n = s.slotBase n := by
      unfold State.slotBase
      rw [show (mapReloc g Reloc.inWriting v).map = s.map by simp [← hv, mapReloc]]
    unfold attemptWrites
    rw [List.map_map, hbase]
    refine List.map_congr_left fun run _ => ?_
    simp [newRequest, Reloc.inWriting, hxg, (reloc_mem h).2]

/-- Settles O26: the copy begins, or with nothing to copy the writes. -/
theorem relocationBeginsItsCopy : Obligations.RelocationBeginsItsCopy :=
  ⟨fun _ _ _ _ _ _ _ hl h hs hc hg hring he hk hm => copy_begins hl h hs hc hg hring he hk hm,
    fun _ _ _ _ _ _ hl h hs hc hcopied hg hw hring he hk hm => writes_begin hl h hs hc hcopied hg hw hring he hk hm⟩

end Sys2Proof.Machine
end

section
/-! SUPPORT. The grant of a discard claim: the entries of its region go, their slots are retired or released, and the claim ends
with its records (R33, R35, R114, R115). -/

namespace Sys2Proof.Machine

variable {s t u : State} {d : Discard} {region n : Nat} {bad l : List Nat} {record : Option Nat} {p : Port}

/-! ## The slots of the entries that go (R33, R35) -/

/-- The slot of an entry that a discard removes: a condemned one is retired with its notice, another released. -/
def dropSlot (region : Nat) (bad : List Nat) (record : Option Nat) (u : State) (n : Nat) : State :=
  if bad.contains n then raise (.slotRetired n) (some region) (retire n u) else releaseSlot n record u

def dropSlots (region : Nat) (bad : List Nat) (record : Option Nat) (l : List Nat) (s : State) : State :=
  l.foldl (dropSlot region bad record) s

/-- The notices of the slots retired, in their order (R35, R178). -/
def retireNotices (region : Nat) (l : List Nat) (m : PortMgmt) : PortMgmt :=
  l.foldl (fun m n => offer (.slotRetired n) (some region) m) m

/-- A slot that goes changes the slot lists and the notice queues alone. -/
@[simp] theorem dropSlot_frame (region : Nat) (bad : List Nat) (record : Option Nat) (u : State) (n : Nat) :
    (dropSlot region bad record u n).ov.table = u.ov.table ∧ (dropSlot region bad record u n).map = u.map ∧
      (dropSlot region bad record u n).adm = u.adm ∧ (dropSlot region bad record u n).jrn = u.jrn ∧
      (dropSlot region bad record u n).mrg = u.mrg ∧ (dropSlot region bad record u n).outA = u.outA ∧
      (dropSlot region bad record u n).outB = u.outB := by
  unfold dropSlot releaseSlot
  split
  · exact ⟨rfl, rfl, rfl, rfl, rfl, rfl, rfl⟩
  · split <;> exact ⟨rfl, rfl, rfl, rfl, rfl, rfl, rfl⟩

@[simp] theorem dropSlots_frame (region : Nat) (bad : List Nat) (record : Option Nat) (l : List Nat) (s : State) :
    (dropSlots region bad record l s).ov.table = s.ov.table ∧ (dropSlots region bad record l s).map = s.map ∧
      (dropSlots region bad record l s).adm = s.adm ∧ (dropSlots region bad record l s).jrn = s.jrn ∧
      (dropSlots region bad record l s).mrg = s.mrg ∧ (dropSlots region bad record l s).outA = s.outA ∧
      (dropSlots region bad record l s).outB = s.outB := by
  induction l generalizing s with
  | nil => exact ⟨rfl, rfl, rfl, rfl, rfl, rfl, rfl⟩
  | cons n l ih =>
    have h := ih (dropSlot region bad record s n)
    simp only [dropSlot_frame] at h
    exact h

/-- The notices raised are those of the condemned slots (R35). -/
theorem dropSlots_mg : (dropSlots region bad record l s).mg p = retireNotices region (l.filter bad.contains) (s.mg p) := by
  induction l generalizing s with
  | nil => rfl
  | cons n l ih =>
    have h := ih (s := dropSlot region bad record s n)
    by_cases hb : bad.contains n = true
    · have hone : (dropSlot region bad record s n).mg p = offer (.slotRetired n) (some region) (s.mg p) := by
        unfold dropSlot
        rw [if_pos hb, mg_raise]
        cases p <;> rfl
      rw [hone] at h
      rw [List.filter_cons_of_pos hb]
      exact h
    · have hone : (dropSlot region bad record s n).mg p = s.mg p := by
        unfold dropSlot releaseSlot
        rw [if_neg hb]
        cases record <;> cases p <;> rfl
      rw [hone] at h
      rw [List.filter_cons_of_neg hb]
      exact h

/-- The condemned slots join the retired ones, each once (R35). -/
theorem dropSlots_retired (hn : l.Nodup) (hr : ∀ n ∈ l, n ∉ s.ov.retired) :
    (dropSlots region bad record l s).ov.retired = s.ov.retired ++ l.filter bad.contains := by
  induction l generalizing s with
  | nil => simp [dropSlots]
  | cons n l ih =>
    obtain ⟨hnl, hl⟩ := List.nodup_cons.1 hn
    have hfresh := hr n (List.mem_cons_self ..)
    show (dropSlots region bad record l (dropSlot region bad record s n)).ov.retired = _
    by_cases hb : bad.contains n = true
    · have hone : (dropSlot region bad record s n).ov.retired = s.ov.retired ++ [n] := by
        unfold dropSlot retire
        rw [if_pos hb]
        simp [hfresh]
      rw [List.filter_cons_of_pos hb, ih hl, hone, List.append_assoc]
      · rfl
      · intro m hm
        rw [hone]
        simp only [List.mem_append, List.mem_singleton, not_or]
        exact ⟨hr m (List.mem_cons_of_mem _ hm), fun e => hnl (e ▸ hm)⟩
    · have hone : (dropSlot region bad record s n).ov.retired = s.ov.retired := by
        unfold dropSlot releaseSlot
        rw [if_neg hb]
        cases record <;> rfl
      rw [List.filter_cons_of_neg hb, ih hl, hone]
      intro m hm
      rw [hone]
      exact hr m (List.mem_cons_of_mem _ hm)

/-- The others join the ring, or wait for the record that frees them (R33). -/
theorem dropSlots_released : (dropSlots region bad record l s).ov.ring = s.ov.ring ++
      (if record.isNone then l.filter fun n => !bad.contains n else []) ∧
    (dropSlots region bad record l s).ov.pendingFree = s.ov.pendingFree ++
      (match record with
        | some id => (l.filter fun n => !bad.contains n).map fun n => ⟨n, id⟩
        | none => []) := by
  induction l generalizing s with
  | nil => cases record <;> simp [dropSlots]
  | cons n l ih =>
    obtain ⟨hring, hpend⟩ := ih (s := dropSlot region bad record s n)
    change (dropSlots region bad record l (dropSlot region bad record s n)).ov.ring = _ ∧
      (dropSlots region bad record l (dropSlot region bad record s n)).ov.pendingFree = _
    rw [hring, hpend]
    by_cases hb : bad.contains n = true
    · have hone : (dropSlot region bad record s n).ov.ring = s.ov.ring ∧
          (dropSlot region bad record s n).ov.pendingFree = s.ov.pendingFree := by
        unfold dropSlot
        rw [if_pos hb]
        exact ⟨rfl, rfl⟩
      rw [hone.1, hone.2, List.filter_cons_of_neg (by simpa using hb)]
      exact ⟨rfl, rfl⟩
    · have hb' : (!bad.contains n) = true := by simpa using hb
      unfold dropSlot
      rw [if_neg hb, List.filter_cons_of_pos (p := fun n => !bad.contains n) hb']
      cases record with
      | none => simp [releaseSlot, joinRing]
      | some id => simp [releaseSlot]

/-- A slot bound to an entry is bound to one alone, and not retired (R25). -/
theorem regionSlots_facts (h : s.slotsOk) : (s.regionSlots region).Nodup ∧ ∀ n ∈ s.regionSlots region, n ∉ s.ov.retired := by
  have hone (n : Nat) : s.placesOf n ≤ 1 := by
    rw [h n]
    split <;> omega
  have hsub : (s.regionSlots region).Sublist s.boundSlots := (List.filter_sublist).filterMap _
  refine ⟨List.Nodup.sublist hsub (List.nodup_iff_count_le_one.2 fun n => ?_), fun n hn hret => ?_⟩
  · have := hone n
    unfold State.placesOf at this
    omega
  · have h1 := List.count_pos_iff.2 (hsub.subset hn)
    have h2 := List.count_pos_iff.2 hret
    have := hone n
    unfold State.placesOf at this
    omega

/-! ## The claim (R114) -/

/-- The records of a discard: its own under a KEEP policy, and one for each slot retired (R114, R118). -/
def discardBodies (d : Discard) (bad : List Nat) (s : State) : List RecordBody :=
  (if s.journaled d.region then [RecordBody.discard d.region] else []) ++ bad.map .retire

/-- The record that makes the discard durable: the first, under a KEEP policy (R114). -/
def discardRecord (d : Discard) (s : State) : Option Nat := if s.journaled d.region then some s.jrn.nextId else none

/-- The slots of a region's entries that are condemned (R114). -/
def State.badSlots (s : State) (region : Nat) : List Nat := (s.regionSlots region).filter s.ov.condemned.contains

theorem badSlots_filter : (s.regionSlots region).filter (s.badSlots region).contains = s.badSlots region := by
  unfold State.badSlots
  refine List.filter_congr fun n hm => ?_
  simp [hm]

/-- The state in which the entries of the region have gone, and its records have their names (R114). -/
def cleared (d : Discard) (s : State) : State :=
  { s with
    ov := { s.ov with table := s.ov.table.filter fun e => decide (e.region ≠ d.region) },
    map := { s.map with unavailable := s.map.unavailable.set d.region false },
    mrg := { s.mrg with discard := some { d with record := discardRecord d s, removed := s.entryCount d.region } },
    jrn := { s.jrn with nextId := s.jrn.nextId + (discardBodies d (s.badSlots d.region) s).length } }

/-- The state in which the region has been emptied, before its records are handed on (R114). -/
def emptied (d : Discard) (s : State) : State :=
  dropSlots d.region (s.badSlots d.region) (discardRecord d s) (s.regionSlots d.region) (cleared d s)

theorem discardTake_eq (d : Discard) (s : State) : discardTake d s =
    if (handOff .discard (namesFrom s.jrn.nextId (discardBodies d (s.badSlots d.region) s)) (emptied d s)).1 then
      discardTaken (handOff .discard (namesFrom s.jrn.nextId (discardBodies d (s.badSlots d.region) s)) (emptied d s)).2
    else (handOff .discard (namesFrom s.jrn.nextId (discardBodies d (s.badSlots d.region) s)) (emptied d s)).2 := by
  have hrec : (if s.journaled d.region then
      (namesFrom s.jrn.nextId (discardBodies d (s.badSlots d.region) s)).head?.map (·.id) else none) = discardRecord d s := by
    unfold discardRecord discardBodies
    split <;> rfl
  unfold emptied cleared
  rw [← hrec]
  rfl

/-- What the emptied region shows (R114). -/
theorem emptied_facts (hok : s.slotsOk) : (emptied d s).ov.table = s.ov.table.filter (fun e => decide (e.region ≠ d.region)) ∧
    (emptied d s).map.unavailable = s.map.unavailable.set d.region false ∧ (emptied d s).adm = s.adm ∧
    (emptied d s).ov.retired = s.ov.retired ++ s.badSlots d.region ∧
    (emptied d s).mrg.discard = some { d with record := discardRecord d s, removed := s.entryCount d.region } ∧
    (emptied d s).jrn = { s.jrn with nextId := s.jrn.nextId + (discardBodies d (s.badSlots d.region) s).length } ∧
    (emptied d s).outA = s.outA ∧ (emptied d s).outB = s.outB ∧ (emptied d s).map.layout = s.map.layout := by
  obtain ⟨hn, hr⟩ := regionSlots_facts (region := d.region) hok
  unfold emptied
  rw [dropSlots_retired (s := cleared d s) hn hr, badSlots_filter]
  simp [cleared]

theorem emptied_mg : (emptied d s).mg p = retireNotices d.region (s.badSlots d.region) (s.mg p) := by
  unfold emptied
  rw [dropSlots_mg, badSlots_filter]
  cases p <;> rfl

/-! ## The hand-off (R119) -/

/-- Records that fit are taken (R119). -/
theorem handOff_fits {by' : Producer} {recs : List JRecord} (hne : recs ≠ []) (hc : s.jrn.cond ≠ .fault)
    (hw : s.jrn.waiting = []) (hlive : s.jrn.live < s.journalLen) (hfit : s.jrn.openBuf.length + recs.length ≤ 30) :
    handOff by' recs s = (true, takeRecords recs s) := by
  have hrecs : recs.isEmpty = false := by simpa using hne
  unfold handOff
  rw [if_neg (by simp [hrecs]), if_neg hc, if_neg (by simp [hw]), takeParts_fits hne hlive hfit]
  rfl

/-- Records of which there are none, that fit, or that the FAULT drops, are taken at once, and only the journal changes (R119,
R131). -/
theorem handOff_taken {by' : Producer} {recs : List JRecord} (h : recs = [] ∨ s.jrn.cond = .fault ∨
    (s.jrn.waiting = [] ∧ s.jrn.live < s.journalLen ∧ s.jrn.openBuf.length + recs.length ≤ 30)) :
    ∃ j, handOff by' recs s = (true, { s with jrn := j }) ∧ j.waiting = s.jrn.waiting := by
  by_cases hne : recs = []
  · subst hne
    exact ⟨s.jrn, rfl, rfl⟩
  by_cases hc : s.jrn.cond = .fault
  · refine ⟨(dropRecords recs s).jrn, ?_, rfl⟩
    have hrecs : recs.isEmpty = false := by simpa using hne
    unfold handOff
    rw [if_neg (by simp [hrecs]), if_pos hc]
    rfl
  · obtain ⟨hw, hlive, hfit⟩ := (h.resolve_left hne).resolve_left hc
    exact ⟨_, handOff_fits hne hc hw hlive hfit, rfl⟩

theorem namesFrom_bodies (k : Nat) (bodies : List RecordBody) : (namesFrom k bodies).map (·.body) = bodies := by
  induction bodies generalizing k with
  | nil => rfl
  | cons b bs ih => simp [namesFrom, ih]

theorem namesFrom_length (k : Nat) (bodies : List RecordBody) : (namesFrom k bodies).length = bodies.length := by
  rw [← List.length_map (f := (·.body)), namesFrom_bodies]

/-- A record just taken is in the open buffer (R119). -/
theorem fate_takeRecords {recs : List JRecord} {id : Nat} (hold : ∀ f ∈ s.jrn.fates, f.1 ≠ id)
    (hnew : ∃ x ∈ recs, x.id = id) : (takeRecords recs s).jrn.fate? id = some .inBuffer := by
  have h := fate_takenAll (s := s) (by' := .none) hold hnew
  unfold takenAll at h
  rw [List.flatMap_singleton] at h
  exact h

/-! ## The end of the claim (R114, R115) -/

/-- A discard without a record to wait for is answered once its records have been taken (R114, R115). -/
theorem discardTaken_answers (h : s.mrg.discard = some d) (hp : d.placed = true) (hr : d.record = none) :
    discardTaken s = answer d.owed .doneOk 0 0 d.removed 0 [] (setMrg (fun m => { m with discard := none })
      (setOrder (List.filter fun x => !x.isDiscard) s)) := by
  have h' : (setOrder (List.filter fun x => !x.isDiscard) s).mrg.discard = some d := h
  unfold discardTaken discardAnswer
  simp only [h', hp, hr]
  rfl

/-- DISCARD_CLAIM_GRANT takes the grant of a discard claim (R114). -/
theorem exec_discardGrant {first count : Nat} (hl : s.te.link ≠ .down) (h : s.mrg.discard = some d) (hp : d.placed = true)
    (hr : d.record = none) (hh : s.handOffWaits .discard = false)
    (hc : (⟨.discard d.region first count, true⟩ : Placed) ∈ s.adm.order) :
    exec .discardClaimGrant s = .next (discardTake d s) := by
  have hany : s.adm.order.any (fun x => x.granted && x.isDiscard) = true := List.any_eq_true.2 ⟨_, hc, rfl⟩
  have hk := (keeps_discardTake d (Keeps.refl s)).link
  have e : exec .discardClaimGrant s = .next (settleDown (discardTake d s)) := by
    show Host.Outcome.next _ = _
    simp only [h, hp, hr, hh, hany]
    rfl
  rw [e, settleDown_of_link (hk ▸ hl)]

/-- Whatever ends the claim leaves the region as it has been emptied (R114). -/
theorem discardedFrom_of (hok : s.slotsOk) (hov : t.ov = (emptied d s).ov) (hmap : t.map = (emptied d s).map)
    (horder : t.adm.order = s.adm.order.filter fun x => !x.isDiscard) (hrecs : t.adm.records = s.adm.records)
    (hn : ∀ p, (t.mg p).notices = ((emptied d s).mg p).notices) (hA : t.outA = s.outA) (hB : t.outB = s.outB) :
    t.discardedFrom s d.region (s.badSlots d.region) := by
  obtain ⟨htable, hun, -, hret, -⟩ := emptied_facts (d := d) hok
  refine ⟨hov ▸ htable, hmap ▸ hun, fun x hx i a n => ?_, hrecs, hov ▸ hret, fun hb p => ?_, fun n hb p => ?_, hA, hB⟩
  · rw [horder] at hx
    exact not_discard_of_not_isDiscard (by simpa using (List.mem_filter.1 hx).2) i a n
  · rw [hn, emptied_mg, hb]
    rfl
  · rw [hn, emptied_mg, hb]
    rfl

theorem emptied_journalLen (hok : s.slotsOk) : (emptied d s).journalLen = s.journalLen := by
  obtain ⟨-, -, -, -, -, -, -, -, hlay⟩ := emptied_facts (d := d) hok
  unfold State.journalLen
  rw [hlay]

/-- A discard of a volatile region is answered in the act that takes it (R33, R114, R115). -/
theorem discard_volatile {first count : Nat} (hl : s.te.link ≠ .down) (h : s.mrg.discard = some d) (hp : d.placed = true)
    (hr : d.record = none) (ho : d.owed = some p) (hh : s.handOffWaits .discard = false)
    (hc : (⟨.discard d.region first count, true⟩ : Placed) ∈ s.adm.order) (hok : s.slotsOk)
    (hj : s.journaled d.region = false) (hfit : s.badSlots d.region = [] ∨ s.jrn.cond = .fault ∨ (s.jrn.waiting = [] ∧
      s.jrn.live < s.journalLen ∧ s.jrn.openBuf.length + (s.badSlots d.region).length ≤ 30)) :
    ∃ t, exec .discardClaimGrant s = .next t ∧ t.discardedFrom s d.region (s.badSlots d.region) ∧
      t.ov.ring = s.ov.ring ++ (s.regionSlots d.region).filter (fun n => !(s.badSlots d.region).contains n) ∧
      t.ov.pendingFree = s.ov.pendingFree ∧ t.mrg.discard = none ∧ t.respondedWith p .doneOk 0 0 (s.entryCount d.region) 0 := by
  obtain ⟨-, -, hadm, -, hdis, hjrn, hA, hB, -⟩ := emptied_facts (d := d) hok
  have hbodies : discardBodies d (s.badSlots d.region) s = (s.badSlots d.region).map .retire := by
    unfold discardBodies
    simp [hj]
  have hrecord : discardRecord d s = none := by
    unfold discardRecord
    simp [hj]
  obtain ⟨j, htaken, -⟩ := handOff_taken (s := emptied d s) (by' := .discard)
    (recs := namesFrom s.jrn.nextId (discardBodies d (s.badSlots d.region) s)) (by
      rw [hjrn, emptied_journalLen hok, namesFrom_length, hbodies, List.length_map]
      exact hfit.imp_left fun hb => by rw [hb]; rfl)
  have hexec := exec_discardGrant hl h hp hr hh hc
  have hdis' : ({ emptied d s with jrn := j } : State).mrg.discard =
      some { d with record := none, removed := s.entryCount d.region } := hdis.trans (by rw [hrecord])
  rw [discardTake_eq, htaken, if_pos rfl, discardTaken_answers hdis' hp rfl, ho] at hexec
  obtain ⟨hring, hpend⟩ := dropSlots_released (region := d.region) (bad := s.badSlots d.region) (record := discardRecord d s)
    (l := s.regionSlots d.region) (s := cleared d s)
  rw [hrecord] at hring hpend
  refine ⟨_, hexec, discardedFrom_of hok (by simp [setMrg]) (by simp [setMrg]) ?_ ?_ (fun q => ?_) ?_ ?_, ?_, ?_, ?_,
    respondedWith_answer ..⟩
  · simp [setMrg, setOrder, hadm]
  · simp [setMrg, setOrder, hadm]
  · rw [notices_answer]
    cases q <;> rfl
  · simp [setMrg, hA]
  · simp [setMrg, hB]
  · refine Eq.trans ?_ (hring.trans rfl)
    simp [setMrg, emptied, hrecord]
  · refine Eq.trans ?_ (hpend.trans (List.append_nil _))
    simp [setMrg, emptied, hrecord]
  · simp [setMrg]

/-- The slots that are released: those in service (R114). -/
theorem goodSlots_eq : (s.regionSlots region).filter (fun n => !(s.badSlots region).contains n) =
    (s.regionSlots region).filter fun n => !s.ov.condemned.contains n := by
  refine List.filter_congr fun n hn => ?_
  unfold State.badSlots
  simp [hn]

/-- A notice changes neither the request in progress nor the response (R171, R178). -/
theorem retireNotices_keeps (m : PortMgmt) : (retireNotices region l m).inProgress = m.inProgress ∧
    (retireNotices region l m).response = m.response := by
  induction l generalizing m with
  | nil => exact ⟨rfl, rfl⟩
  | cons n l ih =>
    obtain ⟨h1, h2⟩ := ih (offer (.slotRetired n) (some region) m)
    obtain ⟨-, h3, h4⟩ := offer_keeps (.slotRetired n) (some region) m
    exact ⟨h1.trans h3, h2.trans h4⟩

/-- A discard of a KEEP region waits for its record, and the slots it releases with it (R33, R114). -/
theorem discard_kept {first count : Nat} (hl : s.te.link ≠ .down) (h : s.mrg.discard = some d) (hp : d.placed = true)
    (hr : d.record = none) (hh : s.handOffWaits .discard = false)
    (hc : (⟨.discard d.region first count, true⟩ : Placed) ∈ s.adm.order) (hok : s.slotsOk)
    (hj : s.journaled d.region = true) (hcond : s.jrn.cond = .normal) (hw : s.jrn.waiting = [])
    (hlive : s.jrn.live < s.journalLen) (hfit : s.jrn.openBuf.length + 1 + (s.badSlots d.region).length ≤ 30)
    (hold : ∀ f ∈ s.jrn.fates, f.1 ≠ s.jrn.nextId) :
    ∃ t, exec .discardClaimGrant s = .next t ∧ t.discardedFrom s d.region (s.badSlots d.region) ∧ t.ov.ring = s.ov.ring ∧
      t.ov.pendingFree = s.ov.pendingFree ++
        ((s.regionSlots d.region).filter fun n => !(s.badSlots d.region).contains n).map (fun n => ⟨n, s.jrn.nextId⟩) ∧
      t.mrg.discard = some { d with record := some s.jrn.nextId, removed := s.entryCount d.region } ∧
      t.jrn.openBuf.map (·.body) =
        s.jrn.openBuf.map (·.body) ++ RecordBody.discard d.region :: (s.badSlots d.region).map RecordBody.retire ∧
      (t.jrn.openBuf[s.jrn.openBuf.length]?).map (·.id) = some s.jrn.nextId ∧
      (t.mg p).inProgress = (s.mg p).inProgress ∧ (t.mg p).response = (s.mg p).response := by
  obtain ⟨-, -, hadm, -, hdis, hjrn, hA, hB, -⟩ := emptied_facts (d := d) hok
  have hbodies : discardBodies d (s.badSlots d.region) s =
      .discard d.region :: (s.badSlots d.region).map .retire := by
    unfold discardBodies
    simp [hj]
  have hrecord : discardRecord d s = some s.jrn.nextId := by
    unfold discardRecord
    simp [hj]
  generalize hrecs : namesFrom s.jrn.nextId (discardBodies d (s.badSlots d.region) s) = recs
  have hmap : recs.map (·.body) = .discard d.region :: (s.badSlots d.region).map .retire := by
    rw [← hrecs, namesFrom_bodies, hbodies]
  have hhead : ∃ b rest, recs = ⟨s.jrn.nextId, b⟩ :: rest := ⟨_, _, by rw [← hrecs, hbodies]; rfl⟩
  obtain ⟨b, rest, hcons⟩ := hhead
  have hlen : recs.length = 1 + (s.badSlots d.region).length := by
    rw [← List.length_map (f := (·.body)), hmap]
    simp
    omega
  have htaken : handOff .discard recs (emptied d s) = (true, takeRecords recs (emptied d s)) := by
    refine handOff_fits (by simp [hcons]) ?_ ?_ ?_ ?_
    · simp [hjrn, hcond]
    · simp [hjrn, hw]
    · rw [hjrn, emptied_journalLen hok]
      exact hlive
    · rw [hjrn, hlen]
      show s.jrn.openBuf.length + _ ≤ 30
      omega
  have hfate : (takeRecords recs (emptied d s)).jrn.fate? s.jrn.nextId = some .inBuffer := by
    refine fate_takeRecords ?_ ⟨_, by rw [hcons]; exact List.mem_cons_self .., rfl⟩
    rw [hjrn]
    exact hold
  have hdis' : (takeRecords recs (emptied d s)).mrg.discard =
      some { d with record := some s.jrn.nextId, removed := s.entryCount d.region } := hdis.trans (by rw [hrecord])
  have hexec := exec_discardGrant hl h hp hr hh hc
  rw [discardTake_eq, hrecs, htaken, if_pos rfl, discardTaken_stands hdis' hp rfl hfate] at hexec
  obtain ⟨hring, hpend⟩ := dropSlots_released (region := d.region) (bad := s.badSlots d.region) (record := discardRecord d s)
    (l := s.regionSlots d.region) (s := cleared d s)
  rw [hrecord] at hring hpend
  have hmg : (setOrder (List.filter fun x => !x.isDiscard) (takeRecords recs (emptied d s))).mg p =
      retireNotices d.region (s.badSlots d.region) (s.mg p) := (by cases p <;> rfl : _ = (emptied d s).mg p).trans emptied_mg
  have hopen : (setOrder (List.filter fun x => !x.isDiscard) (takeRecords recs (emptied d s))).jrn.openBuf =
      s.jrn.openBuf ++ recs := by
    show (emptied d s).jrn.openBuf ++ recs = _
    rw [hjrn]
  refine ⟨_, hexec, discardedFrom_of hok rfl rfl ?_ ?_ (fun q => by cases q <;> rfl) hA hB, ?_, ?_, hdis', ?_, ?_, ?_, ?_⟩
  · simp [setOrder, takeRecords, setJrn, hadm]
  · simp [setOrder, takeRecords, setJrn, hadm]
  · refine Eq.trans ?_ (hring.trans (List.append_nil _))
    simp [takeRecords, setJrn, emptied, hrecord]
  · refine Eq.trans ?_ hpend
    simp [takeRecords, setJrn, emptied, hrecord]
  · rw [hopen, List.map_append, hmap]
  · rw [hopen, hcons]
    simp
  · rw [hmg]
    exact (retireNotices_keeps _).1
  · rw [hmg]
    exact (retireNotices_keeps _).2

/-- Settles O28: the region is emptied; its claim ends in the act, or once its record is durable. -/
theorem discardRemovesTheRegionsEntries : Obligations.DiscardRemovesTheRegionsEntries := by
  rintro s d p first count slots bad hl h hp hr ho hh hc hok rfl rfl
  refine ⟨fun hj hfit => ?_, fun hj hcond hw hlive hfit hold => ?_⟩
  · rw [← goodSlots_eq]
    exact discard_volatile hl h hp hr ho hh hc hok hj hfit
  · rw [← goodSlots_eq]
    exact discard_kept hl h hp hr hh hc hok hj hcond hw hlive hfit hold

end Sys2Proof.Machine
end

section
/-! SUPPORT. The end of a merge grain whose base writes have ended, and of a run that stops (R33, R35, R107, R108, R111). -/

namespace Sys2Proof.Machine

variable {s t u : State} {x : MergeGrain} {e : Entry} {o : TargetOp} {off n tag done value : Nat} {detail : Option Nat}
  {cause : Option MergeCause}

/-! ## The end of a run, whoever waits for it (R110, R111) -/

/-- Answers to HALT_MERGE requests reach the response areas alone. -/
theorem answers_keep (ports : List Port) (s : State) :
    (ports.foldl (fun u p => answerPlain (some p) .doneOk u) s).ov = s.ov ∧
      ∀ q, ((ports.foldl (fun u p => answerPlain (some p) .doneOk u) s).mg q).notices = (s.mg q).notices :=
  foldl_rel (fun s t => t.ov = s.ov ∧ ∀ q, (t.mg q).notices = (s.mg q).notices) (fun _ => ⟨rfl, fun _ => rfl⟩)
    (fun _ _ _ a b => ⟨b.1.trans a.1, fun q => (b.2 q).trans (a.2 q)⟩) (fun _ _ => by simp [answerPlain]) ports s

/-- The notice a run ends with (R111). -/
def endNotice (cause : Option MergeCause) (s : State) : NoticeBody :=
  match cause with
  | none => .mergeDone s.mrg.merged s.entriesLeft
  | some c => .mergeStopped c s.mrg.cursor

/-- The run and its grain are gone, and its notice is raised (R111). -/
theorem mergeEnd_run (cause : Option MergeCause) (s : State) :
    (mergeEnd cause s).mrg = { s.mrg with
      state := .none, grain := none, cause := cause, left := s.entriesLeft, haltOwed := [] } ∧
    (mergeEnd cause s).adm = s.adm ∧ (mergeEnd cause s).ov = s.ov ∧
    ∀ p, ((mergeEnd cause s).mg p).notices = (offer (endNotice cause s) s.mrg.noticeRegion (s.mg p)).notices := by
  obtain ⟨hmrg, -, hadm⟩ := answers_frame s.mrg.haltOwed (raise (endNotice cause s) s.mrg.noticeRegion
    (setMrg (fun m => { m with state := .none, grain := none, cause := cause, left := s.entriesLeft, haltOwed := [] }) s))
  obtain ⟨hov, hn⟩ := answers_keep s.mrg.haltOwed (raise (endNotice cause s) s.mrg.noticeRegion
    (setMrg (fun m => { m with state := .none, grain := none, cause := cause, left := s.entriesLeft, haltOwed := [] }) s))
  refine ⟨hmrg, hadm, hov, fun p => (hn p).trans ?_⟩
  rw [mg_raise]
  cases p <;> rfl

/-! ## What a search keeps (R104) -/

/-- A search keeps the store and the count of grains merged, and places a claim at or above its cursor alone (R104). -/
theorem mergeSearch_keeps (s : State) : (mergeSearch s).ov = s.ov ∧ (mergeSearch s).mrg.merged = s.mrg.merged ∧
    ∀ y ∈ (mergeSearch s).adm.order, y ∈ s.adm.order ∨ ∃ g, s.mrg.cursor ≤ g ∧ y.ref = .merge g := by
  have ends (cause : Option MergeCause) {t : State} (ht : t.ov = s.ov) (hm : t.mrg.merged = s.mrg.merged)
      (ha : t.adm = s.adm) : (mergeEnd cause t).ov = s.ov ∧ (mergeEnd cause t).mrg.merged = s.mrg.merged ∧
        ∀ y ∈ (mergeEnd cause t).adm.order, y ∈ s.adm.order ∨ ∃ g, s.mrg.cursor ≤ g ∧ y.ref = .merge g := by
    obtain ⟨hmrg, hadm, hov, -⟩ := mergeEnd_run cause t
    refine ⟨hov.trans ht, by rw [hmrg]; exact hm, fun y hy => .inl ?_⟩
    rwa [hadm, ha] at hy
  unfold mergeSearch
  split
  · exact ends _ rfl rfl rfl
  · split
    next => exact ends _ rfl rfl rfl
    next e he =>
      dsimp only
      split
      · exact ends _ rfl rfl rfl
      · obtain ⟨g, hg⟩ := placeAtEnd_eq (.merge e.grain) (setMrg (fun m => { m with grain := some (MergeGrain.waitingClaim e) })
          (setMrg (fun m => { m with cursor := e.grain }) s))
        have hle : s.mrg.cursor ≤ e.grain := by
          have := List.find?_some he
          simp only [Bool.and_eq_true, decide_eq_true_eq] at this
          exact this.1.1
        rw [hg]
        refine ⟨rfl, rfl, fun y hy => ?_⟩
        rcases List.mem_append.1 hy with hy | hy
        · exact .inl hy
        · exact .inr ⟨e.grain, hle, by rw [List.mem_singleton.1 hy]⟩

/-- The claim of a grain that ends is gone, and no claim of the grain follows (R105, R108). -/
theorem mergeNextGrain_keeps (s : State) : (mergeNextGrain s).ov = s.ov ∧ (mergeNextGrain s).mrg.merged = s.mrg.merged ∧
    ∀ y ∈ (mergeNextGrain s).adm.order, y.ref ≠ .merge s.mrg.cursor := by
  obtain ⟨hov, hm, ho⟩ := mergeSearch_keeps
    (setMrg (fun m => { m with grain := none, cursor := m.cursor + 1 }) (unplace (.merge s.mrg.cursor) s))
  refine ⟨hov, hm, fun y hy => ?_⟩
  rcases ho y hy with hy | ⟨g, hg, hy⟩
  · exact of_decide_eq_true (List.mem_filter.1 hy).2
  · rw [hy]
    intro e
    injection e with e
    have : s.mrg.cursor + 1 ≤ g := hg
    omega

theorem mergeEnding_keeps (s : State) : (mergeEnding s).ov = s.ov ∧ (mergeEnding s).mrg.merged = s.mrg.merged := by
  unfold mergeEnding
  split
  · exact ⟨rfl, rfl⟩
  · obtain ⟨hov, hm, -⟩ := mergeNextGrain_keeps s
    exact ⟨hov, hm⟩

/-! ## The update of a grain (R33, R35, R108) -/

/-- Whether the slot of a merged grain is retired: it is condemned, or a read of it failed on the medium (R35, R108). -/
def State.retiresSlot (s : State) (x : MergeGrain) (n : Nat) : Bool := s.ov.condemned.contains n || x.mediaMet

/-- The table once a grain has been merged: its entry is gone, or states its lost blocks alone (R108). -/
def mergedEntry (g : Nat) (e : Entry) (s : State) : State :=
  if e.lost = 0 then removeEntry g s else putEntry { e with slot := none, present := 0, state := .resident } s

/-- The records of a merged grain (R108, R118). -/
def mergedBodies (x : MergeGrain) (g n : Nat) (e : Entry) (s : State) : List RecordBody :=
  (if s.journaled x.region then
    [if e.lost = 0 then RecordBody.remove g
      else Entry.record { e with slot := none, present := 0, state := .resident }] else []) ++
    (if s.retiresSlot x n then [RecordBody.retire n] else [])

/-- The record that frees the slot of a merged grain of a KEEP region (R33). -/
def freeingRecord (x : MergeGrain) (s : State) : Option Nat := if s.journaled x.region then some s.jrn.nextId else none

/-- The state in which the table and the slot of a merged grain have been updated (R33, R35, R108). -/
def slotGone (x : MergeGrain) (g n : Nat) (e : Entry) (s : State) : State :=
  let t := (nameRecords (mergedBodies x g n e s) (mergedEntry g e s)).2
  if s.retiresSlot x n then raise (.slotRetired n) (some x.region) (retire n t) else releaseSlot n (freeingRecord x s) t

/-- The state in which the grain is ENDING and counted (R108). -/
def grainCounted (x : MergeGrain) (g n : Nat) (e : Entry) (s : State) : State :=
  setMrg (fun m => { m with merged := m.merged + 1 })
    (mapGrain (fun y => { y with stage := .ending }) (clearGrain x (slotGone x g n e s)))

theorem mergedEntry_facts (g : Nat) (e : Entry) (s : State) : (mergedEntry g e s).jrn = s.jrn ∧
    (mergedEntry g e s).mrg = s.mrg ∧ (mergedEntry g e s).adm = s.adm ∧ (mergedEntry g e s).map = s.map ∧
    (mergedEntry g e s).ov.ring = s.ov.ring ∧ (mergedEntry g e s).ov.pendingFree = s.ov.pendingFree ∧
    (mergedEntry g e s).ov.retired = s.ov.retired := by
  unfold mergedEntry
  split <;> exact ⟨rfl, rfl, rfl, rfl, rfl, rfl, rfl⟩

/-- The records of the grain with their names. -/
def mergedRecords (x : MergeGrain) (g n : Nat) (e : Entry) (s : State) : List JRecord :=
  (nameRecords (mergedBodies x g n e s) (mergedEntry g e s)).1

theorem mergeGrainEnd_eq (he : s.entry? s.mrg.cursor = some e) (hn : e.slot = some n) : mergeGrainEnd x s =
    mergeEnding (handOff .merge (mergedRecords x s.mrg.cursor n e s) (grainCounted x s.mrg.cursor n e s)).2 := by
  have hslot : s.slotOf s.mrg.cursor = some n := by
    unfold State.slotOf
    rw [he]
    exact hn
  have hrec : (if s.journaled x.region then
      (mergedRecords x s.mrg.cursor n e s).head?.map (·.id) else none) = freeingRecord x s := by
    obtain ⟨hjrn, -⟩ := mergedEntry_facts s.mrg.cursor e s
    unfold freeingRecord mergedRecords nameRecords mergedBodies
    rw [hjrn]
    split <;> rfl
  unfold mergeGrainEnd
  simp only [he, hslot]
  unfold grainCounted slotGone
  rw [← hrec]
  rfl

/-- The entry of a merged grain (R108). -/
theorem mergedEntry_entry? (he : s.entry? n = some e) : (mergedEntry n e s).entry? n =
    if e.lost = 0 then none else some { e with slot := none, present := 0, state := .resident } := by
  unfold mergedEntry
  split
  · exact List.find?_eq_none.2 fun y hy => by simpa using (List.mem_filter.1 hy).2
  · exact (entry?_putEntry _ _ _).trans (if_pos (entry?_grain he))

/-- What the slot of a merged grain changes (R33, R35). -/
theorem slotGone_facts (x : MergeGrain) (g n : Nat) (e : Entry) (s : State) :
    (slotGone x g n e s).ov.table = (mergedEntry g e s).ov.table ∧ (slotGone x g n e s).mrg = s.mrg ∧
      (slotGone x g n e s).adm = s.adm ∧ (slotGone x g n e s).map = s.map ∧
      (slotGone x g n e s).jrn = { s.jrn with nextId := s.jrn.nextId + (mergedBodies x g n e s).length } ∧
      (s.retiresSlot x n = true → (slotGone x g n e s).ov.ring = s.ov.ring ∧
        (slotGone x g n e s).ov.pendingFree = s.ov.pendingFree ∧
        (slotGone x g n e s).ov.retired = if n ∈ s.ov.retired then s.ov.retired else s.ov.retired ++ [n]) ∧
      (s.retiresSlot x n = false → (slotGone x g n e s).ov.retired = s.ov.retired ∧
        (s.journaled x.region = false → (slotGone x g n e s).ov.ring = s.ov.ring ++ [n] ∧
          (slotGone x g n e s).ov.pendingFree = s.ov.pendingFree) ∧
        (s.journaled x.region = true → (slotGone x g n e s).ov.ring = s.ov.ring ∧
          (slotGone x g n e s).ov.pendingFree = s.ov.pendingFree ++ [⟨n, s.jrn.nextId⟩])) := by
  obtain ⟨hjrn, hmrg, hadm, hmap, hring, hpend, hret⟩ := mergedEntry_facts g e s
  cases hb : s.retiresSlot x n with
  | true =>
    unfold slotGone
    simp [hb, nameRecords, retire, hjrn, hmrg, hadm, hmap, hring, hpend, hret, setJrn]
  | false =>
    unfold slotGone freeingRecord
    cases hj : s.journaled x.region <;>
      simp [hb, nameRecords, releaseSlot, joinRing, hjrn, hmrg, hadm, hmap, hring, hpend, hret, setJrn]

theorem grainCounted_facts (x : MergeGrain) (g n : Nat) (e : Entry) (s : State) :
    (grainCounted x g n e s).ov = (slotGone x g n e s).ov ∧ (grainCounted x g n e s).adm = (slotGone x g n e s).adm ∧
      (grainCounted x g n e s).map = (slotGone x g n e s).map ∧ (grainCounted x g n e s).jrn = (slotGone x g n e s).jrn ∧
      (grainCounted x g n e s).mrg.merged = (slotGone x g n e s).mrg.merged + 1 ∧
      (grainCounted x g n e s).mrg.cursor = (slotGone x g n e s).mrg.cursor := by
  simp [grainCounted, setMrg, mapGrain, clearGrain]

theorem mergedBodies_length (x : MergeGrain) (g n : Nat) (e : Entry) (s : State) :
    (mergedBodies x g n e s).length ≤ 2 := by
  unfold mergedBodies
  cases s.journaled x.region <;> cases s.retiresSlot x n <;> simp

/-- A grain whose records are taken ends at once (R108). -/
theorem mergeEnding_taken (hw : s.jrn.waiting = []) : mergeEnding s = mergeNextGrain s := by
  unfold mergeEnding
  rw [if_neg]
  simp [State.handOffWaits, hw]

/-- A grain whose records the buffer takes is left at once (R95, R108). -/
theorem mergeEnding_handOff {u : State} {recs : List JRecord} (hw : u.jrn.waiting = [])
    (hroom : u.jrn.cond = .fault ∨ (u.jrn.live < u.journalLen ∧ u.jrn.openBuf.length + recs.length ≤ 30)) :
    ∀ y ∈ (mergeEnding (handOff .merge recs u).2).adm.order, y.ref ≠ .merge u.mrg.cursor := by
  obtain ⟨j, htaken, hj⟩ := handOff_taken (s := u) (by' := .merge) (recs := recs)
    (.inr (hroom.imp_right fun ⟨hlive, hfit⟩ => ⟨hw, hlive, hfit⟩))
  rw [htaken, mergeEnding_taken (hj.trans hw)]
  exact (mergeNextGrain_keeps { u with jrn := j }).2.2

/-- The claim of the grain goes when its records are taken in the act (R108, R119). -/
theorem mergeGrainEnd_claim (he : s.entry? s.mrg.cursor = some e) (hn : e.slot = some n) (hw : s.jrn.waiting = [])
    (hroom : s.jrn.cond = .fault ∨ (s.jrn.live < s.journalLen ∧ s.jrn.openBuf.length + 2 ≤ 30)) :
    ∀ y ∈ (mergeGrainEnd x s).adm.order, y.ref ≠ .merge s.mrg.cursor := by
  obtain ⟨-, hmrg, -, hmap, hjrn, -⟩ := slotGone_facts x s.mrg.cursor n e s
  obtain ⟨-, -, cmap, cjrn, -, ccur⟩ := grainCounted_facts x s.mrg.cursor n e s
  have hlen : (mergedRecords x s.mrg.cursor n e s).length ≤ 2 := by
    unfold mergedRecords nameRecords
    rw [namesFrom_length]
    exact mergedBodies_length ..
  rw [mergeGrainEnd_eq he hn]
  generalize mergedRecords x s.mrg.cursor n e s = recs at hlen ⊢
  rw [hmrg] at ccur
  rw [hmap] at cmap
  rw [hjrn] at cjrn
  generalize grainCounted x s.mrg.cursor n e s = u at cmap cjrn ccur ⊢
  have hjl : u.journalLen = s.journalLen := by
    unfold State.journalLen
    rw [cmap]
  rw [← ccur]
  refine mergeEnding_handOff (by rw [cjrn]; exact hw) ?_
  rw [hjl, cjrn]
  refine hroom.imp_right fun ⟨hlive, hfit⟩ => ⟨hlive, ?_⟩
  exact (Nat.add_le_add_left hlen _).trans hfit

/-- What the update of a grain leaves of the store and the count (R33, R35, R108). -/
theorem mergeGrainEnd_store (he : s.entry? s.mrg.cursor = some e) (hn : e.slot = some n) :
    (mergeGrainEnd x s).ov = (slotGone x s.mrg.cursor n e s).ov ∧ (mergeGrainEnd x s).mrg.merged = s.mrg.merged + 1 := by
  obtain ⟨-, hmrg, -⟩ := slotGone_facts x s.mrg.cursor n e s
  obtain ⟨cov, -, -, -, cm, -⟩ := grainCounted_facts x s.mrg.cursor n e s
  obtain ⟨hov, hm⟩ := mergeEnding_keeps
    (handOff .merge (mergedRecords x s.mrg.cursor n e s) (grainCounted x s.mrg.cursor n e s)).2
  rw [mergeGrainEnd_eq he hn]
  refine ⟨hov.trans (by simp [cov]), hm.trans ?_⟩
  simp [cm, hmrg]

/-! ## The last base write of a grain (R107, R108, R111) -/

/-- A grain whose last base write has ended. -/
structure LastWrite (s : State) (x : MergeGrain) : Prop where
  grain    : s.mrg.grain = some x
  stage    : x.stage = .writing
  claiming : x.claiming = false
  idle     : s.hasWork Owner.ofMerge = false

/-- With no cause to stop the grain is merged (R108). -/
theorem LastWrite.merged (h : LastWrite s x) (hc : s.mrg.cause = none) : mergeAdvance s = mergeGrainEnd x s := by
  unfold mergeAdvance
  simp [h.grain, hc, h.idle, h.claiming, h.stage]

theorem inFlight_of_hasWork {mine : Owner → Bool} (h : s.hasWork mine = false) : s.inFlight mine = false := by
  unfold State.hasWork at h
  simp only [Bool.or_eq_false_iff] at h
  exact h.1.1.1.1.1.1

/-- With a cause the run stops (R111). -/
theorem LastWrite.stopped {c : MergeCause} (h : LastWrite s x) (hc : s.mrg.cause = some c) :
    mergeAdvance s = mergeStop x c s := by
  unfold mergeAdvance
  simp [h.grain, hc, inFlight_of_hasWork h.idle]

/-- A base write that failed is a cause to stop (R107). -/
theorem setCause_sets {c : MergeCause} (h : s.mrg.grain = some x) (hc : s.mrg.cause = none) :
    setCause c s = { s with mrg := { s.mrg with cause := some c } } := by
  unfold setCause setMrg
  simp [h, hc]

/-- A run that stops leaves the grain its entry, RESIDENT (R22, R111). -/
theorem mergeStop_facts {c : MergeCause} (he : s.entry? s.mrg.cursor = some e) :
    (mergeStop x c s).entry? s.mrg.cursor = some { e with state := .resident } ∧ (mergeStop x c s).mrg.state = .none ∧
      (mergeStop x c s).mrg.cause = some c ∧ (mergeStop x c s).mrg.grain = none ∧
      (mergeStop x c s).ov.ring = s.ov.ring ∧ (∀ y ∈ (mergeStop x c s).adm.order, y.ref ≠ .merge s.mrg.cursor) ∧
      ∀ p, ((mergeStop x c s).mg p).notices =
        (offer (.mergeStopped c s.mrg.cursor) s.mrg.noticeRegion (s.mg p)).notices := by
  have hcur : (setEntryState s.mrg.cursor .resident (orphanHandOffs .merge (clearGrain x s))).mrg.cursor = s.mrg.cursor := by
    simp [orphanHandOffs, clearGrain, mapGrain, setMrg]
  have hent : (setEntryState s.mrg.cursor .resident (orphanHandOffs .merge (clearGrain x s))).entry? s.mrg.cursor =
      some { e with state := .resident } := by
    rw [entry?_setEntryState, show (orphanHandOffs .merge (clearGrain x s)).entry? s.mrg.cursor = some e from he]
    rfl
  generalize hu : setEntryState s.mrg.cursor .resident (orphanHandOffs .merge (clearGrain x s)) = u at hcur hent
  have hstop : mergeStop x c s = mergeEnd (some c) (unplace (.merge s.mrg.cursor) u) := by
    unfold mergeStop mergeEndHere
    rw [hu, hcur]
  obtain ⟨hmrg, hadm, hov, hn⟩ := mergeEnd_run (some c) (unplace (.merge s.mrg.cursor) u)
  rw [hstop]
  refine ⟨(entry?_congr _ (congrArg _ hov)).trans hent, by rw [hmrg], by rw [hmrg], by rw [hmrg], ?_, fun y hy => ?_,
    fun p => ?_⟩
  · rw [hov, ← hu]
    rfl
  · rw [hadm] at hy
    exact of_decide_eq_true (List.mem_filter.1 hy).2
  · rw [hn p, ← hu]
    cases p <;> rfl

/-- The STATUS that ends a grain: OK, or a failure on the medium (R73, R107). -/
theorem status_mergeWrite (hl : s.carriedOut tag o) (hown : o.req.owner = .mergeWrite off) :
    exec (.targetStatus tag 0x00 done detail value) s = .next (mergeAdvance (removeOp tag s)) := by
  obtain ⟨hup, ho, hs, hc⟩ := hl
  rw [exec_status_ok hup ho hs hc, op?_tag ho]
  unfold finalOutcome
  rw [hown]
  rfl

theorem status_mergeWrite_media (hl : s.carriedOut tag o) (hown : o.req.owner = .mergeWrite off) (hw : o.req.op = .write) :
    ∃ f, exec (.targetStatus tag 0x0C done detail value) s =
      .next (mergeAdvance (setCause .baseFault { removeOp tag s with free := f })) := by
  obtain ⟨hup, ho, hs, -⟩ := hl
  obtain ⟨k, f, hend⟩ := endOp_media_write (s := s) (done := done) (detail := detail) hs hw
  refine ⟨f, ?_⟩
  rw [exec_status_final hup ho hend hup, op?_tag ho]
  unfold finalOutcome
  rw [hown]
  rfl

/-- Settles O38: the grain is merged, or the run stops. -/
theorem mergeGrainEndsOrStops : Obligations.MergeGrainEndsOrStops := by
  intro s tag done value off n detail o x e hl hown hw hx hst hcl hc hlast he hn _
  have h : LastWrite (removeOp tag s) x := ⟨hx, hst, hcl, hlast⟩
  refine ⟨⟨_, (status_mergeWrite hl hown).trans (congrArg _ (h.merged hc)), ?_⟩, ?_⟩
  · obtain ⟨hov, hm⟩ := mergeGrainEnd_store (x := x) (s := removeOp tag s) he hn
    obtain ⟨htable, -, -, -, -, hbad, hgood⟩ := slotGone_facts x s.mrg.cursor n e (removeOp tag s)
    refine ⟨hm, ?_, fun hcond hmed => ?_, fun hb => ?_, fun hwait hroom => mergeGrainEnd_claim (s := removeOp tag s) he hn hwait hroom⟩
    · exact (entry?_congr _ (congrArg _ hov)).trans
        ((entry?_congr _ htable).trans (mergedEntry_entry? (s := removeOp tag s) he))
    · rw [hov]
      exact hgood (Bool.or_eq_false_iff.2 ⟨hcond, hmed⟩)
    · rw [hov]
      exact hbad (Bool.or_eq_true_iff.2 hb)
  · obtain ⟨f, hexec⟩ := status_mergeWrite_media (done := done) (value := value) (detail := detail) hl hown hw
    rw [setCause_sets (s := { removeOp tag s with free := f }) hx hc] at hexec
    generalize hu : ({ { removeOp tag s with free := f } with mrg := { s.mrg with cause := some .baseFault } } : State) = u
    have hlast' : LastWrite u x := by
      subst hu
      exact ⟨hx, hst, hcl, hlast⟩
    have hcause : u.mrg.cause = some .baseFault := by rw [← hu]
    have hcur : u.mrg.cursor = s.mrg.cursor := by rw [← hu]
    obtain ⟨hent, hstate, hcz, hgrain, hring, hclaim, hnot⟩ := mergeStop_facts (x := x) (c := .baseFault) (s := u) (e := e)
      (by rw [← hu]; exact he)
    rw [← hlast'.stopped hcause] at hent hstate hcz hgrain hring hclaim hnot
    rw [hcur] at hent hclaim hnot
    refine ⟨mergeAdvance u, by rw [← hu]; exact hexec, hent, hstate, hcz, hgrain, hring.trans (by rw [← hu]; rfl), hclaim, fun p => (hnot p).trans ?_⟩
    rw [← hu]
    cases p <;> rfl

end Sys2Proof.Machine
end

section
/-! SUPPORT. The end of the write of a journal block: its records become durable, or the journal enters FAULT (R33, R76,
R115, R120, R121, R130, R159). -/

namespace Sys2Proof.Machine

variable {s t u : State} {o : TargetOp} {r : Record} {d : Discard} {b : FlightBlock} {named : List Nat}
  {tag done value : Nat} {detail : Option Nat} {p : Port}

/-! ## What the end of a record leaves of the journal (R53, R76) -/

/-- What the ends of records leave to the journal: they take records out of its waiters, and producers out of its waiting
hand-offs. -/
structure Ending (s t : State) : Prop where
  journal : t.jrn = { s.jrn with waiters := t.jrn.waiters, waiting := t.jrn.waiting }
  waiting : s.jrn.waiting = [] → t.jrn.waiting = []
  waiters : ∀ c ∈ t.jrn.waiters, c ∈ s.jrn.waiters ∧ t.rec? c = s.rec? c
  pending : t.ov.pendingFree = s.ov.pendingFree
  merge   : t.mrg = s.mrg
  layout  : t.map.layout = s.map.layout
  mgmt    : ∀ p, t.mg p = s.mg p

theorem Ending.refl (s : State) : Ending s s := ⟨rfl, id, fun _ h => ⟨h, rfl⟩, rfl, rfl, rfl, fun _ => rfl⟩

theorem Ending.trans (h : Ending s t) (k : Ending t u) : Ending s u where
  journal := by rw [k.journal, h.journal]
  waiting := k.waiting ∘ h.waiting
  waiters c hc := by
    obtain ⟨hct, hrec⟩ := k.waiters c hc
    obtain ⟨hcs, hrec'⟩ := h.waiters c hct
    exact ⟨hcs, hrec.trans hrec'⟩
  pending := k.pending.trans h.pending
  merge := k.merge.trans h.merge
  layout := k.layout.trans h.layout
  mgmt p := (k.mgmt p).trans (h.mgmt p)

/-- Two Journal Units that agree in the fields that no record's end touches. -/
theorem journal_eq_of {a j : JournalUnit} (h : a.openBuf = j.openBuf ∧ a.inFlight = j.inFlight ∧ a.qNext = j.qNext ∧
    a.sCk = j.sCk ∧ a.cond = j.cond ∧ a.newest = j.newest ∧ a.newestGen = j.newestGen ∧ a.run = j.run ∧
    a.fates = j.fates ∧ a.nextId = j.nextId ∧ a.nextRun = j.nextRun) :
    a = { j with waiters := a.waiters, waiting := a.waiting } := by
  cases a
  simpa [JournalUnit.mk.injEq] using h

/-- A record that has ended waits for no journal record. -/
theorem leave_waiters (c : CmdId) (s : State) :
    ∀ y ∈ (leave c s).jrn.waiters, y ∈ s.jrn.waiters ∧ (leave c s).rec? y = s.rec? y := by
  intro y hy
  cases hr : s.rec? c with
  | none =>
    unfold leave at hy ⊢
    rw [hr] at hy ⊢
    exact ⟨hy, rfl⟩
  | some r =>
    have hwait : (leave c s).jrn.waiters = s.jrn.waiters.filter fun z => decide (z ≠ c) := by
      rw [leave_departed hr, ← rec?_id hr]
      unfold departed removeRecord
      simp only [resetDoneCheck_frame, lateCreation_frame]
      split <;> simp
    rw [hwait] at hy
    obtain ⟨hmem, hne⟩ := List.mem_filter.1 hy
    exact ⟨hmem, onlyOwn_leave.others y (of_decide_eq_true hne)⟩

theorem ending_endRecord (c : CmdId) (res : Result) (done : Nat) (x : Option Nat) (v : Nat) (s : State) :
    Ending s (endRecord c res done x v s) where
  journal := journal_eq_of (by simp)
  waiting := (faultKeeps_endRecord c res done x v s).waiting
  waiters y hy := by
    obtain ⟨hmem, hrec⟩ := leave_waiters c (sendStatus c res done x v s) y hy
    exact ⟨by simpa using hmem, hrec.trans (rec?_sendStatus ..)⟩
  pending := by simp
  merge := by simp
  layout := by simp
  mgmt p := mg_congr p (by simp) (by simp)

/-! ## The steps of the act (R121, R130) -/

/-- The fate of records once nothing is in flight. -/
def settledFates (ids : List Nat) (f : Fate) (j : JournalUnit) : JournalUnit := setFates ids f { j with inFlight := none }

/-- The records that wait for `ids` end, each with a result of its own (R76). -/
def endWaiters (ids : List Nat) (res : Record → Result) (s : State) : State :=
  (s.waitersOn fun id => ids.contains id).foldl (fun t r => endRecord r.id (res r) r.count none 0 t) s

/-- A discard whose record is among `ids` is answered (R115). -/
def endDiscard (ids : List Nat) (s : State) : State :=
  match s.mrg.discard with
  | some d => if d.record.any fun id => ids.contains id then discardAnswer s else s
  | none => s

/-- The result a WRITE that waited for its record ends with (R76). -/
def durableResult (r : Record) : Result := if r.stopNoted then .stopped else .ok

/-- The state in which the records of a block are durable, before the closing conditions are tested. -/
def blockDurable (ids : List Nat) (s : State) : State :=
  endDiscard ids (freePending (fun id => ids.contains id) (endWaiters ids durableResult (setJrn (settledFates ids .durable) s)))

theorem journalBlockEnd_ok (h : s.jrn.inFlight = some b) :
    journalBlockEnd .ok s = closeTest (blockDurable (b.recs.map (·.id)) s) := by
  unfold journalBlockEnd
  rw [h]
  rfl

theorem journalBlockEnd_fails {out : TOutcome} (h : s.jrn.inFlight = some b) (ho : out ≠ .ok) : journalBlockEnd out s =
    enterFault (.journalFaultBlock b.seq) b.recs (setJrn (fun j => { j with inFlight := none }) s) := by
  unfold journalBlockEnd
  rw [h]
  exact if_neg ho

theorem ending_endWaiters (ids : List Nat) (res : Record → Result) (s : State) : Ending s (endWaiters ids res s) :=
  foldl_rel Ending Ending.refl (fun _ _ _ => Ending.trans) (fun _ _ => ending_endRecord ..) _ _

theorem endWaiters_nil {ids : List Nat} {res : Record → Result} (h : s.waitersOn (fun id => ids.contains id) = []) :
    endWaiters ids res s = s := by
  unfold endWaiters
  rw [h]
  rfl

theorem endWaiters_one {ids : List Nat} {res : Record → Result} (h : s.waitersOn (fun id => ids.contains id) = [r]) :
    endWaiters ids res s = endRecord r.id (res r) r.count none 0 s := by
  unfold endWaiters
  rw [h]
  rfl

theorem waitersOn_congr (test : Nat → Bool) (hj : t.jrn.waiters = s.jrn.waiters) (ha : t.adm.records = s.adm.records) :
    t.waitersOn test = s.waitersOn test := by
  unfold State.waitersOn State.rec?
  rw [hj, ha]

/-- No discard waits for these records. -/
theorem endDiscard_other {ids : List Nat} (h : ∀ d id, s.mrg.discard = some d → d.record = some id → id ∉ ids) :
    endDiscard ids s = s := by
  unfold endDiscard
  split
  next d hd =>
    refine if_neg fun hany => ?_
    obtain ⟨id, hid, hmem⟩ := (Option.any_eq_true ..).1 hany
    exact h d id hd hid (by simpa using hmem)
  next => rfl

theorem endDiscard_answers {ids : List Nat} {id : Nat} (hd : s.mrg.discard = some d) (hid : d.record = some id)
    (hmem : id ∈ ids) : endDiscard ids s = discardAnswer s := by
  unfold endDiscard
  rw [hd]
  exact if_pos (by simpa [hid] using hmem)

/-- The answer to a discard is its response, and the discard is gone (R115). -/
theorem discardAnswer_responds (hd : s.mrg.discard = some d) (hp : d.owed = some p) :
    (discardAnswer s).mrg.discard = none ∧ (discardAnswer s).respondedWith p .doneOk 0 0 d.removed 0 := by
  unfold discardAnswer
  rw [hd]
  dsimp only
  rw [hp]
  exact ⟨by simp [setMrg], respondedWith_answer ..⟩

/-- The end of a discard reaches neither records nor ports nor the journal. -/
theorem endDiscard_frame (ids : List Nat) (s : State) :
    (endDiscard ids s).jrn = s.jrn ∧ (endDiscard ids s).ov = s.ov ∧ (endDiscard ids s).adm = s.adm ∧
      (endDiscard ids s).map = s.map ∧ (endDiscard ids s).hpA = s.hpA ∧ (endDiscard ids s).hpB = s.hpB ∧
      (endDiscard ids s).outA = s.outA ∧ (endDiscard ids s).outB = s.outB ∧
      (∀ x, (endDiscard ids s).mrg.discard = some x → s.mrg.discard = some x) ∧
      ∀ p, ((endDiscard ids s).mg p).notices = (s.mg p).notices := by
  unfold endDiscard
  split
  next d hd =>
    split
    · have hnotices := (faultKeeps_discardAnswer s).notices
      unfold discardAnswer at hnotices ⊢
      rw [hd] at hnotices ⊢
      exact ⟨by simp, by simp, by simp, by simp, by simp, by simp, by simp, by simp, by simp [setMrg], hnotices⟩
    · exact ⟨rfl, rfl, rfl, rfl, rfl, rfl, rfl, rfl, fun _ => id, fun _ => rfl⟩
  next => exact ⟨rfl, rfl, rfl, rfl, rfl, rfl, rfl, rfl, fun _ => id, fun _ => rfl⟩

/-- Releases that become durable join the ring, and nothing but the store changes (R33). -/
theorem freePending_store (durable : Nat → Bool) (s : State) :
    (freePending durable s).ov.pendingFree = s.ov.pendingFree.filter (fun x => !durable x.record) ∧
      (freePending durable s).ov.ring = s.ov.ring ++ (s.ov.pendingFree.filter fun x => durable x.record).map (·.slot) ∧
      (freePending durable s).ov.table = s.ov.table := by
  unfold freePending
  simp [joinAll_ring]

/-! ## The closing conditions after the act (R120) -/

/-- No buffer is due in a state unless it is due in another: it is the same buffer, and less waits on its records. -/
structure DueIn (s t : State) : Prop where
  cond    : t.jrn.cond = s.jrn.cond
  openBuf : t.jrn.openBuf = s.jrn.openBuf
  qNext   : t.jrn.qNext = s.jrn.qNext
  sCk     : t.jrn.sCk = s.jrn.sCk
  layout  : t.map.layout = s.map.layout
  waited  : ∀ id, t.waitedOn id = true → s.waitedOn id = true

theorem DueIn.trans (h : DueIn s t) (k : DueIn t u) : DueIn s u :=
  ⟨k.cond.trans h.cond, k.openBuf.trans h.openBuf, k.qNext.trans h.qNext, k.sCk.trans h.sCk, k.layout.trans h.layout,
    fun id hid => h.waited id (k.waited id hid)⟩

/-- Fewer waiters, releases and discards wait on fewer records. -/
theorem waitedOn_less (hw : ∀ c ∈ t.jrn.waiters, c ∈ s.jrn.waiters ∧ t.rec? c = s.rec? c)
    (hp : ∀ x ∈ t.ov.pendingFree, x ∈ s.ov.pendingFree) (hd : ∀ x, t.mrg.discard = some x → s.mrg.discard = some x)
    {id : Nat} (h : t.waitedOn id = true) : s.waitedOn id = true := by
  unfold State.waitedOn at h ⊢
  simp only [Bool.or_eq_true, List.any_eq_true] at h ⊢
  rcases h with (⟨c, hc, hlatest⟩ | ⟨x, hx, hid⟩) | hdis
  · obtain ⟨hmem, hrec⟩ := hw c hc
    exact .inl (.inl ⟨c, hmem, by rwa [← hrec]⟩)
  · exact .inl (.inr ⟨x, hp x hx, hid⟩)
  · right
    cases hx : t.mrg.discard with
    | none => simp [hx] at hdis
    | some x =>
      rw [hd x hx]
      simpa [hx] using hdis

theorem Ending.dueIn (h : Ending s t) : DueIn s t where
  cond := by rw [h.journal]
  openBuf := by rw [h.journal]
  qNext := by rw [h.journal]
  sCk := by rw [h.journal]
  layout := h.layout
  waited _ := waitedOn_less h.waiters (fun _ hx => h.pending ▸ hx) fun _ hx => h.merge ▸ hx

theorem dueIn_settledFates (ids : List Nat) (f : Fate) (s : State) : DueIn s (setJrn (settledFates ids f) s) :=
  ⟨rfl, rfl, rfl, rfl, rfl, fun _ h => h⟩

theorem dueIn_freePending (durable : Nat → Bool) (s : State) : DueIn s (freePending durable s) where
  cond := by simp
  openBuf := by simp
  qNext := by simp
  sCk := by simp
  layout := by simp
  waited _ := waitedOn_less (fun c hc => ⟨by simpa using hc, rec_congr c (by simp)⟩)
    (fun x hx => by
      rw [(freePending_store durable s).1] at hx
      exact (List.mem_filter.1 hx).1) fun x hx => by simpa using hx

theorem dueIn_endDiscard (ids : List Nat) (s : State) : DueIn s (endDiscard ids s) := by
  obtain ⟨hjrn, hov, hadm, hmap, -, -, -, -, hdis, -⟩ := endDiscard_frame ids s
  refine ⟨by rw [hjrn], by rw [hjrn], by rw [hjrn], by rw [hjrn], by rw [hmap], fun _ => ?_⟩
  exact waitedOn_less (fun c hc => ⟨hjrn ▸ hc, rec_congr c (by rw [hadm])⟩) (fun _ hx => hov ▸ hx) hdis

theorem dueIn_blockDurable (ids : List Nat) (s : State) : DueIn s (blockDurable ids s) :=
  (((dueIn_settledFates ids .durable s).trans (ending_endWaiters ..).dueIn).trans (dueIn_freePending ..)).trans
    (dueIn_endDiscard ..)

/-- A buffer that was not due is not closed (R120). -/
theorem DueIn.closeTest (h : DueIn s t) (hn : ¬ s.bufferDue []) : Machine.closeTest t = t := by
  refine if_neg fun hclose => hn ?_
  obtain ⟨hcond, -, hlive, hne, hdue⟩ := canClose_iff.1 hclose
  unfold JournalUnit.live State.journalLen at hlive
  rw [h.qNext, h.sCk, h.layout] at hlive
  rw [h.openBuf] at hne hdue
  refine ⟨h.cond ▸ hcond, hlive, hne, hdue.imp_right fun ⟨x, hx, hw⟩ => ⟨x, hx, by simp, h.waited _ hw⟩⟩

/-! ## TARGET_STATUS of a journal block (R73, R121) -/

/-- The write of the block in flight has been carried out. -/
structure BlockWritten (s : State) (tag : Nat) (o : TargetOp) (b : FlightBlock) : Prop where
  out   : s.carriedOut tag o
  owner : o.req.owner = .journal
  write : o.req.op = .write
  block : s.jrn.inFlight = some b

theorem BlockWritten.status (h : BlockWritten s tag o b) : exec (.targetStatus tag 0x00 done detail value) s =
    .next (closeTest (blockDurable (b.recs.map (·.id)) (removeOp tag s))) := by
  obtain ⟨hup, ho, hs, hc⟩ := h.out
  rw [exec_status_ok hup ho hs hc, op?_tag ho, ← journalBlockEnd_ok (s := removeOp tag s) h.block]
  unfold finalOutcome
  rw [h.owner]

theorem BlockWritten.status_media (h : BlockWritten s tag o b) : ∃ f, exec (.targetStatus tag 0x0C done detail value) s =
    .next (enterFault (.journalFaultBlock b.seq) b.recs
      (setJrn (fun j => { j with inFlight := none }) { removeOp tag s with free := f })) := by
  obtain ⟨hup, ho, hs, -⟩ := h.out
  obtain ⟨k, f, hend⟩ := endOp_media_write (s := s) (done := done) (detail := detail) hs h.write
  refine ⟨f, ?_⟩
  rw [exec_status_final hup ho hend hup, op?_tag ho,
    ← journalBlockEnd_fails (s := { removeOp tag s with free := f }) (out := .media k) h.block (by simp)]
  unfold finalOutcome
  rw [h.owner]

/-- With nothing due, the act is the block's records becoming durable (R120, R121). -/
theorem BlockWritten.status_stays (h : BlockWritten s tag o b) (hn : ¬ s.bufferDue []) :
    exec (.targetStatus tag 0x00 done detail value) s = .next (blockDurable (b.recs.map (·.id)) (removeOp tag s)) :=
  h.status.trans (congrArg _ ((dueIn_blockDurable _ (removeOp tag s)).closeTest hn))

/-- What touches neither the records nor the ports leaves the end of a command as it is. -/
theorem State.endedWith.after {c : CmdId} {frames : List HostFrame} (h : t.endedWith s c frames)
    (ha : u.adm.records = t.adm.records) (hp : u.hpA = t.hpA ∧ u.hpB = t.hpB) (ho : u.outA = t.outA ∧ u.outB = t.outB) :
    u.endedWith s c frames := by
  obtain ⟨hrec, htag, hout⟩ := h
  refine ⟨(rec_congr c ha).trans hrec, ?_, (out_congr c.port ho.1 ho.2).trans hout⟩
  rwa [tag_congr c hp.1 hp.2]

/-! ## What becomes durable (R33, R76, R115) -/

/-- With nobody waiting on the block, its records become durable and its releases join the ring (R33, R121). -/
theorem blockDurable_quiet {ids : List Nat} (hw : s.waitersOn (fun id => ids.contains id) = [])
    (hd : ∀ d id, s.mrg.discard = some d → d.record = some id → id ∉ ids) :
    blockDurable ids s = freePending (fun id => ids.contains id) (setJrn (settledFates ids .durable) s) := by
  unfold blockDurable
  rw [endWaiters_nil (s := setJrn (settledFates ids .durable) s) hw, endDiscard_other]
  simpa using hd

/-- The journal and the store as such a block leaves them (R33, R121). -/
theorem freePending_settled (ids : List Nat) (s : State) :
    let t := freePending (fun id => ids.contains id) (setJrn (settledFates ids .durable) s)
    t.jrn = settledFates ids .durable s.jrn ∧
      t.ov.pendingFree = s.ov.pendingFree.filter (fun x => !ids.contains x.record) ∧
      t.ov.ring = s.ov.ring ++ (s.ov.pendingFree.filter fun x => ids.contains x.record).map (·.slot) ∧
      t.ov.table = s.ov.table ∧ t.adm = s.adm ∧ t.outA = s.outA ∧ t.outB = s.outB ∧ t.te = s.te ∧ t.map = s.map ∧
      t.mrg = s.mrg := by
  obtain ⟨hpend, hring, htable⟩ := freePending_store (fun id => ids.contains id) (setJrn (settledFates ids .durable) s)
  exact ⟨by simp [setJrn], hpend, hring, htable, by simp [setJrn], by simp [setJrn], by simp [setJrn], by simp [setJrn],
    by simp [setJrn], by simp [setJrn]⟩

/-- A record of the open buffer that something still waits on makes the buffer due (R120). -/
theorem canClose_settled {ids : List Nat} (h : s.bufferDue ids) :
    (freePending (fun id => ids.contains id) (setJrn (settledFates ids .durable) s)).canClose = true := by
  obtain ⟨hcond, hlive, hne, hdue⟩ := h
  obtain ⟨hjrn, hpend, -, -, hadm, -, -, -, hmap, hmrg⟩ := freePending_settled ids s
  generalize freePending (fun id => ids.contains id) (setJrn (settledFates ids .durable) s) = t at hjrn hpend hadm hmap hmrg ⊢
  refine canClose_iff.2 ⟨by rw [hjrn]; exact hcond, by rw [hjrn]; rfl, ?_, by rw [hjrn]; exact hne, ?_⟩
  · unfold State.journalLen
    rw [hjrn, hmap]
    exact hlive
  · rw [hjrn]
    refine hdue.imp_right fun ⟨x, hx, hnamed, hwait⟩ => ⟨x, hx, ?_⟩
    unfold State.waitedOn at hwait ⊢
    have hrec : t.rec? = s.rec? := funext fun c => rec_congr c (by rw [hadm])
    have hkeep : (t.ov.pendingFree.any fun y => decide (y.record = x.id)) =
        s.ov.pendingFree.any fun y => decide (y.record = x.id) := by
      rw [hpend, List.any_filter]
      congr 1
      funext y
      by_cases hy : y.record = x.id
      · simp [hy, hnamed]
      · simp [hy]
    rw [hjrn, hrec, hkeep, hmrg]
    exact hwait

/-- A record that waited alone on the block ends (R76, R159). -/
theorem blockDurable_ends {ids : List Nat} (hw : s.waitersOn (fun id => ids.contains id) = [r]) (ha : s.answerable r.id) :
    (blockDurable ids s).endedWith s r.id [s.statusFor r.id (durableResult r) r.count none 0] := by
  obtain ⟨hup, hdef⟩ := ha
  have hend := endRecord_ends_of (s := s) (t := setJrn (settledFates ids .durable) s) (c := r.id) (durableResult r) r.count
    none 0 rfl rfl (by rw [show (setJrn (settledFates ids .durable) s).hp r.id.port = s.hp r.id.port from rfl, hup]; simp) hdef
  rw [← endWaiters_one (s := setJrn (settledFates ids .durable) s) (res := durableResult) hw] at hend
  unfold blockDurable
  generalize endWaiters ids durableResult (setJrn (settledFates ids .durable) s) = v at hend ⊢
  obtain ⟨-, -, hadm, -, hA, hB, houtA, houtB, -⟩ := endDiscard_frame ids (freePending (fun id => ids.contains id) v)
  exact hend.after (by rw [hadm]; simp) ⟨hA.trans (by simp), hB.trans (by simp)⟩
    ⟨houtA.trans (by simp), houtB.trans (by simp)⟩

/-- Whoever waits, no block is in flight any more (R121). -/
theorem blockDurable_inFlight (ids : List Nat) (s : State) : (blockDurable ids s).jrn.inFlight = none := by
  have hend := congrArg JournalUnit.inFlight (ending_endWaiters ids durableResult (setJrn (settledFates ids .durable) s)).journal
  unfold blockDurable
  generalize endWaiters ids durableResult (setJrn (settledFates ids .durable) s) = v at hend ⊢
  rw [(endDiscard_frame ids (freePending (fun id => ids.contains id) v)).1]
  simpa [settledFates, setFates] using hend

/-- A discard that waited on the block is answered (R115). -/
theorem blockDurable_answers {ids : List Nat} {id : Nat} (hd : s.mrg.discard = some d) (hid : d.record = some id)
    (hmem : id ∈ ids) (hp : d.owed = some p) :
    (blockDurable ids s).mrg.discard = none ∧ (blockDurable ids s).respondedWith p .doneOk 0 0 d.removed 0 := by
  have hmerge := (ending_endWaiters ids durableResult (setJrn (settledFates ids .durable) s)).merge
  have hd' : (freePending (fun id => ids.contains id)
      (endWaiters ids durableResult (setJrn (settledFates ids .durable) s))).mrg.discard = some d := by
    simpa [hmerge] using hd
  unfold blockDurable
  rw [endDiscard_answers hd' hid hmem]
  exact discardAnswer_responds hd' hp

/-! ## Entry into FAULT (R121, R130) -/

/-- A queue a notice was offered to asks for attention (R178). -/
theorem offer_attention (b : NoticeBody) (region : Option Nat) (m : PortMgmt) : (offer b region m).attention = true := by
  unfold offer PortMgmt.attention
  split
  next h =>
    obtain ⟨n, hn, -⟩ := List.any_eq_true.1 h
    simpa using List.ne_nil_of_mem hn
  next =>
    split
    next => simp
    next h =>
      have : m.notices ≠ [] := fun hnil => h (by simp [hnil, Config.noticeMax])
      simpa using this

/-- The state in which the records of a failed block and of the open buffer are dropped (R121, R130). -/
def recordsDropped (notice : NoticeBody) (lost : List Nat) (s : State) : State :=
  setJrn (fun j => setFates lost .dropped { j with cond := .fault, openBuf := [] }) (raise notice none s)

theorem enterFault_eq {notice : NoticeBody} {failed : List JRecord} {lost : List Nat}
    (hl : lost = failed.map (·.id) ++ s.jrn.openBuf.map (·.id)) (hw : s.jrn.waiting = []) : enterFault notice failed s =
      markMissed (endDiscard lost (endWaiters lost (fun _ => .journalFault) (recordsDropped notice lost s))) := by
  have hv : enterFault notice failed s = markMissed
      (dropWaiting (endDiscard lost (endWaiters lost (fun _ => .journalFault) (recordsDropped notice lost s))).jrn.waiting.length
        (endDiscard lost (endWaiters lost (fun _ => .journalFault) (recordsDropped notice lost s)))) := by
    subst hl
    rfl
  have hnone : (endDiscard lost (endWaiters lost (fun _ => .journalFault) (recordsDropped notice lost s))).jrn.waiting = [] := by
    rw [(endDiscard_frame ..).1]
    exact (ending_endWaiters ..).waiting hw
  rw [hv, hnone]
  rfl

/-- What the entry into FAULT makes of the journal and the notice queues (R121, R130, R131). -/
theorem enterFault_journal {notice : NoticeBody} {failed : List JRecord} {lost : List Nat}
    (hl : lost = failed.map (·.id) ++ s.jrn.openBuf.map (·.id)) (hw : s.jrn.waiting = []) :
    (enterFault notice failed s).jrn.cond = .fault ∧ (enterFault notice failed s).jrn.inFlight = s.jrn.inFlight ∧
      (enterFault notice failed s).jrn.openBuf = [] ∧ (enterFault notice failed s).jrn.waiting = [] ∧
      (enterFault notice failed s).jrn.fates =
        s.jrn.fates.map (fun x => if lost.contains x.1 then (x.1, Fate.dropped) else x) ∧
      (enterFault notice failed s).jrn.run = s.jrn.run.map (fun r => { r with missed := true }) ∧
      ∀ p, ((enterFault notice failed s).mg p).notices = (offer notice none (s.mg p)).notices := by
  have hend := ending_endWaiters lost (fun _ => .journalFault) (recordsDropped notice lost s)
  rw [enterFault_eq hl hw]
  generalize endWaiters lost (fun _ => .journalFault) (recordsDropped notice lost s) = v at hend ⊢
  obtain ⟨hjrn, -, -, -, -, -, -, -, -, hnotices⟩ := endDiscard_frame lost v
  have hj := hjrn.trans hend.journal
  have hwait : (endDiscard lost v).jrn.waiting = [] := by
    rw [hjrn]
    exact hend.waiting hw
  refine ⟨?_, ?_, ?_, hwait, ?_, ?_, fun p => ?_⟩
  · exact congrArg JournalUnit.cond hj
  · exact (congrArg JournalUnit.inFlight hj).trans rfl
  · exact congrArg JournalUnit.openBuf hj
  · exact congrArg JournalUnit.fates hj
  · exact congrArg (fun j => j.run.map fun r => { r with missed := true }) hj
  · refine (hnotices p).trans ?_
    rw [hend.mgmt p]
    exact congrArg _ (mg_raise notice none s p)

/-- A record that waited alone on what is dropped ends with JOURNAL_FAULT, and its STATUS tells of the notice (R130, R159). -/
theorem enterFault_ends {notice : NoticeBody} {failed : List JRecord} {lost : List Nat}
    (hl : lost = failed.map (·.id) ++ s.jrn.openBuf.map (·.id)) (hw : s.jrn.waiting = [])
    (hr : s.waitersOn (fun id => lost.contains id) = [r]) (ha : s.answerable r.id) :
    (enterFault notice failed s).endedWith s r.id [.status r.id.tag .journalFault r.count none 0 true] := by
  obtain ⟨hup, hdef⟩ := ha
  have hend := endRecord_ends_of (s := recordsDropped notice lost s) (t := recordsDropped notice lost s) (c := r.id)
    .journalFault r.count none 0 rfl rfl
    (by rw [show (recordsDropped notice lost s).hp r.id.port = s.hp r.id.port from rfl, hup]; simp) hdef
  have hflag : ((recordsDropped notice lost s).mg r.id.port).attention = true :=
    (congrArg _ (mg_raise notice none s r.id.port)).trans (offer_attention ..)
  unfold State.statusFor at hend
  rw [hflag, ← endWaiters_one (s := recordsDropped notice lost s) (res := fun _ => .journalFault) hr] at hend
  rw [enterFault_eq hl hw]
  generalize endWaiters lost (fun _ => .journalFault) (recordsDropped notice lost s) = v at hend ⊢
  obtain ⟨-, -, hadm, -, hA, hB, houtA, houtB, -⟩ := endDiscard_frame lost v
  exact State.endedWith.after (s := s) hend (congrArg _ hadm) ⟨hA, hB⟩ ⟨houtA, houtB⟩

/-- Settles O35: nobody waits, the buffer that is due is closed, a WRITE and a DISCARD that wait end, and the failure is FAULT. -/
theorem journalBlockBecomesDurableOrFails : Obligations.JournalBlockBecomesDurableOrFails := by
  intro s tag done value detail o b ids hl hown hw hb hids
  have h : BlockWritten s tag o b := ⟨hl, hown, hw, hb⟩
  subst hids
  refine ⟨fun hq hd hn => ?_, fun hq hd hdue hwait l hlay => ?_, fun r hr ha hn => ?_, fun d id p hd hid hmem hp hn => ?_,
    fun hwait lost hlost => ?_⟩
  · refine ⟨_, h.status_stays hn, ?_⟩
    rw [blockDurable_quiet (s := removeOp tag s) hq hd]
    obtain ⟨hjrn, hpend, hring, htable, hadm, hA, hB, -⟩ := freePending_settled (b.recs.map (·.id)) (removeOp tag s)
    exact ⟨hjrn, hpend, hring, htable, hadm, hA, hB⟩
  · have hstat := h.status (done := done) (value := value) (detail := detail)
    rw [blockDurable_quiet (s := removeOp tag s) hq hd] at hstat
    have hclose := canClose_settled (s := removeOp tag s) hdue
    obtain ⟨hjrn, hpend, -, -, -, -, -, hte, hmap, -⟩ := freePending_settled (b.recs.map (·.id)) (removeOp tag s)
    generalize freePending (fun id => (b.recs.map (·.id)).contains id)
      (setJrn (settledFates (b.recs.map (·.id)) .durable) (removeOp tag s)) = v at hstat hclose hjrn hpend hte hmap
    obtain ⟨hfly, hopen, hq, -, -, hwaits⟩ := closeBlock_journal v
    have hcloses : closeTest v = closeBlock v := by
      unfold closeTest closeAndTake
      rw [if_pos hclose, takeHandOffs_nil (hwaits.trans (by rw [hjrn]; exact hwait))]
    rw [hcloses] at hstat
    refine ⟨_, hstat, hfly.trans (by rw [hjrn]; rfl), hopen, hq.trans (by rw [hjrn]; rfl), ?_, ?_⟩
    · simpa using hpend
    · have htarget : v.journalTarget v.jrn.qNext = l.journalBase + s.jrn.qNext % l.journalLen := by
        unfold State.journalTarget
        rw [hmap, hjrn, show (removeOp tag s).map.layout = some l from hlay]
        rfl
      rw [closeBlock_journalQ, htarget, hte, hmap, hjrn]
      rfl
  · exact ⟨_, h.status_stays hn, blockDurable_inFlight .., blockDurable_ends (s := removeOp tag s) hr ha⟩
  · exact ⟨_, h.status_stays hn, blockDurable_answers (s := removeOp tag s) hd hid hmem hp⟩
  · obtain ⟨f, hstat⟩ := h.status_media (done := done) (value := value) (detail := detail)
    obtain ⟨hcond, hfly, hopen, hnone, hfates, hrun, hnotices⟩ := enterFault_journal
      (s := setJrn (fun j => { j with inFlight := none }) { removeOp tag s with free := f })
      (notice := .journalFaultBlock b.seq) (failed := b.recs) hlost hwait
    exact ⟨_, hstat, hcond, hfly, hopen, hnone, hfates, hrun, hnotices, fun r hr ha => enterFault_ends
      (s := setJrn (fun j => { j with inFlight := none }) { removeOp tag s with free := f }) hlost hwait hr ha⟩

end Sys2Proof.Machine
end

section
/-! SUPPORT. The ends of a relocation: what they leave of the Overlay Table and the retired set, and when its claim leaves
(R32, R35, R89, R92 to R95). -/

namespace Sys2Proof.Machine

variable {s t u v : State} {r x : Reloc} {y : Record} {e : Entry} {o : TargetOp} {q : Piece} {c : CmdId} {how : RelocEnd}
  {g i n : Nat} {slots : List Nat} {m : Mask}

/-! ## What follows the change of the store (R89, R95) -/

/-- Two states with the same entries and the same retired slots. -/
structure SameStore (s t : State) : Prop where
  table   : t.ov.table = s.ov.table
  retired : t.ov.retired = s.ov.retired

theorem SameStore.refl (s : State) : SameStore s s := ⟨rfl, rfl⟩

theorem SameStore.trans (h : SameStore s t) (k : SameStore t u) : SameStore s u :=
  ⟨k.table.trans h.table, k.retired.trans h.retired⟩

theorem SameStore.of_ov (h : t.ov = s.ov) : SameStore s t := ⟨by rw [h], by rw [h]⟩

/-- The claim of a relocation that has ended is gone, and the oldest queued request is placed (R95). -/
def claimGone (g : Nat) (s : State) : State :=
  placeQueued (unplace (.reloc g) (setRelocs (List.filter fun x => decide (x.grain ≠ g)) s))

theorem claimGone_frame (g : Nat) (s : State) : (claimGone g s).ov = s.ov ∧ (claimGone g s).pool = s.pool ∧
    (claimGone g s).jrn = s.jrn ∧ (claimGone g s).te.ops = s.te.ops ∧ (claimGone g s).adm.records = s.adm.records := by
  unfold claimGone
  simp [unplace, setOrder]

/-- What the claim leaves behind goes on: the dependants' records are tested for their ends, and the pieces that waited are
handed (R89, R95). -/
def afterClaim (g : Nat) (deps : List Dependant) (s : State) : State :=
  let u := deps.foldl (fun v d => endCheck d.cmd v) s
  (u.strandedOn g).foldl (fun v x => handPiece x.1 x.2 [] v) u

theorem relocLeave_ending (h : s.reloc? g = some r) (hs : r.stage = .ending how) :
    relocLeave g s = afterClaim g r.dependants (claimGone g s) := by
  unfold relocLeave
  simp only [h, hs]
  rfl

theorem relocLeave_cases (g : Nat) (s : State) :
    relocLeave g s = s ∨ ∃ r, s.reloc? g = some r ∧ relocLeave g s = afterClaim g r.dependants (claimGone g s) := by
  unfold relocLeave
  split
  · exact .inl rfl
  next r hr =>
    split
    · exact .inr ⟨r, hr, rfl⟩
    · exact .inl rfl

/-- Handing pieces touches no part of the store. -/
theorem handPieces_ov (l : List (CmdId × Nat)) (s : State) : (l.foldl (fun v x => handPiece x.1 x.2 [] v) s).ov = s.ov :=
  foldl_rel (fun s t => t.ov = s.ov) (fun _ => rfl) (fun _ _ _ a b => b.trans a) (fun _ _ => by simp) l s

theorem afterClaim_store (g : Nat) (deps : List Dependant) (s : State) : SameStore s (afterClaim g deps s) :=
  (foldl_rel SameStore .refl (fun _ _ _ => .trans) (fun _ _ => ⟨by simp, by simp⟩) deps s).trans
    (.of_ov (handPieces_ov ..))

theorem relocLeave_store (g : Nat) (s : State) : SameStore s (relocLeave g s) := by
  rcases relocLeave_cases g s with h | ⟨r, -, h⟩
  · rw [h]
    exact .refl s
  · rw [h]
    exact (SameStore.of_ov (claimGone_frame g s).1).trans (afterClaim_store ..)

/-- With no dependant no record ends, and the whole store stays. -/
theorem relocLeave_ov (h : s.reloc? g = some r) (hd : r.dependants = []) : (relocLeave g s).ov = s.ov := by
  rcases relocLeave_cases g s with hl | ⟨x, hx, hl⟩
  · rw [hl]
  · obtain rfl : x = r := Option.some.inj (hx.symm.trans h)
    rw [hl, hd]
    exact (handPieces_ov ..).trans (claimGone_frame g s).1

/-- A hand-off concerns no relocation (R119). -/
theorem takeParts_relocs (k : Nat) (recs : List JRecord) (s : State) :
    (takeParts k recs s).2.te.relocs = s.te.relocs := by
  have close (w : State) : (closeBlock w).te.relocs = w.te.relocs := by
    unfold closeBlock
    simp only [autoCheckpoint_frame]
    exact enqueue_te_relocs _ _
  have part (l : List JRecord) (w : State) : (takePart l w).2.te.relocs = w.te.relocs := by
    unfold takePart
    dsimp only
    split <;> split <;> simp [close]
  induction k generalizing recs s with
  | zero => rfl
  | succ k ih =>
    unfold takeParts
    dsimp only
    split
    · rfl
    · split
      · exact (ih ..).trans (part ..)
      · exact part ..

theorem handOff_relocs (by' : Producer) (recs : List JRecord) (s : State) :
    (handOff by' recs s).2.te.relocs = s.te.relocs := by
  unfold handOff
  dsimp only
  split
  · rfl
  · split
    · simp
    · split
      · rfl
      · split <;> exact takeParts_relocs ..

theorem relocHand_cases (g : Nat) (recs : List JRecord) (s : State) :
    relocHand g recs s = (handOff (.reloc g) recs s).2 ∨
      relocHand g recs s = relocLeave g (handOff (.reloc g) recs s).2 := by
  unfold relocHand
  dsimp only
  split
  · exact .inr rfl
  · exact .inl rfl

theorem relocHand_store (g : Nat) (recs : List JRecord) (s : State) : SameStore s (relocHand g recs s) := by
  have hand : SameStore s (handOff (.reloc g) recs s).2 := .of_ov (by simp)
  rcases relocHand_cases g recs s with h | h
  · exact h ▸ hand
  · exact h ▸ hand.trans (relocLeave_store ..)

theorem relocHand_ov {recs : List JRecord} (h : s.reloc? g = some r) (hd : r.dependants = []) :
    (relocHand g recs s).ov = s.ov := by
  rcases relocHand_cases g recs s with hh | hh
  · rw [hh]
    simp
  · rw [hh, relocLeave_ov ((reloc?_congr g (handOff_relocs ..)).trans h) hd]
    simp

/-! ## A relocation that is ending (R92, R93, R94) -/

/-- A relocation in ENDING, with the slots retired beside it. -/
def Reloc.ended (how : RelocEnd) (slots : List Nat) (r : Reloc) : Reloc :=
  { r with stage := .ending how, newSlot := none, retired := slots }

/-- The state in which a relocation has given back what it holds and is ending. -/
def relocEnded (r : Reloc) (how : RelocEnd) (slots : List Nat) (s : State) : State :=
  mapReloc r.grain (Reloc.ended how slots) (clearReloc r s)

theorem relocEnded_frame (r : Reloc) (how : RelocEnd) (slots : List Nat) (s : State) :
    (relocEnded r how slots s).ov = s.ov ∧ (relocEnded r how slots s).adm = s.adm ∧
      (relocEnded r how slots s).jrn = s.jrn ∧ (relocEnded r how slots s).map = s.map ∧
      (relocEnded r how slots s).te.ops = s.te.ops := by
  unfold relocEnded
  simp

theorem relocEnded_charge (r : Reloc) (how : RelocEnd) (slots : List Nat) (s : State) (p : Port) :
    (relocEnded r how slots s).pool.charge (.host p) = s.pool.charge (.host p) := by
  unfold relocEnded clearReloc
  cases p <;> simp [BufferPool.charge, BufferPool.setCharge]

theorem relocEnded_reloc? (h : s.reloc? g = some r) : ∃ x, (relocEnded r how slots s).reloc? g = some x ∧
    x.stage = .ending how ∧ x.dependants = r.dependants := by
  obtain ⟨-, rfl⟩ := reloc_mem h
  have hclear : (clearReloc r s).reloc? r.grain = some { r with held := 0, claiming := false, data := [] } :=
    reloc?_mapReloc (f := fun x => { x with held := 0, claiming := false, data := [] })
      ((reloc?_congr _ (by simp)).trans h) fun _ => rfl
  exact ⟨_, reloc?_mapReloc hclear fun _ => rfl, rfl, rfl⟩

/-- The names the journal records of an end get, and the state after it. -/
def endNamed (r : Reloc) (withEntry : Bool) (slots : List Nat) (s : State) : List JRecord × State :=
  nameRecords (s.endRecords r.grain withEntry slots) s

/-- Naming records changes the next name alone. -/
theorem endNamed_state (r : Reloc) (withEntry : Bool) (slots : List Nat) (s : State) :
    ∃ k, (endNamed r withEntry slots s).2 = { s with jrn := { s.jrn with nextId := k } } := ⟨_, rfl⟩

theorem endRecords_length (g : Nat) (withEntry : Bool) (slots : List Nat) (s : State) :
    (s.endRecords g withEntry slots).length ≤ slots.length + 1 := by
  unfold State.endRecords
  split
  · split <;> simp
  · simp

theorem endNamed_length (r : Reloc) (withEntry : Bool) (slots : List Nat) (s : State) :
    (endNamed r withEntry slots s).1.length ≤ slots.length + 1 := by
  unfold endNamed nameRecords
  rw [namesFrom_length]
  exact endRecords_length ..

/-! ## Pieces that wait to be issued to a slot that is retired (R32, R65) -/

theorem readyOn_congr (n : Nat) (hr : t.adm.records = s.adm.records) (ho : t.te.ops = s.te.ops) :
    t.readyOn n = s.readyOn n := by
  unfold State.readyOn State.waitsToIssue State.inFlight
  rw [hr, ho]

/-- With no piece waiting for any of the slots there is none to hand. -/
theorem handReadyAll_idle (h : ∀ n ∈ slots, s.readyOn n = []) : handReadyAll slots s = s := by
  unfold handReadyAll
  induction slots with
  | nil => rfl
  | cons n ns ih =>
    have hone : handReady n s = s := by
      unfold handReady
      rw [h n List.mem_cons_self]
      rfl
    rw [List.foldl_cons, hone]
    exact ih fun k hk => h k (List.mem_cons_of_mem _ hk)

/-- No piece comes to wait for a slot as an operation of no piece ends and pieces become DONE. -/
theorem readyOn_done (ho : o ∈ s.te.ops) (hown : ∀ d j, o.req.owner ≠ .piece d j) (htab : s.te.tableOk)
    (hte : t.te.ops = (removeOp o.tag s).te.ops)
    (hrecs : ∀ z ∈ t.adm.records, ∃ y ∈ s.adm.records, y.id = z.id ∧ y.op = z.op ∧
      ∀ (j : Nat) p, z.plan[j]? = some p → y.plan[j]? = some p ∨ p.state = .done)
    (h : s.readyOn n = []) : t.readyOn n = [] := by
  rw [readyOn_eq_nil] at h ⊢
  intro z hz hop j p hp hk
  obtain ⟨y, hy, hid, hyop, hplan⟩ := hrecs z hz
  rcases hplan j p hp with hq | hdone
  · exact waitsToIssue_removeOp ho htab hte (hown _ _) (hid ▸ h y hy (hyop.trans hop) j p hq hk)
  · unfold State.waitsToIssue
    simp [hdone]

/-! ## The move (R92) -/

/-- The entry of a grain that has moved: the blocks written are present and not lost (R92). -/
def State.movedEntry (s : State) (r : Reloc) (n : Nat) (e : Entry) : Entry :=
  { e with slot := some n, present := r.copied ||| s.dependantMask r,
           lost := maskLess (e.lost ||| r.lost) (r.copied ||| s.dependantMask r), state := .resident }

/-- The slots a move or a lost end retires (R35). -/
def Reloc.slotsRetired (r : Reloc) (e : Entry) : List Nat := r.retired ++ e.slot.toList

/-- The old slot of a grain, if any, is retired with its entry replaced (R32, R92, R93). -/
def entryReplaced (e e' : Entry) (s : State) : State := e.slot.toList.foldl (fun t m => retire m t) (putEntry e' s)

theorem entryReplaced_store {e' : Entry} (he : s.entry? g = some e) (hg : e'.grain = e.grain) :
    (entryReplaced e e' s).entry? g = some e' ∧
      (∀ m, e.slot = some m →
        (entryReplaced e e' s).ov.retired = if m ∈ s.ov.retired then s.ov.retired else s.ov.retired ++ [m]) ∧
      (e.slot = none → (entryReplaced e e' s).ov.retired = s.ov.retired) ∧
      (entryReplaced e e' s).adm = s.adm ∧ (entryReplaced e e' s).jrn = s.jrn ∧ (entryReplaced e e' s).map = s.map ∧
      (entryReplaced e e' s).te = s.te ∧ (entryReplaced e e' s).pool = s.pool := by
  have hput : (putEntry e' s).entry? g = some e' := (entry?_putEntry ..).trans (if_pos (hg.trans (entry?_grain he)))
  unfold entryReplaced
  cases e.slot with
  | none => exact ⟨hput, by simp, fun _ => rfl, rfl, rfl, rfl, rfl, rfl⟩
  | some m =>
    refine ⟨hput, fun k hk => ?_, by simp, rfl, rfl, rfl, rfl, rfl⟩
    cases hk
    simp [retire, putEntry]

/-- A relocation that moves, with its grain's entry already replaced. -/
def moveEnded (r : Reloc) (n : Nat) (e : Entry) (s : State) : State :=
  relocEnded r .move (r.slotsRetired e) (entryReplaced e (s.movedEntry r n e) s)

/-- The journal records of a move. -/
def moveNamed (r : Reloc) (n : Nat) (e : Entry) (s : State) : List JRecord × State :=
  endNamed r true (r.slotsRetired e) (moveEnded r n e s)

/-- The record that makes the dependants' writes durable: that of the entry in a KEEP region (R76, R118). -/
def moveLatest (r : Reloc) (n : Nat) (e : Entry) (s : State) : Option Nat :=
  if s.journaled e.region then (moveNamed r n e s).1.head?.map (·.id) else none

/-- A move whose records are named and whose dependants' pieces are DONE. -/
def movePiecesDone (r : Reloc) (n : Nat) (e : Entry) (s : State) : State :=
  endPieces r.dependants .done (moveLatest r n e s) (moveNamed r n e s).2

theorem moveEnded_map (r : Reloc) (n : Nat) (e : Entry) (s : State) : (moveEnded r n e s).map = s.map := by
  unfold moveEnded entryReplaced
  rw [(relocEnded_frame ..).2.2.2.1]
  cases e.slot <;> rfl

/-- The move, from the replacing of the entry to the hand-off of its records (R92). -/
theorem relocMove_eq (he : s.entry? r.grain = some e) : relocMove r n s =
    relocHand r.grain (moveNamed r n e s).1 (handReadyAll e.slot.toList
      (relocNotices e.region r.grain (r.slotsRetired e) (decide (r.lost ≠ 0)) (movePiecesDone r n e s))) := by
  have hlatest : moveLatest r n e s =
      if (moveEnded r n e s).journaled e.region then (moveNamed r n e s).1.head?.map (·.id) else none := by
    unfold moveLatest State.journaled State.policyOf
    rw [moveEnded_map]
  obtain ⟨grain⟩ := e
  obtain rfl : grain = r.grain := entry?_grain he
  unfold movePiecesDone relocMove
  rw [hlatest, he]
  rfl

/-- The names given to the records of a move change the next name alone. -/
theorem moveNamed_state (r : Reloc) (n : Nat) (e : Entry) (s : State) :
    ∃ k, (moveNamed r n e s).2 = { moveEnded r n e s with jrn := { (moveEnded r n e s).jrn with nextId := k } } :=
  endNamed_state ..

/-- What a move leaves alone until its records are handed on. -/
theorem moveNamed_frame (he : s.entry? r.grain = some e) : (moveNamed r n e s).2.adm = s.adm ∧
    (moveNamed r n e s).2.te.ops = s.te.ops ∧ (moveNamed r n e s).2.map = s.map ∧
    (∃ k, (moveNamed r n e s).2.jrn = { s.jrn with nextId := k }) ∧
    ∀ p, (moveNamed r n e s).2.pool.charge (.host p) = s.pool.charge (.host p) := by
  obtain ⟨-, -, -, hadm, hjrn, hmap, hte, hpool⟩ := entryReplaced_store (e' := s.movedEntry r n e) he rfl
  obtain ⟨-, dadm, djrn, dmap, dops⟩ := relocEnded_frame r .move (r.slotsRetired e) (entryReplaced e (s.movedEntry r n e) s)
  have dcharge := relocEnded_charge r .move (r.slotsRetired e) (entryReplaced e (s.movedEntry r n e) s)
  obtain ⟨k, hk⟩ := moveNamed_state r n e s
  rw [hk]
  unfold moveEnded
  exact ⟨dadm.trans hadm, dops.trans (congrArg _ hte), dmap.trans hmap, ⟨k, by rw [djrn, hjrn]⟩,
    fun p => (dcharge p).trans (by rw [hpool])⟩

theorem moveNamed_reloc? (h : s.reloc? r.grain = some r) (he : s.entry? r.grain = some e) :
    ∃ x, (moveNamed r n e s).2.reloc? r.grain = some x ∧ x.stage = .ending .move ∧ x.dependants = r.dependants := by
  obtain ⟨-, -, -, -, -, -, hte, -⟩ := entryReplaced_store (e' := s.movedEntry r n e) he rfl
  obtain ⟨x, hx, hstage, hdeps⟩ := relocEnded_reloc? (how := .move) (slots := r.slotsRetired e)
    ((reloc?_congr r.grain (congrArg _ hte)).trans h)
  obtain ⟨k, hk⟩ := moveNamed_state r n e s
  refine ⟨x, ?_, hstage, hdeps⟩
  rw [hk]
  exact hx

/-- The store after a move (R32, R35, R92). -/
theorem relocMove_store (he : s.entry? r.grain = some e) : (relocMove r n s).entry? r.grain = some (s.movedEntry r n e) ∧
    ∀ m, e.slot = some m →
      (relocMove r n s).ov.retired = if m ∈ s.ov.retired then s.ov.retired else s.ov.retired ++ [m] := by
  obtain ⟨hent, hret, -⟩ := entryReplaced_store (e' := s.movedEntry r n e) he rfl
  have hov : (moveNamed r n e s).2.ov = (entryReplaced e (s.movedEntry r n e) s).ov :=
    (show (moveNamed r n e s).2.ov = (moveEnded r n e s).ov by simp [moveNamed, endNamed]).trans (relocEnded_frame ..).1
  have hsame : SameStore (entryReplaced e (s.movedEntry r n e) s) (relocMove r n s) := by
    rw [relocMove_eq he]
    refine (SameStore.of_ov ?_).trans (relocHand_store ..)
    simp [movePiecesDone, hov]
  refine ⟨(entry?_congr _ hsame.table).trans hent, fun m hm => hsame.retired.trans (hret m hm)⟩

end Sys2Proof.Machine
end

section
/-! SUPPORT. TARGET_STATUS of the last write of a relocation: the move, a further attempt, the lost end and the cut (R32, R35,
R91 to R95). -/

namespace Sys2Proof.Machine

variable {s t u v : State} {r x : Reloc} {y : Record} {e : Entry} {o : TargetOp} {q : Piece} {c : CmdId} {how : RelocEnd}
  {g i n k off tag done value : Nat} {slots ring : List Nat} {m : Mask} {detail : Option Nat}

/-! ## The claim leaves after a move (R92, R95) -/

/-- A record of which a piece is still to end is not ended (R76, R78). -/
theorem endCheck_pending (hr : s.rec? c = some y) (hp : ∃ p ∈ y.plan, p.isPending = true) : endCheck c s = s := by
  obtain ⟨p, hmem, hpend⟩ := hp
  have hwork : s.workPending y = true := by
    unfold State.workPending
    rw [List.any_eq_true.2 ⟨p, hmem, by simp [Piece.isUnended, hpend]⟩]
    rfl
  unfold endCheck
  rw [hr]
  exact if_pos hwork

theorem strandedOn_congr (g : Nat) (h : t.adm.records = s.adm.records) : t.strandedOn g = s.strandedOn g := by
  unfold State.strandedOn
  rw [h]

/-- A piece that becomes DONE changes no other piece of any record. -/
theorem pieceDone_records (k : Nat) : ∀ z ∈ (pieceDone c i k s).adm.records, ∃ y ∈ s.adm.records, y.id = z.id ∧ y.op = z.op ∧
    ∀ (j : Nat) p, z.plan[j]? = some p → (y.plan[j]? = some p ∧ ¬ (y.id = c ∧ j = i)) ∨ p.state = .done := by
  intro z hz
  rcases mem_mapRec (s := s) hz with ⟨hne, hmem⟩ | ⟨y, hmem, -, rfl⟩
  · exact ⟨z, hmem, rfl, rfl, fun j p hp => .inl ⟨hp, fun h => hne h.1⟩⟩
  · refine ⟨y, hmem, rfl, rfl, fun j p hp => ?_⟩
    simp only [List.getElem?_modify] at hp
    by_cases hij : i = j
    · subst hij
      simp only [if_true] at hp
      obtain ⟨p', -, rfl⟩ := Option.map_eq_some_iff.1 hp
      exact .inr rfl
    · exact .inl ⟨by simpa [hij] using hp, fun h => hij h.2.symm⟩

/-- The one piece that waited HANDED on a grain is DONE: none waits any more (R92). -/
theorem strandedOn_pieceDone (h : s.strandedOn g = [(c, i)]) : (pieceDone c i k s).strandedOn g = [] := by
  have listed {z : Record} (hz : z ∈ s.adm.records) {j : Nat} {p : Piece} (hp : z.plan[j]? = some p)
      (hh : p.state = .handed ∧ grainOf p.first = g) : z.id = c ∧ j = i := by
    have hmem : (z.id, j) ∈ s.strandedOn g := by
      unfold State.strandedOn
      refine List.mem_flatMap.2 ⟨z, hz, List.mem_filterMap.2 ⟨j, List.mem_range.2 (List.getElem?_eq_some_iff.1 hp).1, ?_⟩⟩
      rw [hp]
      exact if_pos hh
    rw [h] at hmem
    simpa using hmem
  rw [strandedOn_eq_nil]
  intro z hz p hp hh
  obtain ⟨j, hj⟩ := List.mem_iff_getElem?.1 hp
  obtain ⟨w, hmem, -, -, hplan⟩ := pieceDone_records k z hz
  rcases hplan j p hj with ⟨hw, hother⟩ | hdone
  · exact hother (listed hmem hw hh)
  · exact nomatch hdone.symm.trans hh.1

/-- Nothing follows the leaving of a claim when no dependant's record ends and no piece waits (R95). -/
theorem afterClaim_quiet {deps : List Dependant} (hend : ∀ d ∈ deps, endCheck d.cmd s = s) (hs : s.strandedOn g = []) :
    afterClaim g deps s = s := by
  have hdeps : deps.foldl (fun v d => endCheck d.cmd v) s = s := by
    induction deps with
    | nil => rfl
    | cons d ds ih =>
      rw [List.foldl_cons, hend d List.mem_cons_self]
      exact ih fun z hz => hend z (List.mem_cons_of_mem _ hz)
  unfold afterClaim
  rw [hdeps]
  dsimp only
  rw [hs]
  rfl

/-- A move whose pieces are DONE and whose notices are raised (R92, R95). -/
def moveTold (r : Reloc) (n : Nat) (e : Entry) (s : State) : State :=
  relocNotices e.region r.grain (r.slotsRetired e) (decide (r.lost ≠ 0)) (movePiecesDone r n e s)

/-- With no piece waiting for the old slot, only the records of the move are left to hand on. -/
theorem relocMove_hands (he : s.entry? r.grain = some e)
    (hready : ∀ m, e.slot = some m → (movePiecesDone r n e s).readyOn m = []) :
    relocMove r n s = relocHand r.grain (moveNamed r n e s).1 (moveTold r n e s) := by
  rw [relocMove_eq he]
  unfold moveTold
  rw [handReadyAll_idle fun m hm => ?_]
  rw [readyOn_congr m (s := movePiecesDone r n e s) (by simp) (by simp)]
  exact hready m (by simpa using hm)

/-- A move without dependants ends no piece. -/
theorem movePiecesDone_nil (hd : r.dependants = []) : movePiecesDone r n e s = (moveNamed r n e s).2 := by
  unfold movePiecesDone
  rw [hd]
  rfl

/-- A move with one dependant and no ENTRY record ends its piece (R92). -/
theorem movePiecesDone_one (he : s.entry? r.grain = some e) (hd : r.dependants = [⟨c, i⟩])
    (hj : s.journaled e.region = false) (hr : s.rec? c = some y) (hq : y.plan[i]? = some q) :
    movePiecesDone r n e s = pieceDone c i q.held (moveNamed r n e s).2 := by
  have hlatest : moveLatest r n e s = none := if_neg (by simp [hj])
  have hrec : (moveNamed r n e s).2.rec? c = some y := (rec_congr c (by rw [(moveNamed_frame he).1])).trans hr
  have hpiece : (moveNamed r n e s).2.handedPiece ⟨c, i⟩ = some q := by
    unfold State.handedPiece
    rw [hrec]
    exact hq
  unfold movePiecesDone endPieces
  rw [hd, hlatest, List.foldl_cons, hpiece]
  rfl

/-- Without dependants, pieces that wait, or a hand-off that must wait, the claim of a move leaves (R95). -/
theorem relocMove_leaves (h : s.reloc? r.grain = some r) (he : s.entry? r.grain = some e) (hd : r.dependants = [])
    (hstr : s.strandedOn r.grain = []) (hready : ∀ m, e.slot = some m → (movePiecesDone r n e s).readyOn m = [])
    (hw : s.jrn.waiting = []) (hlive : s.jrn.live < s.journalLen)
    (hfit : s.jrn.openBuf.length + r.retired.length + 2 ≤ 30) : (relocMove r n s).clearOf r.grain := by
  obtain ⟨hadm, -, hmap, ⟨k, hjrn⟩, -⟩ := moveNamed_frame (n := n) he
  obtain ⟨x, hx, hstage, -⟩ := moveNamed_reloc? (n := n) h he
  have hlen : (moveNamed r n e s).1.length ≤ r.retired.length + 2 := by
    have hnames := endNamed_length r true (r.slotsRetired e) (moveEnded r n e s)
    have hslots : (r.slotsRetired e).length ≤ r.retired.length + 1 := by
      unfold Reloc.slotsRetired
      cases e.slot <;> simp
    unfold moveNamed
    omega
  have told : (moveTold r n e s).adm = s.adm ∧ (moveTold r n e s).map = s.map ∧
      (moveTold r n e s).jrn = { s.jrn with nextId := k } ∧ (moveTold r n e s).te = (moveNamed r n e s).2.te := by
    unfold moveTold
    rw [movePiecesDone_nil hd]
    simp [hadm, hmap, hjrn]
  rw [relocMove_hands he hready]
  generalize moveTold r n e s = w at told ⊢
  obtain ⟨wadm, wmap, wjrn, wte⟩ := told
  have hroom : w.jrn.live < w.journalLen ∧ w.jrn.openBuf.length + (moveNamed r n e s).1.length ≤ 30 := by
    unfold State.journalLen at hlive ⊢
    rw [wmap, wjrn]
    exact ⟨hlive, by simp only; omega⟩
  obtain ⟨j, htaken, hj⟩ := handOff_taken (s := w) (by' := .reloc r.grain) (recs := (moveNamed r n e s).1)
    (.inr (.inr ⟨by rw [wjrn]; exact hw, hroom⟩))
  have hleave : relocHand r.grain (moveNamed r n e s).1 w = relocLeave r.grain { w with jrn := j } := by
    unfold relocHand
    rw [htaken]
    rfl
  rw [hleave]
  refine (relocLeave_facts ((reloc?_congr (s := (moveNamed r n e s).2) r.grain (by simp [wte])).trans hx) hstage ?_ ?_).1
  · exact (strandedOn_congr _ (congrArg _ wadm)).trans hstr
  · exact hj.trans (by rw [wjrn]; exact hw)

/-- With one dependant, whose record has another piece to end, that piece is DONE and its buffers are given back (R92). -/
theorem relocMove_pieceDone (h : s.reloc? r.grain = some r) (he : s.entry? r.grain = some e) (hd : r.dependants = [⟨c, i⟩])
    (hj : s.journaled e.region = false) (hstr : s.strandedOn r.grain = [(c, i)])
    (hready : ∀ m, e.slot = some m → (movePiecesDone r n e s).readyOn m = []) (hr : s.rec? c = some y)
    (hq : y.plan[i]? = some q) (hother : ∃ (j : Nat) (p : Piece), j ≠ i ∧ y.plan[j]? = some p ∧ p.isPending = true) :
    (relocMove r n s).rec? c = some { y with plan := y.plan.set i (q.drop .done) } ∧
      (relocMove r n s).pool.charge (.host c.port) = s.pool.charge (.host c.port) - q.held := by
  obtain ⟨hadm, -, -, -, hcharge⟩ := moveNamed_frame (n := n) he
  obtain ⟨x, hx, hstage, hdeps⟩ := moveNamed_reloc? (n := n) h he
  have hstr' : (pieceDone c i q.held (moveNamed r n e s).2).strandedOn r.grain = [] :=
    strandedOn_pieceDone ((strandedOn_congr _ (congrArg _ hadm)).trans hstr)
  have hrec : (pieceDone c i q.held (moveNamed r n e s).2).rec? c = some { y with plan := y.plan.set i (q.drop .done) } :=
    pieceDone_rec? ((rec_congr c (congrArg _ hadm)).trans hr) hq
  have hpool : (pieceDone c i q.held (moveNamed r n e s).2).pool.charge (.host c.port) =
      s.pool.charge (.host c.port) - q.held := by
    rw [← hcharge c.port]
    exact charge_setCharge ..
  have told : (moveTold r n e s).adm = (pieceDone c i q.held (moveNamed r n e s).2).adm ∧
      (moveTold r n e s).pool = (pieceDone c i q.held (moveNamed r n e s).2).pool ∧
      (moveTold r n e s).te.relocs = (moveNamed r n e s).2.te.relocs := by
    unfold moveTold
    rw [movePiecesDone_one he hd hj hr hq]
    simp [pieceDone]
  rw [relocMove_hands he hready]
  generalize pieceDone c i q.held (moveNamed r n e s).2 = d at hstr' hrec hpool told
  generalize moveTold r n e s = w at told ⊢
  obtain ⟨wadm, wpool, wrel⟩ := told
  have handed : (handOff (.reloc r.grain) (moveNamed r n e s).1 w).2.adm = d.adm ∧
      (handOff (.reloc r.grain) (moveNamed r n e s).1 w).2.pool.charge (.host c.port) = d.pool.charge (.host c.port) := by
    refine ⟨by simp [wadm], ?_⟩
    rw [← wpool]
    cases c.port <;> simp [BufferPool.charge]
  have hw : (handOff (.reloc r.grain) (moveNamed r n e s).1 w).2.reloc? r.grain = some x :=
    (reloc?_congr _ ((handOff_relocs ..).trans wrel)).trans hx
  obtain ⟨hadm', hpool'⟩ := handed
  rcases relocHand_cases r.grain (moveNamed r n e s).1 w with hh | hh
  · rw [hh]
    exact ⟨(rec_congr c (congrArg _ hadm')).trans hrec, hpool'.trans hpool⟩
  · rw [hh, relocLeave_ending hw hstage]
    generalize (handOff (.reloc r.grain) (moveNamed r n e s).1 w).2 = z at hadm' hpool'
    obtain ⟨-, zpool, -, -, zrecs⟩ := claimGone_frame r.grain z
    have hzrec : (claimGone r.grain z).rec? c = some { y with plan := y.plan.set i (q.drop .done) } :=
      (rec_congr c (zrecs.trans (congrArg _ hadm'))).trans hrec
    have hidle : endCheck c (claimGone r.grain z) = claimGone r.grain z := by
      obtain ⟨j, p, hne, hp, hpend⟩ := hother
      exact endCheck_pending hzrec ⟨p, List.mem_of_getElem? (i := j) (by simpa [List.getElem?_set, Ne.symm hne] using hp), hpend⟩
    rw [afterClaim_quiet (fun d hmem => ?_) ((strandedOn_congr _ (zrecs.trans (congrArg _ hadm'))).trans hstr')]
    · exact ⟨hzrec, by rw [zpool]; exact hpool'.trans hpool⟩
    · rw [hdeps, hd] at hmem
      obtain rfl := List.mem_singleton.1 hmem
      exact hidle

end Sys2Proof.Machine
end

section
/-! SUPPORT. The final outcomes of a relocation's last write: the store after the lost end and the cut, the further attempt,
and the statement (R31, R34, R35, R91 to R94). -/

namespace Sys2Proof.Machine

variable {s t u : State} {r x : Reloc} {e : Entry} {o : TargetOp} {g n off tag done value : Nat} {ring : List Nat}
  {m : Mask} {detail : Option Nat}

/-! ## The lost end (R93) -/

/-- The entry of a grain whose relocation is lost: every block it had, or was to get, is lost (R93). -/
def State.lostEntry (s : State) (r : Reloc) (e : Entry) : Entry :=
  { e with slot := none, present := 0, lost := e.present ||| e.lost ||| s.dependantMask r ||| r.lost, state := .resident }

/-- A lost end whose records are named, of an attempt that has no slot (R93). -/
def lostNamed (r : Reloc) (e : Entry) (s : State) : List JRecord × State :=
  endNamed r true (r.slotsRetired e) (relocEnded r .lost (r.slotsRetired e) (entryReplaced e (s.lostEntry r e) s))

theorem relocLost_eq (he : s.entry? r.grain = some e) (hn : r.newSlot = none)
    (hl : e.present ||| e.lost ||| s.dependantMask r ||| r.lost ≠ 0) : relocLost r s =
      relocHand r.grain (lostNamed r e s).1 (handReadyAll e.slot.toList (failDependants r.dependants .lostData
        (endPieces r.dependants .failed none
          (relocNotices e.region r.grain (r.slotsRetired e) true (lostNamed r e s).2)))) := by
  obtain ⟨grain⟩ := e
  obtain rfl : grain = r.grain := entry?_grain he
  unfold relocLost
  rw [he, hn]
  dsimp only [Option.map_some, Option.getD_some, Option.bind_some]
  rw [if_neg hl, decide_eq_true hl]
  rfl

/-- The store after a lost end of an attempt that has no slot (R32, R35, R93). -/
theorem relocLost_store (he : s.entry? r.grain = some e) (hn : r.newSlot = none)
    (hl : e.present ||| e.lost ||| s.dependantMask r ||| r.lost ≠ 0) :
    SameStore (entryReplaced e (s.lostEntry r e) s) (relocLost r s) := by
  have hov : (lostNamed r e s).2.ov = (entryReplaced e (s.lostEntry r e) s).ov := by
    unfold lostNamed endNamed
    rw [(nameRecords_frame ..).2.1]
    exact (relocEnded_frame ..).1
  rw [relocLost_eq he hn hl]
  exact SameStore.trans ⟨by simp [hov], by simp [hov]⟩ (relocHand_store ..)

/-! ## The cut (R94) -/

theorem maskLess_zero (p : Mask) : maskLess p 0 = p := by
  unfold maskLess
  exact (congrArg (p &&& ·) BitVec.not_zero).trans BitVec.and_allOnes

/-- Marking blocks of which others are left changes the entry alone (R31). -/
theorem markLost_left (he : s.entry? g = some e) (hl : maskLess e.present (e.present &&& m) ≠ 0) :
    (markLost g m s).1.2 = none ∧ (markLost g m s).2.entry? g = some (e.losing m) ∧
      (markLost g m s).2.ov.ring = s.ov.ring := by
  by_cases hm : e.present &&& m = 0
  · have hsame : e.losing m = e := by
      unfold Entry.losing
      rw [hm, maskLess_zero, show e.lost ||| 0 = e.lost from BitVec.or_zero]
    rw [markLost_nothing he hm, hsame]
    exact ⟨rfl, he, rfl⟩
  · rw [markLost_some he hm hl]
    exact ⟨rfl, (entry?_putEntry ..).trans (if_pos (entry?_grain he)), rfl⟩

/-- A cut with blocks marked and its slot back in the ring (R94). -/
def cutStored (r : Reloc) (s : State) : State :=
  joinAll r.newSlot.toList (setEntryState r.grain .resident (markLost r.grain (maskLess r.copySet r.copied) s).2)

/-- A cut that is ending, whose records are named (R94). -/
def cutNamed (r : Reloc) (s : State) : List JRecord × State :=
  endNamed r (decide ((markLost r.grain (maskLess r.copySet r.copied) s).1.1 ≠ 0)) (r.retired ++ [])
    (relocEnded r .cut (r.retired ++ []) (cutStored r s))

theorem relocCut_eq (he : s.entry? r.grain = some e)
    (hl : maskLess e.present (e.present &&& maskLess r.copySet r.copied) ≠ 0) : ∃ anyLost, relocCut r s =
      relocHand r.grain (cutNamed r s).1 (failDependants r.dependants .targetFault
        (endPieces r.dependants .failed none (relocNotices e.region r.grain (r.retired ++ []) anyLost (cutNamed r s).2))) := by
  obtain ⟨hnone, -⟩ := markLost_left he hl
  refine ⟨decide (r.lost ||| (markLost r.grain (maskLess r.copySet r.copied) s).1.1 ≠ 0), ?_⟩
  unfold relocCut
  dsimp only
  rw [hnone, he]
  rfl

theorem cutNamed_ov (r : Reloc) (s : State) : (cutNamed r s).2.ov = (cutStored r s).ov := by
  unfold cutNamed endNamed
  rw [(nameRecords_frame ..).2.1]
  exact (relocEnded_frame ..).1

/-- The store after a cut that leaves blocks present; without dependants the slot of the attempt is all that joins the ring
(R31, R94). -/
theorem relocCut_store (h : s.reloc? r.grain = some r) (he : s.entry? r.grain = some e) (hn : r.newSlot = some n)
    (hl : maskLess e.present (e.present &&& maskLess r.copySet r.copied) ≠ 0) :
    (relocCut r s).entry? r.grain = some { e.losing (maskLess r.copySet r.copied) with state := .resident } ∧
      (r.dependants = [] → (relocCut r s).ov.ring = s.ov.ring ++ [n]) := by
  obtain ⟨-, hent, hring⟩ := markLost_left he hl
  obtain ⟨anyLost, heq⟩ := relocCut_eq he hl
  have hov := cutNamed_ov r s
  have stored : (cutStored r s).entry? r.grain = some { e.losing (maskLess r.copySet r.copied) with state := .resident } ∧
      (cutStored r s).ov.ring = s.ov.ring ++ [n] := by
    unfold cutStored
    rw [hn]
    refine ⟨?_, (joinAll_ring ..).trans (by rw [← hring]; rfl)⟩
    refine (entry?_congr (s := setEntryState r.grain .resident (markLost r.grain (maskLess r.copySet r.copied) s).2) _
      (by simp)).trans ((entry?_setEntryState ..).trans ?_)
    rw [hent]
    rfl
  obtain ⟨sent, sring⟩ := stored
  rw [heq]
  refine ⟨?_, fun hd => ?_⟩
  · refine (entry?_congr _ ((relocHand_store ..).table.trans ?_)).trans sent
    simp [hov]
  · obtain ⟨x, hx, -, hdeps⟩ := relocEnded_reloc? (how := .cut) (slots := r.retired ++ []) (s := cutStored r s) (r := r)
      (g := r.grain) ((reloc?_congr r.grain (by unfold cutStored; simp)).trans h)
    have hnamed : (cutNamed r s).2.reloc? r.grain = some x := hx
    rw [hd]
    show (relocHand r.grain _ (relocNotices ..)).ov.ring = _
    rw [relocHand_ov ((reloc?_congr _ (by simp)).trans hnamed) (hdeps.trans hd), (relocNotices_frame ..).2.1, hov, sring]

/-! ## The last write of an attempt (R91) -/

/-- A relocation whose attempt has met a media failure: its slot is retired (R91). -/
def Reloc.attemptFailed (n : Nat) (r : Reloc) : Reloc :=
  { r with newSlot := none, failed := true, retired := r.retired ++ [n] }

/-- A relocation that is to be cut (R94). -/
def Reloc.toCut (r : Reloc) : Reloc := { r with cut := true }

/-- The last write of an attempt has been carried out. -/
structure AttemptWritten (s : State) (tag off g : Nat) (o : TargetOp) (r : Reloc) (n : Nat) : Prop where
  out      : s.carriedOut tag o
  owner    : o.req.owner = .relocWrite g off
  write    : o.req.op = .write
  reloc    : s.reloc? g = some r
  stage    : r.stage = .writing
  claiming : r.claiming = false
  cut      : r.cut = false
  newSlot  : r.newSlot = some n
  last     : s.lastOf tag (Owner.ofReloc g)

/-- An attempt ends when nothing of it is left to end (R91). -/
theorem relocAdvance_ends (h : s.reloc? g = some r) (hs : r.stage = .writing) (hc : r.cut = false) (hcl : r.claiming = false)
    (hw : s.hasWork (Owner.ofReloc g) = false) : relocAdvance g s = endAttempt r s := by
  unfold relocAdvance
  simp [h, hs, hc, hcl, hw]

/-- A cut is taken when no operation is in flight (R94). -/
theorem relocAdvance_cuts (h : s.reloc? g = some r) (hs : r.stage = .writing) (hc : r.cut = true)
    (hw : s.hasWork (Owner.ofReloc g) = false) : relocAdvance g s = relocCut r s := by
  unfold relocAdvance
  simp [h, hs, hc, inFlight_of_hasWork hw]

/-- Every write of the attempt ended OK, and something was written: the grain moves (R91, R92). -/
theorem AttemptWritten.status_ok (h : AttemptWritten s tag off g o r n) (hf : r.failed = false)
    (hm : r.copied ||| s.dependantMask r ≠ 0) :
    exec (.targetStatus tag 0x00 done detail value) s = .next (relocMove r n (removeOp tag s)) := by
  obtain ⟨hup, ho, hs, hc⟩ := h.out
  have hadv := relocAdvance_ends (s := removeOp tag s) h.reloc h.stage h.cut h.claiming h.last
  have hmove : endAttempt r (removeOp tag s) = relocMove r n (removeOp tag s) := by
    unfold endAttempt
    rw [if_neg (by simp [hf]), h.newSlot]
    exact if_neg hm
  rw [exec_status_ok hup ho hs hc, op?_tag ho, ← hmove, ← hadv]
  unfold finalOutcome
  rw [h.owner]
  rfl

/-- A media failure retires the slot of the attempt, which ends (R35, R91). -/
theorem AttemptWritten.status_media (h : AttemptWritten s tag off g o r n) : ∃ u,
    exec (.targetStatus tag 0x0C done detail value) s = .next (endAttempt (r.attemptFailed n) u) ∧
      u.reloc? g = some (r.attemptFailed n) ∧ u.adm = s.adm ∧ u.ov.table = s.ov.table ∧ u.ov.ring = s.ov.ring ∧
      u.ov.retired = if n ∈ s.ov.retired then s.ov.retired else s.ov.retired ++ [n] := by
  obtain ⟨hup, ho, hs, -⟩ := h.out
  obtain ⟨k, f, hend⟩ := endOp_media_write (s := s) (done := done) (detail := detail) hs h.write
  have hexec := exec_status_final (value := value) hup ho hend hup
  generalize hw : ({ removeOp o.tag s with free := f } : State) = w at hexec
  have hreloc : w.reloc? g = some r := by rw [← hw]; exact h.reloc
  have hfail : (retire n (mapReloc g (Reloc.attemptFailed n) w)).reloc? g = some (r.attemptFailed n) :=
    reloc?_mapReloc hreloc fun _ => rfl
  have hwork : (retire n (mapReloc g (Reloc.attemptFailed n) w)).hasWork (Owner.ofReloc g) = false := by
    rw [← hw, op?_tag ho]
    exact h.last
  refine ⟨retire n (mapReloc g (Reloc.attemptFailed n) w), ?_, hfail, by rw [← hw]; rfl, by rw [← hw]; rfl,
    by rw [← hw]; rfl, ?_⟩
  · rw [← relocAdvance_ends hfail h.stage h.cut h.claiming hwork, hexec]
    unfold finalOutcome
    rw [h.owner]
    dsimp only
    unfold relocWriteEnd
    rw [hreloc]
    dsimp only [Option.bind_some]
    rw [h.newSlot]
    rfl
  · rw [← hw]
    simp [retire, removeOp]

/-- A final failure of the target cuts the relocation (R91, R94). -/
theorem AttemptWritten.status_fault (h : AttemptWritten s tag off g o r n) :
    exec (.targetStatus tag 0x06 done detail value) s =
      .next (relocCut r.toCut (mapReloc g Reloc.toCut (removeOp tag s))) := by
  obtain ⟨hup, ho, hs, -⟩ := h.out
  have hend : endOp o 0x06 done detail s = finalOutcome o.req o.got .fault (removeOp o.tag s) := by
    unfold endOp
    rw [hs]
    rfl
  have hcut : (mapReloc g Reloc.toCut (removeOp tag s)).reloc? g = some r.toCut :=
    reloc?_mapReloc (t := removeOp tag s) h.reloc fun _ => rfl
  rw [exec_status_final hup ho hend hup, op?_tag ho,
    ← relocAdvance_cuts hcut h.stage rfl (show (mapReloc g Reloc.toCut (removeOp tag s)).hasWork _ = false from h.last)]
  unfold finalOutcome
  rw [h.owner]
  rfl

/-- A failed attempt with attempts and slots left is followed by another (R34, R91). -/
theorem endAttempt_again {a : Nat} (h : s.reloc? g = some r) (hf : r.failed = true) (ha : r.attempts < 3)
    (hring : s.ov.ring = a :: ring) (hm : r.copied ||| s.dependantMask r ≠ 0) :
    (endAttempt r s).reloc? g = some (r.attempting a).inWriting ∧ (endAttempt r s).ov.ring = ring ∧
      (endAttempt r s).ov.table = s.ov.table ∧ (endAttempt r s).ov.retired = s.ov.retired := by
  obtain ⟨-, hg⟩ := reloc_mem h
  have hrel := allocated_reloc? (n := a) h
  obtain ⟨ar, atab, aret⟩ := allocated_ov (g := g) hring
  have hmask : (r.attempting a).copied ||| (allocated g a s).dependantMask (r.attempting a) ≠ 0 := by
    rw [dependantMask_congr (s := s) (x := r.attempting a) (r := r) (congrArg _ (allocated_frame g a s).2.1) rfl rfl]
    exact hm
  have hagain : endAttempt r s = startAttempt g (allocated g a s) := by
    unfold endAttempt
    rw [if_pos hf, if_pos (show r.attempts < Config.relocAttempts from ha), hg, allocate_head hring]
  rw [hagain, startAttempt_writes hrel hmask, relocWrites_eq (inWriting_reloc? hrel) rfl]
  exact ⟨inWriting_reloc? hrel, ar, atab, aret⟩

/-- A failed attempt that was the last ends the relocation in the lost way (R91, R93). -/
theorem endAttempt_lost (hf : r.failed = true) (ha : 3 ≤ r.attempts) : endAttempt r s = relocLost r s := by
  unfold endAttempt
  rw [if_pos hf, if_neg (show ¬ r.attempts < Config.relocAttempts from Nat.not_lt.2 ha)]

/-- Settles O37: the move, whose claim leaves or whose dependant's piece is DONE; another attempt; the lost end; the cut. -/
theorem relocationWritesEnd : Obligations.RelocationWritesEnd := by
  intro s tag done value off g n detail o r e hl hown hwr hrel hst hcl hcut hf hn hlast he
  have h : AttemptWritten s tag off g o r n := ⟨hl, hown, hwr, hrel, hst, hcl, hcut, hn, hlast⟩
  obtain ⟨-, hg⟩ := reloc_mem hrel
  subst hg
  refine ⟨fun hm => ⟨_, h.status_ok hf hm, ?_⟩, fun a ring ha hring hm => ?_, fun ha hblocks => ?_, fun hleft =>
    ⟨_, h.status_fault, ?_⟩⟩
  · obtain ⟨hent, hret⟩ := relocMove_store (n := n) (s := removeOp tag s) he
    have hready (htab : s.te.tableOk) (hidle : ∀ m, e.slot = some m → s.readyOn m = [])
        (hrecs : ∀ z ∈ (movePiecesDone r n e (removeOp tag s)).adm.records, ∃ y ∈ s.adm.records, y.id = z.id ∧ y.op = z.op ∧
          ∀ (j : Nat) p, z.plan[j]? = some p → y.plan[j]? = some p ∨ p.state = .done) (m : Nat) (hs : e.slot = some m) :
        (movePiecesDone r n e (removeOp tag s)).readyOn m = [] := by
      obtain ⟨-, hops, -⟩ := moveNamed_frame (n := n) (s := removeOp tag s) he
      refine readyOn_done (mem_of_op? hl.2.1) (by simp [hown]) htab ?_ hrecs (hidle m hs)
      rw [op?_tag hl.2.1, movePiecesDone, (endPieces_frame ..).2.2.2.2.1, hops]
    obtain ⟨hadm, -⟩ := moveNamed_frame (n := n) (s := removeOp tag s) he
    refine ⟨hent, hret, fun hd hstr htab hidle _ hw hlive hfit => ?_, fun c i x q hd hj hstr htab hidle hr hq hother => ?_⟩
    · have hclear := relocMove_leaves (n := n) (s := removeOp tag s) hrel he hd hstr
        (hready htab hidle fun z hz => ?_) hw hlive hfit
      · exact ⟨List.find?_eq_none.2 fun z hz => by simpa using hclear.relocs z hz, hclear.order⟩
      · rw [movePiecesDone_nil hd, hadm] at hz
        exact ⟨z, hz, rfl, rfl, fun _ _ hp => .inl hp⟩
    · refine relocMove_pieceDone (s := removeOp tag s) hrel he hd hj hstr (hready htab hidle fun z hz => ?_) hr hq hother
      rw [movePiecesDone_one (s := removeOp tag s) he hd hj hr hq] at hz
      obtain ⟨y, hy, hid, hop, hplan⟩ := pieceDone_records q.held z hz
      rw [hadm] at hy
      exact ⟨y, hy, hid, hop, fun j p hp => (hplan j p hp).imp_left (·.1)⟩
  · obtain ⟨u, hexec, hu, hadm, htable, hur, hret⟩ := h.status_media (done := done) (value := value) (detail := detail)
    have hmask : u.dependantMask (r.attemptFailed n) = s.dependantMask r := dependantMask_congr (congrArg _ hadm) rfl rfl
    obtain ⟨hr', hring', htable', hret'⟩ := endAttempt_again (r := r.attemptFailed n) hu rfl ha (hur.trans hring)
      (by rw [hmask]; exact hm)
    exact ⟨_, _, hexec, hr', rfl, rfl, rfl, rfl, rfl, hring', (entry?_congr _ (htable'.trans htable)).trans he,
      hret'.trans hret⟩
  · obtain ⟨u, hexec, hu, hadm, htable, -, hret⟩ := h.status_media (done := done) (value := value) (detail := detail)
    have hmask : u.dependantMask (r.attemptFailed n) = s.dependantMask r := dependantMask_congr (congrArg _ hadm) rfl rfl
    have hue : u.entry? (r.attemptFailed n).grain = some e := (entry?_congr _ htable).trans he
    have hlostEntry : u.lostEntry (r.attemptFailed n) e = s.lostEntry r e := by
      unfold State.lostEntry
      rw [hmask]
      rfl
    have hne : e.present ||| e.lost ||| u.dependantMask (r.attemptFailed n) ||| (r.attemptFailed n).lost ≠ 0 :=
      fun hz => hblocks (BitVec.or_eq_zero_iff.1 (BitVec.or_eq_zero_iff.1 hz).1).1
    have hsame := relocLost_store hue rfl hne
    rw [← endAttempt_lost (r := r.attemptFailed n) rfl ha] at hsame
    obtain ⟨hent, hold, hnone, -⟩ := entryReplaced_store (e' := u.lostEntry (r.attemptFailed n) e) hue rfl
    have hmem : n ∈ u.ov.retired := by
      rw [hret]
      split <;> simp_all
    refine ⟨_, hexec, ?_, fun m hm => ?_, ?_⟩
    · rw [hsame.retired]
      cases hs : e.slot with
      | none => rwa [hnone hs]
      | some m =>
        rw [hold m hs]
        split
        · exact hmem
        · exact List.mem_append_left _ hmem
    · rw [hsame.retired, hold m hm]
      split
      · assumption
      · simp
    · exact ((entry?_congr _ hsame.table).trans hent).trans (congrArg _ hlostEntry)
  · exact relocCut_store (r := r.toCut) (s := mapReloc r.grain Reloc.toCut (removeOp tag s))
      (reloc?_mapReloc (t := removeOp tag s) hrel fun _ => rfl) he hn hleft

end Sys2Proof.Machine
end
